-- ==== Sys2Proof/Word.lean ====
section
/-! DEFINITION. The word types of the FX-840 (spec/00_scope.md R5, R6; spec/02_state.md R34, R37): bytes,
32-bit lane words of a register, 64-bit scalar registers, and the lane masks of a group (one bit a lane,
at most 64 lanes; the bits above W - 1 stay 0, R41). -/

namespace Sys2Proof

/-- A byte of memory (R6). -/
abbrev Byte := BitVec 8

/-- A 32-bit vector register of one lane, or a 32-bit stored word (R34). -/
abbrev Word32 := BitVec 32

/-- A 64-bit scalar register, address or special register (R37, R46). -/
abbrev Word64 := BitVec 64

/-- One bit for each lane of a group, lane `L` in bit `L` (R41). -/
abbrev Mask := BitVec 64

end Sys2Proof
end

