-- ==== Sys2Proof/Config.lean ====
section
/-! DEFINITION. The free values of the model: what spec/ leaves open and no rule bounds to one value. Each is a
constant without a body, so that nothing can be proved of its value beyond what the place that uses it says. A
counter of State, or the operands, tell one use from another. The sizes that the implementation fixes, and that
spec/ states, are ordinary definitions. -/

namespace Sys2Proof

/-- An undefined register word: what `REGROUP` leaves in registers it does not move (R188). Entry 3. -/
opaque Config.freeWord : Nat → Word32

/-- TVAL of a trap for which no rule names it: a queue, barrier or stack trap (R326). Entry 3. -/
opaque Config.freeTval : Nat → Word64

/-- An undefined predicate mask (R188). Entry 3. -/
opaque Config.freeMask : Nat → Mask

/-- An undefined byte: a destination byte of a `CPY` that overlaps its source (R219), a read that a slice port
refuses without data (R23). Entry 3. -/
opaque Config.freeByte : Nat → Byte

/-- Which of several elements that one `SCT` puts at one location wins (R221): a number that picks among them, for the
command's number and the first of them. Entry 3. -/
opaque Config.scatterPick : Nat → Nat → Nat

/-- Which sector or line leaves a full cache, among those that may (R276, R280): a number that picks one. Entry 17. -/
opaque Config.victim : Nat → Nat

/-- The order in which members of an unordered reduction are combined: a number that picks the next one
(R183, R222, R235). Entry 3. -/
opaque Config.freePick : Nat → Nat

/-- Requests that a world's share of a turnstile, in 64ths, holds in queues beside its sectors, and the bytes of a request
in the overflow area (R319 states neither). Entry 17. -/
opaque Config.requestRoom : Nat → Nat
opaque Config.requestSize : Nat

/-- SINPI, COSPI and TANH: whether the result at this input is the FP32 value above the true result in magnitude, or
the one below (R72); a function of the function's number and its input. Entry 12. -/
opaque Config.sfuAbove : Nat → Word32 → Bool

/-- A number drawn from the device's random bit generator (R391, R396, R402). Entry 13. -/
opaque Config.random : Nat → Nat

/-- The fused unique device secret (R401). Entry 13. -/
opaque Config.uds : Nat

/-- The number from which a P-256 key pair is made with extra random bits, for the secret that these are derived from: R401
does not say how. Entry 13. -/
opaque Config.extraBits : Nat → Nat

/-- The nonce of GMAC in the tag of a row (0) or a node (1), for its address or number and its counter: R394 and R396 state
none. Entry 13. -/
opaque Config.tagNonce : Nat → Nat → Nat → Nat

/-- The bytes that stand for a list of numbers in what is hashed or signed (R401 to R403), which no rule lays out. Entry
13. -/
opaque Config.recordBytes : List Nat → List Byte

/-- The fuse configuration (R402), and the firmware with which the module is shipped. Entry 13. -/
opaque Config.fuses : List Byte
opaque Config.shippedFirmware : List Byte

/-- The firmware of the stage managers (1) or of the base-die cores (2) in an image (R402). Entry 13. -/
opaque Config.firmwarePart : List Byte → Nat → List Byte

/-- Horieb's firmware key (R401), and in a firmware image: the part that is signed, the signature, and the security version
(R435), whose places no rule states. Entry 13. -/
opaque Config.firmwareKey : Nat × Nat
opaque Config.signedPart : List Byte → List Byte
opaque Config.signatureIn : List Byte → Nat × Nat
opaque Config.versionIn : List Byte → Nat

/-- The certificate chain of SPDM slot 0 (R401): X.509 bytes that no rule states, as a number, for the public key of DeviceID and
the alias's and key agreement's certificates, each what is signed and its signature. Entry 13. -/
opaque Config.certChain : Nat × Nat → List Byte × (Nat × Nat) → List Byte × (Nat × Nat) → Nat

/-- What is signed in the certificate of the alias (0) or of key agreement (1): X.509 bytes for the issuer's and the subject's
public keys; and the number drawn for its signature. Entry 13. -/
opaque Config.certBody : Nat → Nat × Nat → Nat × Nat → List Byte
opaque Config.certNonce : Nat → List Byte → Nat

/-- Bytes of the die buffer that holds a core's rushes in host-assisted mode (R426). Entry 3. -/
opaque Config.dieBuffer : Nat

/-- Bytes that a CXL.io read of host memory returns where nothing was written by the model. Entry 6. -/
def Config.hostByte : Byte := 0

end Sys2Proof
end

