-- ==== Sys2Proof/Syntax.lean ====
section
/-! DEFINITION. The instructions, events and commands of the FX-840: one constructor of `Instr` for each
row of spec/opcode_table.json. Scalar words follow spec/04_encoding.md R84 to R97, lane words R87 to R99, and
the rows without an encoding (launch, scheduling, memory, host, trust, debug, fleet) carry as arguments which
unit they act on. -/

namespace Sys2Proof

/-- A scalar register number s0 to s63 (R85). -/
abbrev SReg := BitVec 6

/-- The two kinds of core (R29, R96). -/
inductive CoreKind where
  | compute
  | base
  deriving DecidableEq, Repr

/-- The six scopes, narrowest first (R10); SCOPE codes 0 to 5 (R189). -/
inductive Scope where
  | grp
  | core
  | booth
  | die
  | dev
  | sys
  deriving DecidableEq, Repr

/-- The eight access paths, codes 0 to 7 (R230, R282). -/
inductive Path where
  | ls
  | const
  | mtx
  | copy
  | gath
  | coll
  | bank
  | atom
  deriving DecidableEq, Repr

/-- A source modifier: size code and subfield index (R90). -/
structure SrcMod where
  sz : BitVec 2
  ix : BitVec 3
  deriving DecidableEq, Repr

/-- A destination modifier: size code, subfield index, rounding mode (R91). -/
structure DstMod where
  sz : BitVec 2
  ix : BitVec 3
  rm : BitVec 3
  deriving DecidableEq, Repr

/-- The fields that every lane word has beside OP and bits [14:0] of IMM16 (R87). -/
structure LaneHead where
  vd : BitVec 9
  va : BitVec 9
  vb : BitVec 9
  vc : BitVec 9
  ma : SrcMod
  mb : SrcMod
  mc : SrcMod
  md : DstMod
  pr : BitVec 7
  pn : Bool
  u : Bool
  e : Bool
  k : Bool
  alw : Bool
  deriving DecidableEq, Repr

/-- Modes of a copy: memory to scratchpad, and so on (R219). -/
inductive CpyMode where
  | ms
  | sm
  | mm
  | ss
  deriving DecidableEq, Repr

/-- Modes of a collective (R222). -/
inductive CollMode where
  | allred
  | redscat
  | allgth
  | bcast
  deriving DecidableEq, Repr

/-- Kinds of `BAR` (R228). -/
inductive BarKind where
  | sync
  | arrive
  | wait
  deriving DecidableEq, Repr

/-- Kinds of `FENCE` (R229). -/
inductive FenceKind where
  | acq
  | rel
  | ar
  deriving DecidableEq, Repr

/-- Atomic operations, codes 0 to 10 (R232). -/
inductive AtomOp where
  | add
  | and
  | or
  | xor
  | min
  | max
  | minn
  | maxn
  | xchg
  | cas
  | fadd
  deriving DecidableEq, Repr

/-- Comparisons of `ICMP`, codes 0 to 9 (R165). -/
inductive ICond where
  | eq
  | ne
  | lt
  | le
  | gt
  | ge
  | ltn
  | len
  | gtn
  | gen
  deriving DecidableEq, Repr

/-- Comparisons of `FCMP`, codes 0 to 7 (R170). -/
inductive FCond where
  | eq
  | ne
  | lt
  | le
  | gt
  | ge
  | un
  | or
  deriving DecidableEq, Repr

/-- The type TY of a floating-point form (R99). -/
inductive FTy where
  | f32
  | f16x2
  | bf16x2
  deriving DecidableEq, Repr

/-- The formats of `CVT`, codes 0 to 6 (R173). -/
inductive CvtFmt where
  | f32
  | f16lo
  | f16hi
  | bf16lo
  | bf16hi
  | i32
  | n32
  deriving DecidableEq, Repr

/-- Modes of `BSCALE` with the class that `.enc` selects (R175). -/
inductive BsMode where
  | enc8
  | enc6
  | enc4
  | mul
  | div
  deriving DecidableEq, Repr

/-- Modes of `SHFL` (R181). -/
inductive ShflMode where
  | idx
  | up
  | down
  | xor
  deriving DecidableEq, Repr

/-- Modes of `VOTE` (R182). -/
inductive VoteMode where
  | any
  | all
  | ballot
  | count
  deriving DecidableEq, Repr

/-- Operations of `REDUX` and `SCAN`, codes 0 to 10 (R183). -/
inductive RedOp where
  | iadd
  | imin
  | imax
  | iminn
  | imaxn
  | and
  | or
  | xor
  | fadd
  | fmin
  | fmax
  deriving DecidableEq, Repr

/-- Access sizes of the memory forms, codes 0 to 6 (R189). -/
inductive MSize where
  | z8
  | s8
  | z16
  | s16
  | w32
  | w64
  | w128
  deriving DecidableEq, Repr

/-- Modes of a matrix form (R198). -/
inductive MmaMode where
  | f
  | i
  | l
  deriving DecidableEq, Repr

/-- Element classes of a matrix form, codes 0 to 4 (R198, R201). -/
inductive ACls where
  | a4
  | a6
  | a8
  | af16
  | abf16
  deriving DecidableEq, Repr

/-- A stream that can be the one executing: the group with a given key (16 times its troupe's number plus its
GRPID), or the base-die core of a slice. -/
inductive Agent where
  | none
  | group (gid : Nat)
  | bdc (slice : Nat)
  deriving DecidableEq, Repr

/-- What arrives at a peer port once its CRC is good (R388, R418): a write's acknowledgement, data that answers a
read of this device, or a collective's contribution. -/
inductive PeerMsg where
  | ack (gid aid lane : Nat)
  | data (gid aid lane : Nat) (bytes : List Byte)
  | collDone (gid : Nat) (bytes : List Byte)
  | collMismatch (gid : Nat)
  | refused (gid aid lane : Nat)
  deriving DecidableEq, Repr

/-- One constructor for each row of spec/opcode_table.json: the words and the events in the table's order, and then the
rows that no definition builds. The docstring of each names the rules that give its effect. -/
inductive Instr where
  /-- NOP (R153). -/
  | nop
  /-- ADD (R123). -/
  | add (d a b : SReg)
  /-- SUB (R123). -/
  | sub (d a b : SReg)
  /-- MUL (R123). -/
  | mul (d a b : SReg)
  /-- MULH (R123). -/
  | mulh (d a b : SReg)
  /-- MULHN (R123). -/
  | mulhn (d a b : SReg)
  /-- DIV (R123, R124). -/
  | div (d a b : SReg)
  /-- DIVN (R123, R124). -/
  | divn (d a b : SReg)
  /-- REM (R123, R124). -/
  | rem (d a b : SReg)
  /-- REMN (R123, R124). -/
  | remn (d a b : SReg)
  /-- AND (R123). -/
  | and (d a b : SReg)
  /-- OR (R123). -/
  | or (d a b : SReg)
  /-- XOR (R123). -/
  | xor (d a b : SReg)
  /-- ANDN (R123). -/
  | andn (d a b : SReg)
  /-- SHL (R123). -/
  | shl (d a b : SReg)
  /-- SHR (R123). -/
  | shr (d a b : SReg)
  /-- SAR (R123). -/
  | sar (d a b : SReg)
  /-- MIN (R123). -/
  | min (d a b : SReg)
  /-- MAX (R123). -/
  | max (d a b : SReg)
  /-- MINN (R123). -/
  | minn (d a b : SReg)
  /-- MAXN (R123). -/
  | maxn (d a b : SReg)
  /-- SLT (R123). -/
  | slt (d a b : SReg)
  /-- SLTN (R123). -/
  | sltn (d a b : SReg)
  /-- SEQ (R123). -/
  | seq (d a b : SReg)
  /-- ADDI (R125). -/
  | addi (d a : SReg) (imm : BitVec 13)
  /-- ANDI (R125). -/
  | andi (d a : SReg) (imm : BitVec 13)
  /-- ORI (R125). -/
  | ori (d a : SReg) (imm : BitVec 13)
  /-- XORI (R125). -/
  | xori (d a : SReg) (imm : BitVec 13)
  /-- SHLI (R125). -/
  | shli (d a : SReg) (sh : BitVec 6)
  /-- SHRI (R125). -/
  | shri (d a : SReg) (sh : BitVec 6)
  /-- SARI (R125). -/
  | sari (d a : SReg) (sh : BitVec 6)
  /-- SLTI (R125). -/
  | slti (d a : SReg) (imm : BitVec 13)
  /-- LUI (R126). -/
  | lui (d : SReg) (imm : BitVec 19)
  /-- LPC (R126). -/
  | lpc (d : SReg) (imm : BitVec 19)
  /-- LEA (R127). -/
  | lea (d a b : SReg) (sh : BitVec 3)
  /-- SLD (R128). -/
  | sld (d a : SReg) (disp : BitVec 13)
  /-- SST (R129). -/
  | sst (a b : SReg) (disp : BitVec 13)
  /-- SLDK (R128). -/
  | sldk (d a : SReg) (disp : BitVec 13)
  /-- BEQ (R132). -/
  | beq (a b : SReg) (off : BitVec 13)
  /-- BNE (R132). -/
  | bne (a b : SReg) (off : BitVec 13)
  /-- BLT (R132). -/
  | blt (a b : SReg) (off : BitVec 13)
  /-- BGE (R132). -/
  | bge (a b : SReg) (off : BitVec 13)
  /-- BLTN (R132). -/
  | bltn (a b : SReg) (off : BitVec 13)
  /-- BGEN (R132). -/
  | bgen (a b : SReg) (off : BitVec 13)
  /-- JMP (R133). -/
  | jmp (off : BitVec 21)
  /-- CALL (R133). -/
  | call (off : BitVec 21)
  /-- RET (R134). -/
  | ret (a : SReg)
  /-- EXIT (R135, R241). -/
  | exit
  /-- SETJOIN (R137). -/
  | setjoin (off : BitVec 21)
  /-- DIV_DIVERGENCE (R138 to R140). -/
  | divergence (p : BitVec 7) (neg : Bool) (off : BitVec 17)
  /-- JOIN (R141). -/
  | join
  /-- BANY (R138, R142). -/
  | bany (p : BitVec 7) (neg : Bool) (off : BitVec 17)
  /-- BALL (R138, R142). -/
  | ball (p : BitVec 7) (neg : Bool) (off : BitVec 17)
  /-- BNONE (R138, R142). -/
  | bnone (p : BitVec 7) (neg : Bool) (off : BitVec 17)
  /-- SETEXM (R143). -/
  | setexm (a : SReg) (sel : BitVec 2)
  /-- GETEXM (R143). -/
  | getexm (d : SReg) (hsel : Bool)
  /-- TWJOIN (R144, R214). -/
  | twjoin
  /-- RUN (R145). -/
  | run (g : Option (BitVec 3)) (idx : BitVec 21)
  /-- GCLR (R147). -/
  | gclr (k : BitVec 3)
  /-- GRD (R148). -/
  | grd (k : BitVec 3)
  /-- BG (R148). -/
  | bg (k : BitVec 3) (off : BitVec 21)
  /-- SETFMT (R149). -/
  | setfmt (v : BitVec 14)
  /-- SETFMTR (R149). -/
  | setfmtr (a : SReg) (sel : BitVec 2)
  /-- GETFMT (R149). -/
  | getfmt (d : SReg) (hsel : Bool)
  /-- CPY (R219). -/
  | cpy (g : Option (BitVec 3)) (mode : CpyMode) (d a b : SReg)
  /-- CPYW (R220). -/
  | cpyw (g : Option (BitVec 3)) (mode : CpyMode) (d a b : SReg)
  /-- GTH (R221). -/
  | gth (g : Option (BitVec 3)) (d a b : SReg)
  /-- SCT (R221). -/
  | sct (g : Option (BitVec 3)) (d a b : SReg)
  /-- COLL (R222). -/
  | coll (g : Option (BitVec 3)) (mode : CollMode) (d a b : SReg)
  /-- BNK (R223). -/
  | bnk (g : Option (BitVec 3)) (done : Bool) (d a b : SReg)
  /-- BAR (R228). -/
  | bar (kind : BarKind) (hr : Bool) (handle : BitVec 5) (a : SReg) (sc : Option Scope)
  /-- FENCE (R229). -/
  | fence (kind : FenceKind) (sc : Scope)
  /-- PFENCE (R230). -/
  | pfence (a b : Path) (sc : Scope)
  /-- WAITP (R231). -/
  | waitp (p : Path) (n : BitVec 6)
  /-- SATOM (R234). -/
  | satom (op : AtomOp) (sc : Scope) (d a b : SReg)
  /-- TRAP (R151). -/
  | trap (imm : BitVec 19)
  /-- RTE (R152, R331). -/
  | rte
  /-- SPRR (R150, R46, R47). -/
  | sprr (d : SReg) (n : BitVec 7) (hsel : Bool)
  /-- SPRW (R150, R46, R47). -/
  | sprw (n : BitVec 7) (hsel : Bool) (a : SReg)
  /-- YIELD (R153). -/
  | yield
  /-- BRK (R151). -/
  | brk (imm : BitVec 19)
  /-- BRUN (R245, R246). -/
  | brun (d a b : SReg)
  /-- MBXGET (R255). -/
  | mbxget (d : SReg) (nb : Bool)
  /-- MBXPUT (R256). -/
  | mbxput (a : SReg)
  /-- IADD (R162, R163). -/
  | iadd (h : LaneHead) (imm : Option (BitVec 14))
  /-- ISUB (R162, R163). -/
  | isub (h : LaneHead) (imm : Option (BitVec 14))
  /-- IMUL (R162, R163). -/
  | imul (h : LaneHead) (imm : Option (BitVec 14))
  /-- IMULH (R162, R163). -/
  | imulh (h : LaneHead) (imm : Option (BitVec 14))
  /-- IMULHN (R162, R163). -/
  | imulhn (h : LaneHead) (imm : Option (BitVec 14))
  /-- IMAD (R162, R163). -/
  | imad (h : LaneHead) (imm : Option (BitVec 14))
  /-- IMIN (R162, R163). -/
  | imin (h : LaneHead) (imm : Option (BitVec 14))
  /-- IMAX (R162, R163). -/
  | imax (h : LaneHead) (imm : Option (BitVec 14))
  /-- IMINN (R162, R163). -/
  | iminn (h : LaneHead) (imm : Option (BitVec 14))
  /-- IMAXN (R162, R163). -/
  | imaxn (h : LaneHead) (imm : Option (BitVec 14))
  /-- IABS (R162, R163). -/
  | iabs (h : LaneHead)
  /-- INEG (R162, R163). -/
  | ineg (h : LaneHead)
  /-- LANE_AND (R162, R163). -/
  | laneAnd (h : LaneHead) (imm : Option (BitVec 14))
  /-- LANE_OR (R162, R163). -/
  | laneOr (h : LaneHead) (imm : Option (BitVec 14))
  /-- LANE_XOR (R162, R163). -/
  | laneXor (h : LaneHead) (imm : Option (BitVec 14))
  /-- NOT (R162, R163). -/
  | inot (h : LaneHead)
  /-- LANE_SHL (R162, R163). -/
  | laneShl (h : LaneHead) (imm : Option (BitVec 14))
  /-- LANE_SHR (R162, R163). -/
  | laneShr (h : LaneHead) (imm : Option (BitVec 14))
  /-- LANE_SAR (R162, R163). -/
  | laneSar (h : LaneHead) (imm : Option (BitVec 14))
  /-- ROTL (R162, R163). -/
  | rotl (h : LaneHead) (imm : Option (BitVec 14))
  /-- BFE (R164). -/
  | bfe (h : LaneHead) (pos : BitVec 5) (len : BitVec 6) (sgn : Bool)
  /-- BFI (R164). -/
  | bfi (h : LaneHead) (pos : BitVec 5) (len : BitVec 6)
  /-- POPC (R162, R163). -/
  | popc (h : LaneHead)
  /-- CLZ (R162, R163). -/
  | clz (h : LaneHead)
  /-- BREV (R162, R163). -/
  | brev (h : LaneHead)
  /-- ICMP (R165). -/
  | icmp (h : LaneHead) (pd : BitVec 7) (cond : ICond)
  /-- CADD128 (R166). -/
  | cadd128 (h : LaneHead) (nb : Bool)
  /-- FADD (R167, R168). -/
  | fadd (h : LaneHead) (ty : FTy)
  /-- FSUB (R167, R168). -/
  | fsub (h : LaneHead) (ty : FTy)
  /-- FMUL (R167, R168). -/
  | fmul (h : LaneHead) (ty : FTy)
  /-- FFMA (R167, R168). -/
  | ffma (h : LaneHead) (ty : FTy)
  /-- FMIN (R167, R169). -/
  | fmin (h : LaneHead) (ty : FTy)
  /-- FMAX (R167, R169). -/
  | fmax (h : LaneHead) (ty : FTy)
  /-- FCMP (R170). -/
  | fcmp (h : LaneHead) (ty : FTy) (pd : BitVec 7) (cond : FCond)
  /-- FCLASS (R171). -/
  | fclass (h : LaneHead) (ty : FTy)
  /-- FRND (R172). -/
  | frnd (h : LaneHead) (ty : FTy) (x : Bool)
  /-- FSCALE (R168). -/
  | fscale (h : LaneHead) (ty : FTy)
  /-- CVT (R173, R174). -/
  | cvt (h : LaneHead) (src dst : CvtFmt)
  /-- BSCALE (R175). -/
  | bscale (h : LaneHead) (mode : BsMode)
  /-- RCP (R72, R176). -/
  | rcp (h : LaneHead)
  /-- RSQ (R72, R176). -/
  | rsq (h : LaneHead)
  /-- SQRT (R72, R176). -/
  | sqrt (h : LaneHead)
  /-- EXP2 (R72, R176). -/
  | exp2 (h : LaneHead)
  /-- LOG2 (R72, R176). -/
  | log2 (h : LaneHead)
  /-- SINPI (R72, R176). -/
  | sinpi (h : LaneHead)
  /-- COSPI (R72, R176). -/
  | cospi (h : LaneHead)
  /-- TANH (R72, R176). -/
  | tanh (h : LaneHead)
  /-- PAND (R177). -/
  | pand (h : LaneHead) (pd pa : BitVec 7) (na : Bool)
  /-- POR (R177). -/
  | por (h : LaneHead) (pd pa : BitVec 7) (na : Bool)
  /-- PXOR (R177). -/
  | pxor (h : LaneHead) (pd pa : BitVec 7) (na : Bool)
  /-- PNOT (R177). -/
  | pnot (h : LaneHead) (pd pa : BitVec 7) (na : Bool)
  /-- PMOV (R177). -/
  | pmov (h : LaneHead) (pd pa : BitVec 7) (na : Bool)
  /-- PTOI (R178). -/
  | ptoi (h : LaneHead) (pa : BitVec 7)
  /-- SEL (R179). -/
  | sel (h : LaneHead) (ps : BitVec 7) (ns : Bool)
  /-- MOV (R179). -/
  | mov (h : LaneHead)
  /-- LIMM (R99, R179). -/
  | limm (h : LaneHead) (lo : BitVec 15)
  /-- SHFL (R181). -/
  | shfl (h : LaneHead) (mode : ShflMode) (pv : BitVec 7) (imm : Option (BitVec 5))
  /-- VOTE (R182). -/
  | vote (h : LaneHead) (pa : BitVec 7) (na : Bool) (mode : VoteMode)
  /-- REDUX (R183). -/
  | redux (h : LaneHead) (op : RedOp)
  /-- SCAN (R183). -/
  | scan (h : LaneHead) (op : RedOp) (excl : Bool)
  /-- REGROUP (R186 to R188). -/
  | regroup (h : LaneHead) (count : BitVec 9) (pd : BitVec 6)
  /-- DEMOTE (R184). -/
  | demote (h : LaneHead)
  /-- VGUARD (R185). -/
  | vguard (h : LaneHead) (k : BitVec 3) (all : Bool) (pa : BitVec 7) (na : Bool)
  /-- LD (R189 to R193). -/
  | ld (h : LaneHead) (size : MSize) (osx : Bool) (sc : Scope) (disp : BitVec 8)
  /-- ST (R189 to R193). -/
  | st (h : LaneHead) (size : MSize) (osx : Bool) (sc : Scope) (disp : BitVec 8)
  /-- LDS (R189 to R193). -/
  | lds (h : LaneHead) (size : MSize) (osx : Bool) (disp : BitVec 8)
  /-- STS (R189 to R193). -/
  | sts (h : LaneHead) (size : MSize) (osx : Bool) (disp : BitVec 8)
  /-- LDC (R189 to R193). -/
  | ldc (h : LaneHead) (size : MSize) (osx : Bool) (disp : BitVec 8)
  /-- PREF (R189 to R193). -/
  | pref (h : LaneHead) (osx : Bool) (l2 : Bool) (disp : BitVec 8)
  /-- ATOM (R232 to R235). -/
  | atom (h : LaneHead) (op : AtomOp) (w64 : Bool) (sc : Scope) (nr : Bool) (osx : Bool) (disp : BitVec 5)
  /-- ATOMS (R236). -/
  | atoms (h : LaneHead) (op : AtomOp) (w64 : Bool) (nr : Bool) (osx : Bool) (disp : BitVec 5)
  /-- RNGX (R194). -/
  | rngx (h : LaneHead) (unit : Bool)
  /-- MMA (R198 to R206). -/
  | mma (h : LaneHead) (mode : MmaMode) (acls : ACls) (n32 : Bool)
  /-- MMAT (R209). -/
  | mmat (h : LaneHead) (mode : MmaMode) (acls : ACls) (n32 : Bool)
  /-- MGUIDE (R210, R213). -/
  | mguide (h : LaneHead) (cnt : BitVec 5)
  /-- MZERO (R208). -/
  | mzero (h : LaneHead) (cnt : BitVec 5)
  /-- REP (R93, R196). -/
  | rep (d a b c : BitVec 9) (n : BitVec 6)
  /-- LANE_NOP (R197). -/
  | laneNop (e : Bool)
  /-- BACT (R249). -/
  | bact (h : LaneHead) (roff : BitVec 15)
  /-- BPRE (R249). -/
  | bpre (h : LaneHead)
  /-- BRD (R249). -/
  | brd (h : LaneHead)
  /-- BWR (R249). -/
  | bwr (h : LaneHead)
  /-- BFMA (R250). -/
  | bfma (h : LaneHead) (hi : Bool) (rm : BitVec 3)
  /-- BMAC (R250). -/
  | bmac (h : LaneHead) (sl : BitVec 4)
  /-- BADD (R250). -/
  | badd (h : LaneHead) (bf : Bool) (rm : BitVec 3)
  /-- BMUL (R250). -/
  | bmul (h : LaneHead) (bf : Bool) (rm : BitVec 3)
  /-- BCVT (R250). -/
  | bcvt (h : LaneHead) (hi : Bool) (tof : Bool) (rm : BitVec 3)
  /-- BRED (R250). -/
  | bred (h : LaneHead) (sl : BitVec 4)
  /-- BXCH (R251). -/
  | bxch (h : LaneHead) (x : BitVec 4)
  /-- BMOV (R251). -/
  | bmov (h : LaneHead) (rl : BitVec 4)
  /-- BST (R252). -/
  | bst (h : LaneHead) (sz : BitVec 4) (disp : BitVec 9) (shr : Bool) (dir : Bool)
  /-- BZERO (R251). -/
  | bzero (h : LaneHead)
  /-- BRUN_COMPLETE (R246, R247). -/
  | brunComplete (slice : Nat)
  /-- DOORBELL (R380). -/
  | doorbell (w q : Nat) (t : BitVec 32)
  /-- LQCFG (R379, R380). -/
  | lqcfg (w q : Nat) (v : Word64)
  /-- ELCFG (R439). -/
  | elcfg (w : Nat) (v : Word64)
  /-- FQCFG (R439). -/
  | fqcfg (w : Nat) (v : Word64)
  /-- FREPLY (R385). -/
  | freply (w : Nat) (v : Word64)
  /-- COUNTER_READ_LOW (R386). -/
  | counterReadLow (w off : Nat)
  /-- REGISTER_WRITE (R378). -/
  | registerWrite (w off : Nat) (v : Word64)
  /-- LAUNCH_TAKE (R260, R438). -/
  | launchTake (w : Nat)
  /-- RING_PLACE (R262). -/
  | ringPlace (lid : Nat)
  /-- MICROKERNEL_START (R240, R382). -/
  | microkernelStart (lid : Nat)
  /-- TROUPE_RESIDENT (R264 to R266). -/
  | troupeResident (core : Nat)
  /-- RUN_START (R268). -/
  | runStart (core quarter slice : Nat)
  /-- RUN_PROMOTION (R267). -/
  | runPromotion (gid : Nat)
  /-- GUARDED_ENTRY_DISCARD (R146). -/
  | guardedEntryDiscard (gid : Nat)
  /-- QUANTUM_EXPIRY (R270). -/
  | quantumExpiry (core : Nat)
  /-- PREEMPTION_HALT (R333, R334). -/
  | preemptionHalt (tid : Nat)
  /-- CUE_SHEET_WALK (R321). -/
  | cueSheetWalk (lid : Nat)
  /-- SCALAR_WAIT_END (R116). -/
  | scalarWaitEnd (a : Agent)
  /-- LOAD_RETURN (R116, R130, R191). -/
  | loadReturn (gid aid lane : Nat)
  /-- STORE_ACK (R277). -/
  | storeAck (gid aid lane : Nat)
  /-- TRANSLATION_END (R303). -/
  | translationEnd (gid aid : Nat)
  /-- FAULT_SERVICE (R304, R384). -/
  | faultService (w fid : Nat)
  /-- DEFERRED_TRAP_DELIVERY (R332). -/
  | deferredTrapDelivery (gid : Nat)
  /-- ENGINE_COMMAND_START (R217). -/
  | engineCommandStart (gid : Nat) (p : Path)
  /-- ENGINE_COMMAND_COMPLETE (R217). -/
  | engineCommandComplete (gid : Nat) (p : Path)
  /-- GROUP_RETIRE (R135). -/
  | groupRetire (gid : Nat)
  /-- REGROUP_FUSE (R187, R188). -/
  | regroupFuse (gid : Nat)
  /-- MGUIDE_RENDEZVOUS (R213). -/
  | mguideRendezvous (gid : Nat)
  /-- TWIN_REJOIN (R144). -/
  | twinRejoin (gid : Nat)
  /-- MAILBOX_ACCEPT (R223, R257). -/
  | mailboxAccept (gid : Nat)
  /-- TURNSTILE_ATOMIC (R233, R319). -/
  | turnstileAtomic (gid aid lane : Nat)
  /-- TAKE_CAPTURE (R336, R337). -/
  | takeCapture (tid : Nat)
  /-- ROLLBACK (R338). -/
  | rollback (tid : Nat)
  /-- GENERATE (R391). -/
  | generate (stks : BitVec 8) (w : Nat) (keyid : BitVec 9)
  /-- LOADWRAP (R391). -/
  | loadwrap (stks : BitVec 8) (w : Nat) (keyid : BitVec 9)
  /-- ZEROISE (R391). -/
  | zeroise (stks : BitVec 8) (w : Nat) (keyid : BitVec 9)
  /-- TEPOCH (R391). -/
  | tepoch (stks : BitVec 8) (w : Nat) (keyid : BitVec 9)
  /-- CREATE (R410). -/
  | create (w : Nat)
  /-- DESTROY (R410). -/
  | destroy (w : Nat)
  /-- RECTADD (R411). -/
  | rectadd (w : Nat)
  /-- RECTREM (R411). -/
  | rectrem (w : Nat)
  /-- SLICEADD (R412). -/
  | sliceadd (w : Nat)
  /-- SLICEREM (R412). -/
  | slicerem (w : Nat)
  /-- MIGRATE (R413). -/
  | migrate (w : Nat)
  /-- MIGDONE (R413). -/
  | migdone (w : Nat)
  /-- SCRUB (R414). -/
  | scrub (slice : Nat)
  /-- L2SET (R416). -/
  | l2set (w : Nat)
  /-- SHARE (R416). -/
  | share (w : Nat)
  /-- PARAM (R409). -/
  | param (w : Nat)
  /-- HANDLE (R409, R311). -/
  | handle (w : Nat)
  /-- AREA (R417). -/
  | area (w : Nat)
  /-- TLBINV (R306). -/
  | tlbinv (w : Nat)
  /-- IFINV (R309). -/
  | ifinv (w : Nat)
  /-- PREEMPT (R419). -/
  | preempt (w : Nat)
  /-- RESUME (R419). -/
  | resume (w : Nat)
  /-- ENDLAUNCH (R419). -/
  | endlaunch (w : Nat)
  /-- EXPOSE (R418). -/
  | expose (w : Nat)
  /-- APERTURE (R418). -/
  | aperture (w : Nat)
  /-- COMMSET (R418). -/
  | commset (w : Nat)
  /-- WALK (R409). -/
  | walk (w : Nat)
  /-- NOT_AN_INSTRUCTION (R103, R104). -/
  | notAnInstruction (cls cause : Nat) (lane : Bool) (tval : Word64)
  /-- MATRIX_FORM_COMPLETION (R206, R207). -/
  | matrixFormCompletion (core quarter : Nat) (reads : Bool)
  /-- SLICE_PORT_READ (R20, R395). -/
  | slicePortRead (w pa : Nat)
  /-- SLICE_PORT_WRITE (R395). -/
  | slicePortWrite (w pa : Nat)
  /-- TRANSPORT_PACKET_RECEIVE (R399). -/
  | transportPacketReceive (w flow : Nat) (ok : Bool) (pa : Nat)
  /-- EPOCH_ADVANCE (R399). -/
  | epochAdvance (w : Nat)
  /-- PEER_FLIT_RECEIVE (R388). -/
  | peerFlitReceive (port : Nat) (crcOk : Bool) (msg : PeerMsg)
  /-- INBOUND_APERTURE_ACCESS (R418). -/
  | inboundApertureAccess (port num off : Nat) (write : Bool) (bytes : List Byte)
  /-- HOST_CXL_MEM_ACCESS (R377, R418). -/
  | hostCxlMemAccess (fn pa : Nat) (write trusted : Bool) (bytes : List Byte)
  /-- COMPLETION_RECORD (R383). -/
  | completionRecord (lid : Nat)
  /-- QCOUNT_RISE (R308). -/
  | qcountRise
  /-- HEARTBEAT_EXPIRY (R406). -/
  | heartbeatExpiry (w : Nat)
  /-- GRACE_PERIOD_END (R406). -/
  | gracePeriodEnd (w : Nat)
  /-- GET_VERSION (R402). -/
  | getVersion (w : Nat)
  /-- GET_CAPABILITIES (R402). -/
  | getCapabilities (w : Nat)
  /-- NEGOTIATE_ALGORITHMS (R402). -/
  | negotiateAlgorithms (w : Nat)
  /-- GET_DIGESTS (R402). -/
  | getDigests (w : Nat)
  /-- GET_CERTIFICATE (R402). -/
  | getCertificate (w : Nat)
  /-- CHALLENGE (R402). -/
  | challenge (w : Nat) (nonce : Nat)
  /-- GET_MEASUREMENTS (R402). -/
  | getMeasurements (w index : Nat)
  /-- KEY_EXCHANGE (R402, R406). -/
  | keyExchange (w : Nat) (period : Nat) (share : Nat)
  /-- FINISH (R402). -/
  | finish (w : Nat)
  /-- HEARTBEAT (R402, R406). -/
  | heartbeat (w : Nat)
  /-- KEY_UPDATE (R402, R406). -/
  | keyUpdate (w : Nat)
  /-- END_SESSION (R402). -/
  | endSession (w : Nat)
  /-- IDE_KM (R400). -/
  | ideKm (mem : Bool) (key : Nat)
  /-- LOCK_INTERFACE_REQUEST (R404). -/
  | lockInterfaceRequest (w : Nat)
  /-- START_INTERFACE_REQUEST (R404). -/
  | startInterfaceRequest (w : Nat)
  /-- STOP_INTERFACE_REQUEST (R404). -/
  | stopInterfaceRequest (w : Nat)
  /-- SECRET_RELEASE (R404). -/
  | secretRelease (w gen : Nat)
  /-- DEBUG_STOP (R422). -/
  | debugStop (w : Nat)
  /-- DEBUG_RESUME (R422). -/
  | debugResume (w : Nat)
  /-- DEBUG_STEP (R425). -/
  | debugStep (w : Nat) (handle : BitVec 5)
  /-- DEBUG_SELECT (R424). -/
  | debugSelect (w : Nat) (v : Word64)
  /-- RHCTL (R428). -/
  | rhctl (w : Nat) (v : Word64)
  /-- STAGE (R435). -/
  | stage
  /-- CLEAR (R435). -/
  | clear
  /-- MODULE_RESET (R401, R435). -/
  | moduleReset
  /-- THERMAL_WARNING (R437). -/
  | thermalWarning (sensor : Nat) (temp : BitVec 16)
  /-- THERMAL_CRITICAL (R437). -/
  | thermalCritical
  /-- FQHEAD (R385, R439). -/
  | fqhead (w : Nat) (v : BitVec 32)
  /-- PHY_LANE_ERROR (R431). -/
  | phyLaneError
  /-- CXL_LINK_ERROR (R431). -/
  | cxlLinkError
  deriving DecidableEq, Repr

end Sys2Proof
end

