-- ==== Sys2Proof/Machine/Bits.lean ====
section
/-! DEFINITION. Bits and bytes: fields of words, lane masks, sign extension, byte order, and sums of lists
(spec/00_scope.md R5, R6). -/

namespace Sys2Proof.Machine

/-- Bits `hi` down to `lo` of a value, as a number. -/
def bitsOf (v hi lo : Nat) : Nat := (v >>> lo) % 2 ^ (hi + 1 - lo)

/-- One bit of a number. -/
def bitOf (v i : Nat) : Bool := Nat.testBit v i

/-- The lanes of a mask below `w`, lowest first. -/
def lanesOf (w : Nat) (m : Mask) : List Nat := (List.range w).filter (fun l => m.getLsbD l)

/-- How many lanes a mask has (R41). -/
def laneCount (m : Mask) : Nat := (lanesOf 64 m).length

/-- The mask of all `w` lanes (R34). -/
def allLanes (w : Nat) : Mask := BitVec.ofNat 64 (2 ^ w - 1)

/-- The mask with one lane. -/
def oneLane (l : Nat) : Mask := BitVec.ofNat 64 (2 ^ l)

/-- The mask of the lanes that satisfy a test. -/
def maskWhere (w : Nat) (f : Nat → Bool) : Mask :=
  (List.range w).foldl (fun m l => if f l then m ||| oneLane l else m) 0

/-- The lowest lane of a mask, 0 when it is empty (R156). -/
def lowestLane (w : Nat) (m : Mask) : Nat := (lanesOf w m).headD 0

/-- A signed word offset of a branch, as an integer (R83). -/
def sxInt {n : Nat} (v : BitVec n) : Int := v.toInt

/-- A field sign-extended to 64 bits (R85). -/
def sx64 {n : Nat} (v : BitVec n) : Word64 := v.signExtend 64

/-- PC plus 4 times a signed word offset, modulo 2^64 (R83). -/
def pcPlus {n : Nat} (pc : Nat) (off : BitVec n) : Nat :=
  (BitVec.ofNat 64 pc + BitVec.ofInt 64 (4 * off.toInt)).toNat

/-- PC plus 4, modulo 2^64. -/
def pcNext (pc : Nat) : Nat := (pc + 4) % 2 ^ 64

/-- The low `n` bytes of a number, least significant first (R6). -/
def natBytes : Nat → Nat → List Byte
  | 0, _ => []
  | n + 1, v => BitVec.ofNat 8 v :: natBytes n (v / 256)

/-- The number that bytes hold, least significant first (R6). -/
def bytesNat : List Byte → Nat
  | [] => 0
  | b :: l => b.toNat + 256 * bytesNat l

/-- The byte at an index, 0 beyond the end. -/
def byteAt (l : List Byte) (i : Nat) : Byte := l.getD i 0

/-- A field of 1 to 8 bytes of a byte list, as a number. -/
def fieldAt (l : List Byte) (off n : Nat) : Nat := bytesNat ((l.drop off).take n)

/-- Are all the addresses below multiples of `n`? -/
def aligned (a n : Nat) : Bool := a % n == 0

/-- A number packed from fields, each a value and its lowest bit. -/
def packBits (l : List (Nat × Nat)) : Nat := l.foldl (fun acc p => acc ||| (p.1 <<< p.2)) 0

/-- Ceiling of a division. -/
def ceilDiv (a b : Nat) : Nat := (a + b - 1) / b

/-- Base-2 logarithm rounded down, 0 for 0. -/
def log2Nat (n : Nat) : Nat := Nat.log2 n

/-- The elements of a list with their indexes. -/
def indexed {α : Type} (l : List α) : List (Nat × α) := (List.range l.length).zip l

end Sys2Proof.Machine
end

