-- ==== Sys2Proof/Machine/Num.lean ====
section
/-! DEFINITION. Number formats and exact arithmetic (spec/03_numbers.md R58 to R80): values kept exactly as
(num / den) * 2^exp with a sign, `Widen`, `Round`, the special functions, term recoding and `BlockDot`. -/

namespace Sys2Proof.Machine

/-! ## Exact values -/

/-- A mathematical value of R58: finite, an infinity, or NaN. A finite value is (-1)^neg * (num / den) * 2^exp; a zero
keeps its sign. -/
inductive XVal where
  | fin (neg : Bool) (num den : Nat) (exp : Int)
  | inf (neg : Bool)
  | nan
  deriving DecidableEq, Repr

/-- The value of an integer. -/
def xInt (i : Int) : XVal := .fin (decide (i < 0)) i.natAbs 1 0

/-- Zero with a sign. -/
def xZero (neg : Bool) : XVal := .fin neg 0 1 0

/-- Is the value a zero of either sign? -/
def xIsZero : XVal → Bool
  | .fin _ n _ _ => n == 0
  | _ => false

/-- Is the value NaN? -/
def xIsNan : XVal → Bool
  | .nan => true
  | _ => false

/-- The sign of a value; a NaN counts as positive. -/
def xNeg : XVal → Bool
  | .fin s _ _ _ => s
  | .inf s => s
  | .nan => false

/-- The value with its sign turned. -/
def xOpp : XVal → XVal
  | .fin s n d e => .fin (!s) n d e
  | .inf s => .inf (!s)
  | .nan => .nan

/-- The magnitude. -/
def xAbs : XVal → XVal
  | .fin _ n d e => .fin false n d e
  | .inf _ => .inf false
  | .nan => .nan

/-- A finite magnitude as a fraction of naturals. -/
def magFrac (n d : Nat) (e : Int) : Nat × Nat :=
  if 0 ≤ e then (n * 2 ^ e.toNat, d) else (n, d * 2 ^ (-e).toNat)

/-- Compare two finite magnitudes: less. -/
def magLt (n d : Nat) (e : Int) (n' d' : Nat) (e' : Int) : Bool :=
  let a := magFrac n d e
  let b := magFrac n' d' e'
  a.1 * b.2 < b.1 * a.2

/-- Exact product; 0 times an infinity is NaN (R77). -/
def xMul : XVal → XVal → XVal
  | .nan, _ => .nan
  | _, .nan => .nan
  | .inf s, .fin t n _ _ => if n = 0 then .nan else .inf (s != t)
  | .fin t n _ _, .inf s => if n = 0 then .nan else .inf (s != t)
  | .inf s, .inf t => .inf (s != t)
  | .fin s n d e, .fin t m c f => .fin (s != t) (n * m) (d * c) (e + f)

/-- Exact sum; `rdn` says that the mode is RDN, which makes an exact zero sum of unlike zeros or of cancelling addends
negative (R168). Infinities of opposite sign give NaN. -/
def xAdd (rdn : Bool) : XVal → XVal → XVal
  | .nan, _ => .nan
  | _, .nan => .nan
  | .inf s, .inf t => if s = t then .inf s else .nan
  | .inf s, .fin _ _ _ _ => .inf s
  | .fin _ _ _ _, .inf s => .inf s
  | .fin s n d e, .fin t m c f =>
    let q := min e f
    let a : Int := (n * c * 2 ^ (e - q).toNat : Nat)
    let b : Int := (m * d * 2 ^ (f - q).toNat : Nat)
    let sum := (if s then -a else a) + (if t then -b else b)
    if sum = 0 then .fin (if n = 0 ∧ m = 0 ∧ s = t then s else rdn) 0 1 0
    else .fin (decide (sum < 0)) sum.natAbs (d * c) q

/-- Exact quotient by a positive finite value. -/
def xDivPos : XVal → XVal → XVal
  | .fin s n d e, .fin _ m c f => if m = 0 then .nan else .fin s (n * c) (d * m) (e - f)
  | .inf s, .fin _ _ _ _ => .inf s
  | _, _ => .nan

/-- The value times a power of two. -/
def xScale (k : Int) : XVal → XVal
  | .fin s n d e => .fin s n d (e + k)
  | x => x

/-- Less, on values that are not NaN; zeros of either sign are equal. -/
def xLt : XVal → XVal → Bool
  | .nan, _ => false
  | _, .nan => false
  | .inf s, .inf t => s && !t
  | .inf s, .fin _ _ _ _ => s
  | .fin _ _ _ _, .inf t => !t
  | .fin s n d e, .fin t m c f =>
    if n = 0 ∧ m = 0 then false
    else if n = 0 then !t
    else if m = 0 then s
    else if s && !t then true
    else if !s && t then false
    else if s then magLt m c f n d e else magLt n d e m c f

/-- Equal, on values that are not NaN; zeros of either sign are equal. -/
def xEq (a b : XVal) : Bool := !xIsNan a && !xIsNan b && !xLt a b && !xLt b a

/-- floor(log2) of a positive fraction times a power of two. -/
def magLog (n d : Nat) (e : Int) : Int :=
  let k : Int := (Nat.log2 n : Int) - (Nat.log2 d : Int)
  let f := magFrac n d (-k)
  (if f.1 < f.2 then k - 1 else k) + e

/-! ## Formats -/

/-- The formats of R58, R61 and R63. -/
inductive Fmt where
  | f32
  | f16
  | bf16
  | e5m2
  | e4m3
  | e3m2
  | e2m3
  | e2m1
  | lg6
  | i8
  | n8
  | i4
  | n4
  | i32
  | n32
  deriving DecidableEq, Repr

/-- Exponent bits, fraction bits and bias of a floating-point format (R58). -/
def fmtShape : Fmt → Nat × Nat × Int
  | .f32 => (8, 23, 127)
  | .f16 => (5, 10, 15)
  | .bf16 => (8, 7, 127)
  | .e5m2 => (5, 2, 15)
  | .e4m3 => (4, 3, 7)
  | .e3m2 => (3, 2, 3)
  | .e2m3 => (2, 3, 1)
  | .e2m1 => (2, 1, 1)
  | _ => (0, 0, 0)

/-- The formats with infinities (R59). -/
def fmtHasInf : Fmt → Bool
  | .f32 => true
  | .f16 => true
  | .bf16 => true
  | .e5m2 => true
  | _ => false

/-- The formats with NaN (R59). -/
def fmtHasNan (f : Fmt) : Bool := fmtHasInf f || f == .e4m3

/-- Is the format one of R58? -/
def fmtIsFloat : Fmt → Bool
  | .f32 => true
  | .f16 => true
  | .bf16 => true
  | .e5m2 => true
  | .e4m3 => true
  | .e3m2 => true
  | .e2m3 => true
  | .e2m1 => true
  | _ => false

/-- Bits of a format. -/
def fmtBits : Fmt → Nat
  | .f32 => 32
  | .f16 => 16
  | .bf16 => 16
  | .e5m2 => 8
  | .e4m3 => 8
  | .e3m2 => 6
  | .e2m3 => 6
  | .e2m1 => 4
  | .lg6 => 6
  | .i8 => 8
  | .n8 => 8
  | .i4 => 4
  | .n4 => 4
  | .i32 => 32
  | .n32 => 32

/-- The range of an integer format (R63). -/
def fmtRange : Fmt → Int × Int
  | .i8 => (-128, 127)
  | .n8 => (0, 255)
  | .i4 => (-8, 7)
  | .n4 => (0, 15)
  | .i32 => (-2147483648, 2147483647)
  | .n32 => (0, 4294967295)
  | _ => (0, 0)

/-- The encoding of the largest finite magnitude (R58, R61). -/
def fmtMaxCode : Fmt → Nat
  | .f32 => 0x7f7fffff
  | .f16 => 0x7bff
  | .bf16 => 0x7f7f
  | .e5m2 => 0x7b
  | .e4m3 => 0x7e
  | .e3m2 => 0x1f
  | .e2m3 => 0x1f
  | .e2m1 => 0x7
  | .lg6 => 0x0f
  | _ => 0

/-- The encoding of +infinity, for the formats that have one (R59). -/
def fmtInfCode : Fmt → Nat
  | .f32 => 0x7f800000
  | .f16 => 0x7c00
  | .bf16 => 0x7f80
  | .e5m2 => 0x7c
  | _ => 0

/-- The canonical NaN of a format that has one (R59). -/
def fmtNanCode : Fmt → Nat
  | .f32 => 0x7fc00000
  | .f16 => 0x7e00
  | .bf16 => 0x7fc0
  | .e5m2 => 0x7e
  | .e4m3 => 0x7f
  | _ => 0

/-- The sign bit of a format's encoding. -/
def fmtSign (f : Fmt) (neg : Bool) : Nat := if neg then 2 ^ (fmtBits f - 1) else 0

/-- T[F] of R61, in units of 1/2048. -/
def lg6T (f : Nat) : Nat :=
  match f with
  | 0 => 2048
  | 1 => 2435
  | 2 => 2896
  | _ => 3444

/-- The magnitude of LG6 for an exponent field L, unbounded (R61, R67): its T in units of 1/2048, and its I. -/
def lg6Mag (l : Int) : Nat × Int := (lg6T (l % 4).toNat, l / 4)

/-- The exponent field L of an LG6 encoding. -/
def lg6L (code : Nat) : Int := let v : Int := (code % 32 : Nat); if v < 16 then v else v - 32

/-- The FMT class of a subfield size code (R44, R65): 1 is C8, 2 is C6, 3 is C4. -/
def fmtClass (fmt : Word32) (sz : Nat) : Fmt :=
  let v := fmt.toNat
  if sz = 1 then
    match v % 4 with
    | 0 => .e4m3
    | 1 => .e5m2
    | 2 => .i8
    | _ => .n8
  else if sz = 2 then
    match (v / 4) % 4 with
    | 0 => .e3m2
    | 1 => .e2m3
    | _ => .lg6
  else
    match (v / 16) % 4 with
    | 0 => .e2m1
    | 1 => .i4
    | _ => .n4

/-- FZ32 of FMT (R44). -/
def fmtFz32 (fmt : Word32) : Bool := fmt.getLsbD 10
/-- FZ16 of FMT (R44). -/
def fmtFz16 (fmt : Word32) : Bool := fmt.getLsbD 11
/-- Block scaling on (R44). -/
def fmtBs (fmt : Word32) : Bool := fmt.getLsbD 6
/-- DRM of FMT (R44). -/
def fmtDrm (fmt : Word32) : Nat := bitsOf fmt.toNat 9 7
/-- SRSEL of FMT (R44). -/
def fmtSrsel (fmt : Word32) : Nat := bitsOf fmt.toNat 13 12

/-- Is the value legal in FMT[13:0] (R44)? -/
def fmtLegal (v : Nat) : Bool :=
  bitsOf v 13 12 != 3 && bitsOf v 9 7 != 6 && bitsOf v 5 4 != 3 && bitsOf v 3 2 != 3

/-! ## Flags of a single operation (R48, R69) -/

/-- NX. -/
def flNx : Word32 := 1
/-- UF. -/
def flUf : Word32 := 2
/-- OF. -/
def flOf : Word32 := 4
/-- DZ. -/
def flDz : Word32 := 8
/-- NV. -/
def flNv : Word32 := 16
/-- SAT. -/
def flSat : Word32 := 32

/-- A flag when a condition holds. -/
def flagIf (c : Bool) (f : Word32) : Word32 := if c then f else 0

/-! ## Reading an encoding -/

/-- What rounding and flushing depend on: the mode (0 to 5, 7; 8 picks lo, 9 picks hi), the 16 random bits of R68, and
FMT for the flushes. -/
structure Rnd where
  rm : Nat
  rb : Nat := 0
  fmt : Word32 := 0
  deriving DecidableEq, Repr

/-- Do FZ32 or FZ16 flush subnormals of this format (R60)? -/
def flushes (fmt : Word32) (f : Fmt) : Bool :=
  match f with
  | .f32 => fmtFz32 fmt
  | .f16 => fmtFz16 fmt
  | .bf16 => fmtFz16 fmt
  | _ => false

/-- The value of an encoding, without the flush of R60 (R58, R59, R61, R63). -/
def rawVal (f : Fmt) (code : Nat) : XVal :=
  let c := code % 2 ^ fmtBits f
  if fmtIsFloat f then
    let sh := fmtShape f
    let neg := bitOf c (fmtBits f - 1)
    let m := c % 2 ^ sh.2.1
    let e := (c / 2 ^ sh.2.1) % 2 ^ sh.1
    if fmtHasInf f ∧ e = 2 ^ sh.1 - 1 then (if m = 0 then .inf neg else .nan)
    else if f = .e4m3 ∧ e = 15 ∧ m = 7 then .nan
    else if e = 0 then .fin neg m 1 (1 - sh.2.2 - sh.2.1)
    else .fin neg (2 ^ sh.2.1 + m) 1 ((e : Int) - sh.2.2 - sh.2.1)
  else
    match f with
    | .lg6 =>
      let l := lg6L c
      if l = -16 then .fin (bitOf c 5) 0 1 0
      else .fin (bitOf c 5) (lg6Mag l).1 1 ((lg6Mag l).2 - 11)
    | .i8 => xInt (BitVec.ofNat 8 c).toInt
    | .i4 => xInt (BitVec.ofNat 4 c).toInt
    | .i32 => xInt (BitVec.ofNat 32 c).toInt
    | _ => xInt (c : Nat)

/-- Is the encoding a signalling NaN (R59)? -/
def isSnan (f : Fmt) (code : Nat) : Bool :=
  let sh := fmtShape f
  fmtHasInf f && rawVal f code == .nan && !bitOf code (sh.2.1 - 1)

/-- Is the encoding a subnormal of a floating-point format? -/
def isSubnormal (f : Fmt) (code : Nat) : Bool :=
  let sh := fmtShape f
  fmtIsFloat f && code % 2 ^ sh.2.1 != 0 && (code / 2 ^ sh.2.1) % 2 ^ sh.1 == 0

/-- An encoding with the flush of R60 applied to it as an input. -/
def flushIn (fmt : Word32) (f : Fmt) (code : Nat) : Nat :=
  if flushes fmt f && isSubnormal f code then code &&& 2 ^ (fmtBits f - 1) else code

/-- The value of an encoding as an operation reads it, with the NV of a signalling NaN (R60, R65, R69). -/
def readVal (fmt : Word32) (f : Fmt) (code : Nat) : XVal × Word32 :=
  (rawVal f (flushIn fmt f code), flagIf (isSnan f code) flNv)

/-! ## Round -/

/-- Choose the magnitude between lo and hi = lo + 1 units: `rem / dn` is the part of a unit above lo (R66, R68). -/
def roundUp (r : Rnd) (neg loOdd : Bool) (rem dn : Nat) : Bool :=
  if rem = 0 then false
  else
    match r.rm with
    | 1 => false
    | 2 => neg
    | 3 => !neg
    | 4 => dn ≤ 2 * rem
    | 5 => 65536 ≤ (65536 * rem) / dn + r.rb
    | 8 => false
    | 9 => true
    | _ => if 2 * rem = dn then loOdd else dn < 2 * rem

/-- The magnitude (n / d) * 2^e rounded to a multiple of 2^q: the multiple, and whether it is inexact. -/
def roundQ (r : Rnd) (neg : Bool) (n d : Nat) (e q : Int) : Nat × Bool :=
  let f := magFrac n d (e - q)
  let lo := f.1 / f.2
  let rem := f.1 % f.2
  (if roundUp r neg (lo % 2 == 1) rem f.2 then lo + 1 else lo, rem != 0)

/-- The encoding of m * 2^q, which the format can hold, without its sign (R58). -/
def packMag (f : Fmt) (m : Nat) (q : Int) : Nat :=
  let sh := fmtShape f
  if m < 2 ^ sh.2.1 then m
  else if m < 2 ^ (sh.2.1 + 1) then (q + sh.2.1 + sh.2.2).toNat * 2 ^ sh.2.1 + (m - 2 ^ sh.2.1)
  else (q + 1 + sh.2.1 + sh.2.2).toNat * 2 ^ sh.2.1

/-- An overflowed finite value under the mode (R67): the encoding without its sign, and the flags. -/
def overflowCode (f : Fmt) (rm : Nat) (neg : Bool) : Nat × Word32 :=
  if fmtHasInf f then
    match rm with
    | 1 => (fmtMaxCode f, flOf ||| flNx)
    | 2 => (if neg then fmtInfCode f else fmtMaxCode f, flOf ||| flNx)
    | 3 => (if neg then fmtMaxCode f else fmtInfCode f, flOf ||| flNx)
    | 7 => (fmtMaxCode f, flOf ||| flNx ||| flSat)
    | 8 => (fmtMaxCode f, flOf ||| flNx)
    | _ => (fmtInfCode f, flOf ||| flNx)
  else (fmtMaxCode f, flOf ||| flNx ||| flSat)

/-- Round a finite non-zero magnitude to a floating-point format (R66 to R69): the encoding with its sign, and the
flags; the flush of R60 acts on the result. UF asks whether the rounded result is non-zero, so a tiny value that rounds to zero
sets NX alone (DESIGN CHOICE, entry 58). -/
def roundFloat (f : Fmt) (r0 : Rnd) (neg : Bool) (n d : Nat) (e : Int) : Nat × Word32 :=
  let sh := fmtShape f
  let mx := rawVal f (fmtMaxCode f)
  let r := if r0.rm = 5 ∧ fmtHasInf f ∧ xLt mx (.fin false n d e) then { r0 with rm := 0 } else r0
  let qmin : Int := 1 - sh.2.2 - sh.2.1
  let qu : Int := magLog n d e - sh.2.1
  let u := roundQ r neg n d e qu
  if xLt mx (.fin false u.1 1 qu) then
    let o := overflowCode f r.rm neg
    (fmtSign f neg + o.1, o.2)
  else
    let q := max qu qmin
    let v := roundQ r neg n d e q
    let tiny := xLt (.fin false u.1 1 qu) (.fin false 1 1 (1 - sh.2.2))
    let code := packMag f v.1 q
    if flushes r.fmt f && isSubnormal f code then (fmtSign f neg, flUf ||| flNx)
    else (fmtSign f neg + code, flagIf v.2 flNx ||| flagIf (v.2 && v.1 != 0 && tiny) flUf)

/-- The LG6 exponent field of the largest magnitude not above a positive value: none below the smallest, which is
2^-4 * 2435/2048. `fuel` counts the candidates from L downward. -/
def lg6Floor (n d : Nat) (e : Int) : Nat → Int → Option Int
  | 0, _ => none
  | k + 1, l => if magLt n d e (lg6Mag l).1 1 ((lg6Mag l).2 - 11) then lg6Floor n d e k (l - 1) else some l

/-- A magnitude that lies between those of LG6's exponent fields `l` and `l + 1`: is it inexact, and does it round up (R66)? -/
def lg6Up (r : Rnd) (neg : Bool) (n d : Nat) (e l : Int) : Bool × Bool :=
  let lo := lg6Mag l
  let hi := lg6Mag (l + 1)
  let q := lo.2 - 11
  let a := magFrac n d (e - q)                       -- |x| in units of 2^q
  let rem := a.1 - lo.1 * a.2                        -- times 1 / a.2
  let gap := (hi.1 * 2 ^ (hi.2 - lo.2).toNat) - lo.1 -- hi - lo in units of 2^q
  (rem != 0, roundUp r neg (l % 2 == 1) rem (gap * a.2))

/-- Does a magnitude below the smallest of LG6 round below it too, as though the exponent were unbounded (R69)? -/
def lg6Tiny (r : Rnd) (neg : Bool) (n d : Nat) (e : Int) : Bool :=
  magLt n d e (lg6Mag (-16)).1 1 ((lg6Mag (-16)).2 - 11) || !(lg6Up r neg n d e (-16)).2

/-- Round a finite non-zero magnitude to LG6 (R61, R66, R67, R69); every non-zero value of it is normal (R171). -/
def roundLg6 (r : Rnd) (neg : Bool) (n d : Nat) (e : Int) : Nat × Word32 :=
  let sgn := fmtSign .lg6 neg
  let top : Int := 4 * (magLog n d e) + 4
  if 16 ≤ top ∧ !magLt n d e (lg6Mag 16).1 1 ((lg6Mag 16).2 - 11) then
    (sgn + 15, flOf ||| flNx ||| flSat)
  else
    match lg6Floor n d e 31 15 with
    | none =>
      -- between zero (L = -16, even) and the smallest magnitude (L = -15)
      let a := magFrac n d (e - ((lg6Mag (-15)).2 - 11))
      if roundUp r neg false a.1 (a.2 * (lg6Mag (-15)).1) then (sgn + 17, flNx ||| flagIf (lg6Tiny r neg n d e) flUf)
      else (sgn + 16, flNx)
    | some l =>
      let up := lg6Up r neg n d e l
      if !up.1 then (sgn + (l % 32).toNat, 0)
      else if up.2 then
        (if l = 15 then (sgn + 15, flOf ||| flNx ||| flSat) else (sgn + ((l + 1) % 32).toNat, flNx))
      else (sgn + (l % 32).toNat, flNx)

/-- Round a finite value to an integer under the mode, unbounded: the integer, and whether it is inexact (R66, R67). -/
def roundInt (r : Rnd) (neg : Bool) (n d : Nat) (e : Int) : Int × Bool :=
  let v := roundQ r neg n d e 0
  (if neg then -(v.1 : Int) else v.1, v.2)

/-- An integer clamped to an integer format, as its encoding; a clamp sets SAT and NV (R67). -/
def clampInt (f : Fmt) (i : Int) (inexact : Bool) : Nat × Word32 :=
  let rg := fmtRange f
  let enc (j : Int) : Nat := (j % (2 ^ fmtBits f : Nat)).toNat
  if i < rg.1 then (enc rg.1, flSat ||| flNv)
  else if rg.2 < i then (enc rg.2, flSat ||| flNv)
  else (enc i, flagIf inexact flNx)

/-- `Round(x, fmt, rm)`: the encoding of a value, and the flags (R66 to R69). -/
def xRound (f : Fmt) (r : Rnd) (x : XVal) : Nat × Word32 :=
  if fmtIsFloat f then
    match x with
    | .nan => if fmtHasNan f then (fmtNanCode f, 0) else (0, flNv)
    | .inf s => if fmtHasInf f then (fmtSign f s + fmtInfCode f, 0)
      else (fmtSign f s + fmtMaxCode f, flSat ||| flOf)
    | .fin s n d e => if n = 0 then (fmtSign f s, 0) else roundFloat f r s n d e
  else if f = .lg6 then
    match x with
    | .nan => (16, flNv)
    | .inf s => (fmtSign .lg6 s + 15, flSat ||| flOf)
    | .fin s n d e => if n = 0 then (fmtSign .lg6 s + 16, 0) else roundLg6 r s n d e
  else
    match x with
    | .nan => (0, flNv)
    | .inf s => (clampInt f (if s then (fmtRange f).1 - 1 else (fmtRange f).2 + 1) false)
    | .fin s n d e =>
      let v := roundInt r s n d e
      clampInt f v.1 v.2

/-- The 16 or 32 random bits of R68: h from DITHER and a lane number. -/
def srHash (dither lane : Nat) : Nat :=
  let h := (dither + 0x9e3779b9 * lane) % 2 ^ 32
  let h := h ^^^ (h >>> 16)
  let h := (h * 0x7feb352d) % 2 ^ 32
  let h := h ^^^ (h >>> 15)
  let h := (h * 0x846ca68b) % 2 ^ 32
  h ^^^ (h >>> 16)

/-- A block scale (R64): none for a NaN scale. With block scaling off every scale is 1.0. -/
def scaleVal (bs : Bool) (code : Nat) : Option XVal :=
  let c := if bs then code % 1024 else 0x1fc
  if c / 4 = 255 then none else some (.fin false (4 + c % 4) 1 ((c / 4 : Nat) - 127 - 2))

/-! ## Special functions (R72) -/

/-- Fixed-point values below have 256 fraction bits. -/
def fxOne : Nat := 2 ^ 256

/-- pi in 256-bit fixed point. -/
def fxPi : Nat := 363771576891766324280234942777729862653393377328392429958772151117938894466185

/-- The natural logarithm of 2 in 256-bit fixed point. -/
def fxLn2 : Nat := 80260960185991308862233904206310070533990667611589946606122867505419956976171

/-- The Taylor series of exp of a fixed-point value below 1: `k` terms left, `i` the next index. -/
def fxExpTerms (y : Nat) : Nat → Nat → Nat → Nat → Nat
  | 0, _, _, acc => acc
  | k + 1, i, term, acc => fxExpTerms y k (i + 1) (term * y / fxOne / i) (acc + term)

/-- exp of a fixed-point value below 1. -/
def fxExp (y : Nat) : Nat := fxExpTerms y 70 1 fxOne 0

/-- Square a fixed-point value `k` times. -/
def fxSquares : Nat → Nat → Nat
  | 0, v => v
  | k + 1, v => fxSquares k (v * v / fxOne)

/-- The series of atanh: z + z^3/3 + ... of a fixed-point value below 1/2. -/
def fxAtanhTerms (z2 : Nat) : Nat → Nat → Nat → Nat → Nat
  | 0, _, _, acc => acc
  | k + 1, i, pow, acc => fxAtanhTerms z2 k (i + 2) (pow * z2 / fxOne) (acc + pow / i)

/-- The alternating series of sine or cosine of a fixed-point angle: the next term is the last times y^2 over
(i * (i + 1)). -/
def fxTrigTerms (y2 : Nat) : Nat → Nat → Nat → Bool → Int → Int
  | 0, _, _, _, acc => acc
  | k + 1, i, term, neg, acc =>
    fxTrigTerms y2 k (i + 2) (term * y2 / fxOne / (i * (i + 1))) (!neg)
      (if neg then acc - (term : Int) else acc + (term : Int))

/-- sine of a fixed-point angle up to pi/2. -/
def fxSin (y : Nat) : Nat := (fxTrigTerms (y * y / fxOne) 50 2 y false 0).toNat

/-- cosine of a fixed-point angle up to pi/2. -/
def fxCos (y : Nat) : Nat := (fxTrigTerms (y * y / fxOne) 50 1 fxOne false 0).toNat

/-- A positive fixed-point value whose true value is irrational, as an exact one with a sticky low bit, so that no
rounding takes it for a tie or for exact. -/
def fxVal (neg : Bool) (v : Nat) : XVal := .fin neg (2 * v + 1) 1 (-257)

/-- The result of a special function before rounding: its value, the flags the function itself sets. -/
abbrev SfVal := XVal × Word32

/-- RCP (R72). -/
def sfRcp : XVal → SfVal
  | .nan => (.nan, 0)
  | .inf s => (xZero s, 0)
  | .fin s n d e => if n = 0 then (.inf s, flDz) else (.fin s d n (-e), 0)

/-- floor(sqrt(n / d)) scaled by 2^60, with a sticky bit when it is not exact. -/
def sqrtSticky (n d : Nat) : Nat :=
  let t := n * 2 ^ 120 / d
  let q := Nat.sqrt t
  2 * q + (if q * q * d = n * 2 ^ 120 then 0 else 1)

/-- The square root of a positive value (num / den) * 2^exp, with a sticky bit below 60 fraction bits. -/
def sqrtVal (n d : Nat) (e : Int) : XVal :=
  -- bring the value to m * 2^(2k) with m from 1 to below 4, so that 60 fraction bits are plenty
  let k := magLog n d e / 2
  let f := magFrac n d (e - 2 * k)
  .fin false (sqrtSticky f.1 f.2) 1 (k - 61)

/-- SQRT (R72). -/
def sfSqrt : XVal → SfVal
  | .nan => (.nan, 0)
  | .inf s => if s then (.nan, flNv) else (.inf false, 0)
  | .fin s n d e => if n = 0 then (xZero s, 0) else if s then (.nan, flNv) else (sqrtVal n d e, 0)

/-- RSQ (R72). -/
def sfRsq : XVal → SfVal
  | .nan => (.nan, 0)
  | .inf s => if s then (.nan, flNv) else (xZero false, 0)
  | .fin s n d e => if n = 0 then (.inf s, flDz) else if s then (.nan, flNv) else (sqrtVal d n (-e), 0)

/-- floor of a finite value. -/
def xFloor (neg : Bool) (n d : Nat) (e : Int) : Int :=
  let f := magFrac n d e
  if neg then -((f.1 + f.2 - 1) / f.2 : Nat) else (f.1 / f.2 : Nat)

/-- The part of a finite value above its floor, in fixed point; exact, as FP32 values have at most 149 fraction
bits. -/
def xFrac (neg : Bool) (n d : Nat) (e : Int) : Nat :=
  let f := magFrac n d e
  let r := f.1 % f.2
  let up := if neg && r != 0 then f.2 - r else r
  up * fxOne / f.2

/-- EXP2 (R72): values beyond the range of any FP32 result stand for every larger exponent. -/
def sfExp2 : XVal → SfVal
  | .nan => (.nan, 0)
  | .inf s => (if s then xZero false else .inf false, 0)
  | .fin s n d e =>
    if n = 0 then (.fin false 1 1 0, 0)
    else
      let i := xFloor s n d e
      let fr := xFrac s n d e
      if 200 < i then (.fin false 3 1 200, 0)
      else if i < -300 then (.fin false 3 1 (-300), 0)
      else if fr = 0 then (.fin false 1 1 i, 0)
      else (xScale i (fxVal false (fxExp (fr * fxLn2 / fxOne))), 0)

/-- LOG2 (R72). -/
def sfLog2 : XVal → SfVal
  | .nan => (.nan, 0)
  | .inf s => if s then (.nan, flNv) else (.inf false, 0)
  | .fin s n d e =>
    if n = 0 then (.inf true, flDz)
    else if s then (.nan, flNv)
    else
      let k := magLog n d e
      let f := magFrac n d (e - k)          -- from 1 to below 2
      if f.1 = f.2 then (xInt k, 0)
      else
        let z := (f.1 - f.2) * fxOne / (f.1 + f.2)
        let ln := 2 * fxAtanhTerms (z * z / fxOne) 90 1 z 0
        let frac : Int := (ln * fxOne / fxLn2 : Nat)
        let v : Int := k * (fxOne : Int) + frac
        -- the truncation errors are far below the last bits of any FP32 result
        (fxVal (decide (v < 0)) v.natAbs, 0)

/-- The value modulo 2 of a finite value, in fixed point. -/
def xMod2 (neg : Bool) (n d : Nat) (e : Int) : Nat :=
  let i := xFloor neg n d e
  (if i % 2 = 0 then 0 else fxOne) + xFrac neg n d e

/-- sin(pi * t) for a fixed-point t from 0 to 2 that is no multiple of 1/2: sign and magnitude. -/
def fxSinPi (t : Nat) : Bool × Nat :=
  let neg := fxOne < t
  let u := if neg then t - fxOne else t
  let u := if fxOne / 2 < u then fxOne - u else u
  (neg, if u ≤ fxOne / 4 then fxSin (u * fxPi / fxOne)
    else min (fxOne - 1) (fxCos ((fxOne / 2 - u) * fxPi / fxOne)))

/-- SINPI (R72): exact points as the table gives them. -/
def sfSinpi : XVal → SfVal
  | .nan => (.nan, 0)
  | .inf _ => (.nan, flNv)
  | .fin s n d e =>
    if n = 0 then (xZero s, 0)
    else
      let t := xMod2 s n d e
      if t = 0 ∨ t = fxOne then (xZero s, 0)
      else if t = fxOne / 2 then (xInt 1, 0)
      else if t = fxOne + fxOne / 2 then (xInt (-1), 0)
      else
        let v := fxSinPi t
        (fxVal v.1 v.2, 0)

/-- COSPI (R72). -/
def sfCospi : XVal → SfVal
  | .nan => (.nan, 0)
  | .inf _ => (.nan, flNv)
  | .fin s n d e =>
    if n = 0 then (xInt 1, 0)
    else
      let t := xMod2 s n d e
      if t = 0 then (xInt 1, 0)
      else if t = fxOne then (xInt (-1), 0)
      else if t = fxOne / 2 ∨ t = fxOne + fxOne / 2 then (xZero false, 0)
      else
        let v := fxSinPi ((t + fxOne / 2) % (2 * fxOne))
        (fxVal v.1 v.2, 0)

/-- TANH of a magnitude from 2^-12 to below 10, in fixed point. -/
def fxTanh (n d : Nat) (e : Int) : Nat :=
  let f := magFrac n d e
  let y := 2 * f.1 * fxOne / f.2          -- 2 |x|
  let ex := fxSquares 6 (fxExp (y / 64))
  (ex - fxOne) * fxOne / (ex + fxOne)

/-- TANH (R72): the value, the flags, and whether the table of exact points gives it (it is then rounded as it
stands). -/
def sfTanh : XVal → SfVal × Bool
  | .nan => ((.nan, 0), true)
  | .inf s => ((.fin s 1 1 0, 0), true)
  | .fin s n d e =>
    if n = 0 then ((xZero s, 0), true)
    else if magLt n d e 1 1 (-12) then ((.fin s n d e, flNx), true)
    else if !magLt n d e 10 1 0 then ((.fin s 1 1 0, flNx), true)
    else ((fxVal s (fxTanh n d e), 0), false)

/-! ## Terms and BlockDot -/

/-- Non-zero digits of the canonical signed-digit recoding of M (R73). -/
def nafCount : Nat → Nat → Nat
  | 0, _ => 0
  | fuel + 1, m =>
    if m = 0 then 0
    else if m % 2 = 1 then
      (if m % 4 = 1 then 1 + nafCount fuel ((m - 1) / 2) else 1 + nafCount fuel ((m + 1) / 2))
    else nafCount fuel (m / 2)

/-- `Terms(b, fmt)` (R73 to R76). -/
def termsOf (f : Fmt) (code : Nat) : Nat :=
  if fmtIsFloat f then
    match rawVal f code with
    | .fin _ n _ _ => nafCount 40 n
    | _ => 1
  else
    match f with
    | .lg6 => if lg6L code = -16 then 0 else nafCount 40 (lg6T (lg6L code % 4).toNat)
    | _ =>
      match rawVal f code with
      | .fin _ n _ _ => nafCount 40 n
      | _ => 0

/-- The product of two LG6 values inside `BlockDot` (R62). -/
def lg6Product (a b : Nat) : XVal :=
  let neg := bitOf a 5 != bitOf b 5
  if lg6L a = -16 ∨ lg6L b = -16 then xZero neg
  else
    let m := lg6Mag (lg6L a + lg6L b)
    .fin neg m.1 1 (m.2 - 11)

/-- c(a, b) of R80. -/
def costOf (fa fb : Fmt) (a b : Nat) : Nat :=
  if fa = .lg6 ∧ fb = .lg6 then
    (if lg6L a = -16 ∨ lg6L b = -16 then 0 else nafCount 40 (lg6Mag (lg6L a + lg6L b)).1)
  else termsOf fb b

/-- One product of `BlockDot`, with the flags of reading its operands (R77). -/
def dotProduct (fmt : Word32) (fa fb : Fmt) (a b : Nat) : XVal × Word32 :=
  if fa = .lg6 ∧ fb = .lg6 then (lg6Product a b, 0)
  else
    let x := readVal fmt fa a
    let y := readVal fmt fb b
    let p := xMul x.1 y.1
    (p, x.2 ||| y.2 ||| flagIf (xIsNan p && !xIsNan x.1 && !xIsNan y.1) flNv)

/-- Truncate a magnitude toward zero below 2^q (R77). -/
def truncBelow (q : Int) : XVal → XVal
  | .fin s n d e => .fin s (let f := magFrac n d (e - q); f.1 / f.2) 1 q
  | x => x

/-- The sum of the products, with the window of 16-bit inputs and the sign rules of R77. -/
def dotSum (window : Bool) (ps : List XVal) : XVal × Word32 :=
  if ps.any xIsNan then (.nan, 0)
  else if ps.any (· == .inf false) && ps.any (· == .inf true) then (.nan, flNv)
  else if ps.any (· == .inf false) then (.inf false, 0)
  else if ps.any (· == .inf true) then (.inf true, 0)
  else
    let mags := ps.filterMap (fun p => match p with
      | .fin _ n d e => if n = 0 then none else some (magLog n d e)
      | _ => none)
    let ps := match window, mags with
      | true, m :: ms => ps.map (truncBelow (ms.foldl max m - 48))
      | _, _ => ps
    match ps with
    | [] => (xZero false, 0)
    | p :: rest => (rest.foldl (xAdd false) p, 0)

/-- Is the format FP16 or BF16? -/
def isHalf (f : Fmt) : Bool := f == .f16 || f == .bf16

/-- `BlockDot` (R77): its value and the flags it sets. -/
def blockDot (fmt : Word32) (fa fb : Fmt) (as bs : List Nat) (sa sb : Option XVal) : XVal × Word32 :=
  match sa, sb with
  | some u, some v =>
    let ps := (as.zip bs).map (fun p => dotProduct fmt fa fb p.1 p.2)
    let fl := ps.foldl (fun acc p => acc ||| p.2) 0
    let s := dotSum (isHalf fa || isHalf fb) (ps.map (·.1))
    (xMul (xMul s.1 u) v, fl ||| s.2)
  | _, _ => (.nan, flNv)

/-- C + BlockDot rounded once to FP32 (R78): the new encoding and the flags. -/
def accumulate (fmt : Word32) (c : Nat) (dot : XVal × Word32) : Nat × Word32 :=
  let x := readVal fmt .f32 c
  let sum := xAdd false x.1 dot.1
  let made := flagIf (xIsNan sum && !xIsNan x.1 && !xIsNan dot.1) flNv
  let res := xRound .f32 { rm := 0, fmt := fmt } sum
  (res.1, x.2 ||| dot.2 ||| made ||| res.2)

end Sys2Proof.Machine
end

