-- ==== Sys2Proof/Machine/Fields.lean ====
section
/-! DEFINITION. Which fields each lane form uses (spec/04_encoding.md R88 to R102 and the field tables of
spec/07_isa_lane.md, spec/08_isa_matrix_engines.md, spec/09_isa_bank.md), the checks that need only the bits of a
word (R103 step 3), and the checks that need the kernel's R, P and W too (R103 step 5). -/

namespace Sys2Proof

/-- How a form uses an operand field: not at all (R102: it must be zero), as an operand value (R88), or as data
bits that are no operand value (R93, R99). -/
inductive FieldUse where
  | unused
  | operand
  | data
  deriving DecidableEq, Repr

/-- The fields that a lane form uses: its four operand fields, its four modifiers (a used modifier is no reserved
bit), whether PR selects lanes (otherwise PR = 127 and PN = 0), whether U may be set (R98), whether K may be
set (R92). -/
structure LaneUse where
  d : FieldUse
  a : FieldUse
  b : FieldUse
  c : FieldUse
  md : Bool
  ma : Bool
  mb : Bool
  mc : Bool
  pred : Bool
  uni : Bool
  keep : Bool
  deriving DecidableEq, Repr

/-- The field use of each lane form, by the field table of its entry (R162, R167, R173, R175 to R179, R181 to
R186, R189, R194, R198, R235, R236, R248); none for what is no lane form with a shared head. -/
def laneUse : Instr → Option LaneUse
  | .iadd _ _ => some ⟨.operand, .operand, .operand, .unused, true, true, true, false, true, true, false⟩
  | .isub _ _ => some ⟨.operand, .operand, .operand, .unused, true, true, true, false, true, true, false⟩
  | .imul _ _ => some ⟨.operand, .operand, .operand, .unused, true, true, true, false, true, true, false⟩
  | .imulh _ _ => some ⟨.operand, .operand, .operand, .unused, true, true, true, false, true, true, false⟩
  | .imulhn _ _ => some ⟨.operand, .operand, .operand, .unused, true, true, true, false, true, true, false⟩
  | .imad _ _ => some ⟨.operand, .operand, .operand, .operand, true, true, true, true, true, true, false⟩
  | .imin _ _ => some ⟨.operand, .operand, .operand, .unused, true, true, true, false, true, true, false⟩
  | .imax _ _ => some ⟨.operand, .operand, .operand, .unused, true, true, true, false, true, true, false⟩
  | .iminn _ _ => some ⟨.operand, .operand, .operand, .unused, true, true, true, false, true, true, false⟩
  | .imaxn _ _ => some ⟨.operand, .operand, .operand, .unused, true, true, true, false, true, true, false⟩
  | .iabs _ => some ⟨.operand, .operand, .unused, .unused, true, true, false, false, true, true, false⟩
  | .ineg _ => some ⟨.operand, .operand, .unused, .unused, true, true, false, false, true, true, false⟩
  | .laneAnd _ _ => some ⟨.operand, .operand, .operand, .unused, true, true, true, false, true, true, false⟩
  | .laneOr _ _ => some ⟨.operand, .operand, .operand, .unused, true, true, true, false, true, true, false⟩
  | .laneXor _ _ => some ⟨.operand, .operand, .operand, .unused, true, true, true, false, true, true, false⟩
  | .inot _ => some ⟨.operand, .operand, .unused, .unused, true, true, false, false, true, true, false⟩
  | .laneShl _ _ => some ⟨.operand, .operand, .operand, .unused, true, true, true, false, true, true, false⟩
  | .laneShr _ _ => some ⟨.operand, .operand, .operand, .unused, true, true, true, false, true, true, false⟩
  | .laneSar _ _ => some ⟨.operand, .operand, .operand, .unused, true, true, true, false, true, true, false⟩
  | .rotl _ _ => some ⟨.operand, .operand, .operand, .unused, true, true, true, false, true, true, false⟩
  | .bfe _ _ _ _ => some ⟨.operand, .operand, .unused, .unused, true, true, false, false, true, true, false⟩
  | .bfi _ _ _ => some ⟨.operand, .operand, .operand, .unused, true, true, true, false, true, true, false⟩
  | .popc _ => some ⟨.operand, .operand, .unused, .unused, true, true, false, false, true, true, false⟩
  | .clz _ => some ⟨.operand, .operand, .unused, .unused, true, true, false, false, true, true, false⟩
  | .brev _ => some ⟨.operand, .operand, .unused, .unused, true, true, false, false, true, true, false⟩
  | .icmp _ _ _ => some ⟨.unused, .operand, .operand, .unused, false, true, true, false, true, true, false⟩
  | .cadd128 _ _ => some ⟨.operand, .operand, .operand, .unused, false, false, false, false, true, true, false⟩
  | .fadd _ _ => some ⟨.operand, .operand, .operand, .unused, true, true, true, false, true, true, false⟩
  | .fsub _ _ => some ⟨.operand, .operand, .operand, .unused, true, true, true, false, true, true, false⟩
  | .fmul _ _ => some ⟨.operand, .operand, .operand, .unused, true, true, true, false, true, true, false⟩
  | .ffma _ _ => some ⟨.operand, .operand, .operand, .operand, true, true, true, true, true, true, false⟩
  | .fmin _ _ => some ⟨.operand, .operand, .operand, .unused, true, true, true, false, true, true, false⟩
  | .fmax _ _ => some ⟨.operand, .operand, .operand, .unused, true, true, true, false, true, true, false⟩
  | .fcmp _ _ _ _ => some ⟨.unused, .operand, .operand, .unused, false, true, true, false, true, true, false⟩
  | .fclass _ _ => some ⟨.operand, .operand, .unused, .unused, true, true, false, false, true, true, false⟩
  | .frnd _ _ _ => some ⟨.operand, .operand, .unused, .unused, true, true, false, false, true, true, false⟩
  | .fscale _ _ => some ⟨.operand, .operand, .operand, .unused, true, true, true, false, true, true, false⟩
  | .cvt _ _ _ => some ⟨.operand, .operand, .unused, .unused, true, true, false, false, true, true, false⟩
  | .bscale _ _ => some ⟨.operand, .operand, .operand, .unused, true, true, true, false, true, true, false⟩
  | .rcp _ => some ⟨.operand, .operand, .unused, .unused, true, true, false, false, true, true, false⟩
  | .rsq _ => some ⟨.operand, .operand, .unused, .unused, true, true, false, false, true, true, false⟩
  | .sqrt _ => some ⟨.operand, .operand, .unused, .unused, true, true, false, false, true, true, false⟩
  | .exp2 _ => some ⟨.operand, .operand, .unused, .unused, true, true, false, false, true, true, false⟩
  | .log2 _ => some ⟨.operand, .operand, .unused, .unused, true, true, false, false, true, true, false⟩
  | .sinpi _ => some ⟨.operand, .operand, .unused, .unused, true, true, false, false, true, true, false⟩
  | .cospi _ => some ⟨.operand, .operand, .unused, .unused, true, true, false, false, true, true, false⟩
  | .tanh _ => some ⟨.operand, .operand, .unused, .unused, true, true, false, false, true, true, false⟩
  | .pand _ _ _ _ => some ⟨.unused, .unused, .unused, .unused, false, false, false, false, true, true, false⟩
  | .por _ _ _ _ => some ⟨.unused, .unused, .unused, .unused, false, false, false, false, true, true, false⟩
  | .pxor _ _ _ _ => some ⟨.unused, .unused, .unused, .unused, false, false, false, false, true, true, false⟩
  | .pnot _ _ _ _ => some ⟨.unused, .unused, .unused, .unused, false, false, false, false, true, true, false⟩
  | .pmov _ _ _ _ => some ⟨.unused, .unused, .unused, .unused, false, false, false, false, true, true, false⟩
  | .ptoi _ _ => some ⟨.operand, .unused, .unused, .unused, true, false, false, false, true, true, false⟩
  | .sel _ _ _ => some ⟨.operand, .operand, .operand, .unused, true, true, true, false, true, true, false⟩
  | .mov _ => some ⟨.operand, .operand, .unused, .unused, true, true, false, false, true, true, false⟩
  | .limm _ _ => some ⟨.operand, .unused, .data, .data, true, false, false, false, true, true, false⟩
  | .shfl _ _ _ _ => some ⟨.operand, .operand, .operand, .unused, true, true, false, false, true, false, false⟩
  | .vote _ _ _ _ => some ⟨.operand, .unused, .unused, .unused, true, false, false, false, true, false, false⟩
  | .redux _ _ => some ⟨.operand, .operand, .unused, .unused, true, true, false, false, true, false, false⟩
  | .scan _ _ _ => some ⟨.operand, .operand, .unused, .unused, true, true, false, false, true, false, false⟩
  | .regroup _ _ _ => some ⟨.unused, .operand, .operand, .unused, false, false, false, false, false, false, false⟩
  | .demote _ => some ⟨.unused, .unused, .unused, .unused, false, false, false, false, true, false, false⟩
  | .vguard _ _ _ _ _ => some ⟨.unused, .unused, .unused, .unused, false, false, false, false, true, false, false⟩
  | .ld _ _ _ _ _ => some ⟨.operand, .operand, .operand, .unused, true, true, true, false, true, true, false⟩
  | .st _ _ _ _ _ => some ⟨.unused, .operand, .operand, .operand, true, true, true, true, true, false, false⟩
  | .lds _ _ _ _ => some ⟨.operand, .operand, .operand, .unused, true, true, true, false, true, true, false⟩
  | .sts _ _ _ _ => some ⟨.unused, .operand, .operand, .operand, true, true, true, true, true, false, false⟩
  | .ldc _ _ _ _ => some ⟨.operand, .operand, .operand, .unused, true, true, true, false, true, true, false⟩
  | .pref _ _ _ _ => some ⟨.unused, .operand, .operand, .unused, true, true, true, false, true, true, false⟩
  | .atom _ _ _ _ _ _ _ => some ⟨.operand, .operand, .operand, .operand, true, true, true, true, true, true, false⟩
  | .atoms _ _ _ _ _ _ => some ⟨.operand, .operand, .operand, .operand, true, true, true, true, true, true, false⟩
  | .rngx _ _ => some ⟨.operand, .operand, .operand, .unused, true, true, true, false, true, true, false⟩
  | .mma _ _ _ _ => some ⟨.operand, .operand, .operand, .operand, false, false, false, false, false, false, true⟩
  | .mmat _ _ _ _ => some ⟨.operand, .operand, .operand, .operand, false, false, false, false, false, false, true⟩
  | .mguide _ _ => some ⟨.operand, .operand, .operand, .operand, false, false, false, false, false, false, false⟩
  | .mzero _ _ => some ⟨.operand, .unused, .unused, .unused, false, false, false, false, false, false, false⟩
  | .bact _ _ => some ⟨.unused, .unused, .unused, .unused, false, false, false, false, false, false, false⟩
  | .bpre _ => some ⟨.unused, .unused, .unused, .unused, false, false, false, false, false, false, false⟩
  | .brd _ => some ⟨.operand, .unused, .unused, .unused, false, false, false, false, false, false, false⟩
  | .bwr _ => some ⟨.unused, .operand, .unused, .unused, false, false, false, false, false, false, false⟩
  | .bfma _ _ _ => some ⟨.operand, .operand, .operand, .unused, false, false, false, false, false, false, false⟩
  | .bmac _ _ => some ⟨.operand, .operand, .operand, .unused, false, false, false, false, false, false, false⟩
  | .badd _ _ _ => some ⟨.operand, .operand, .operand, .unused, false, false, false, false, false, false, false⟩
  | .bmul _ _ _ => some ⟨.operand, .operand, .operand, .unused, false, false, false, false, false, false, false⟩
  | .bcvt _ _ _ _ => some ⟨.operand, .operand, .unused, .unused, false, false, false, false, false, false, false⟩
  | .bred _ _ => some ⟨.operand, .operand, .unused, .unused, false, false, false, false, false, false, false⟩
  | .bxch _ _ => some ⟨.operand, .operand, .unused, .unused, false, false, false, false, false, false, false⟩
  | .bmov _ _ => some ⟨.operand, .operand, .unused, .unused, false, false, false, false, false, false, false⟩
  | .bst _ _ _ _ _ => some ⟨.operand, .operand, .unused, .unused, false, false, false, false, false, false, false⟩
  | .bzero _ => some ⟨.operand, .unused, .unused, .unused, false, false, false, false, false, false, false⟩
  | _ => none

/-- The shared head of a lane form, when it has one. -/
def laneHead : Instr → Option LaneHead
  | .iadd h _ => some h
  | .isub h _ => some h
  | .imul h _ => some h
  | .imulh h _ => some h
  | .imulhn h _ => some h
  | .imad h _ => some h
  | .imin h _ => some h
  | .imax h _ => some h
  | .iminn h _ => some h
  | .imaxn h _ => some h
  | .iabs h => some h
  | .ineg h => some h
  | .laneAnd h _ => some h
  | .laneOr h _ => some h
  | .laneXor h _ => some h
  | .inot h => some h
  | .laneShl h _ => some h
  | .laneShr h _ => some h
  | .laneSar h _ => some h
  | .rotl h _ => some h
  | .bfe h _ _ _ => some h
  | .bfi h _ _ => some h
  | .popc h => some h
  | .clz h => some h
  | .brev h => some h
  | .icmp h _ _ => some h
  | .cadd128 h _ => some h
  | .fadd h _ => some h
  | .fsub h _ => some h
  | .fmul h _ => some h
  | .ffma h _ => some h
  | .fmin h _ => some h
  | .fmax h _ => some h
  | .fcmp h _ _ _ => some h
  | .fclass h _ => some h
  | .frnd h _ _ => some h
  | .fscale h _ => some h
  | .cvt h _ _ => some h
  | .bscale h _ => some h
  | .rcp h => some h
  | .rsq h => some h
  | .sqrt h => some h
  | .exp2 h => some h
  | .log2 h => some h
  | .sinpi h => some h
  | .cospi h => some h
  | .tanh h => some h
  | .pand h _ _ _ => some h
  | .por h _ _ _ => some h
  | .pxor h _ _ _ => some h
  | .pnot h _ _ _ => some h
  | .pmov h _ _ _ => some h
  | .ptoi h _ => some h
  | .sel h _ _ => some h
  | .mov h => some h
  | .limm h _ => some h
  | .shfl h _ _ _ => some h
  | .vote h _ _ _ => some h
  | .redux h _ => some h
  | .scan h _ _ => some h
  | .regroup h _ _ => some h
  | .demote h => some h
  | .vguard h _ _ _ _ => some h
  | .ld h _ _ _ _ => some h
  | .st h _ _ _ _ => some h
  | .lds h _ _ _ => some h
  | .sts h _ _ _ => some h
  | .ldc h _ _ _ => some h
  | .pref h _ _ _ => some h
  | .atom h _ _ _ _ _ _ => some h
  | .atoms h _ _ _ _ _ => some h
  | .rngx h _ => some h
  | .mma h _ _ _ => some h
  | .mmat h _ _ _ => some h
  | .mguide h _ => some h
  | .mzero h _ => some h
  | .bact h _ => some h
  | .bpre h => some h
  | .brd h => some h
  | .bwr h => some h
  | .bfma h _ _ => some h
  | .bmac h _ => some h
  | .badd h _ _ => some h
  | .bmul h _ _ => some h
  | .bcvt h _ _ _ => some h
  | .bred h _ => some h
  | .bxch h _ => some h
  | .bmov h _ => some h
  | .bst h _ _ _ _ => some h
  | .bzero h => some h
  | _ => none

/-- The same lane form with another head: a repetition of a repeated word (R93). -/
def withHead (h' : LaneHead) : Instr → Instr
  | .iadd _ imm => .iadd h' imm
  | .isub _ imm => .isub h' imm
  | .imul _ imm => .imul h' imm
  | .imulh _ imm => .imulh h' imm
  | .imulhn _ imm => .imulhn h' imm
  | .imad _ imm => .imad h' imm
  | .imin _ imm => .imin h' imm
  | .imax _ imm => .imax h' imm
  | .iminn _ imm => .iminn h' imm
  | .imaxn _ imm => .imaxn h' imm
  | .iabs _ => .iabs h'
  | .ineg _ => .ineg h'
  | .laneAnd _ imm => .laneAnd h' imm
  | .laneOr _ imm => .laneOr h' imm
  | .laneXor _ imm => .laneXor h' imm
  | .inot _ => .inot h'
  | .laneShl _ imm => .laneShl h' imm
  | .laneShr _ imm => .laneShr h' imm
  | .laneSar _ imm => .laneSar h' imm
  | .rotl _ imm => .rotl h' imm
  | .bfe _ pos len sgn => .bfe h' pos len sgn
  | .bfi _ pos len => .bfi h' pos len
  | .popc _ => .popc h'
  | .clz _ => .clz h'
  | .brev _ => .brev h'
  | .icmp _ pd cond => .icmp h' pd cond
  | .cadd128 _ nb => .cadd128 h' nb
  | .fadd _ ty => .fadd h' ty
  | .fsub _ ty => .fsub h' ty
  | .fmul _ ty => .fmul h' ty
  | .ffma _ ty => .ffma h' ty
  | .fmin _ ty => .fmin h' ty
  | .fmax _ ty => .fmax h' ty
  | .fcmp _ ty pd cond => .fcmp h' ty pd cond
  | .fclass _ ty => .fclass h' ty
  | .frnd _ ty x => .frnd h' ty x
  | .fscale _ ty => .fscale h' ty
  | .cvt _ src dst => .cvt h' src dst
  | .bscale _ mode => .bscale h' mode
  | .rcp _ => .rcp h'
  | .rsq _ => .rsq h'
  | .sqrt _ => .sqrt h'
  | .exp2 _ => .exp2 h'
  | .log2 _ => .log2 h'
  | .sinpi _ => .sinpi h'
  | .cospi _ => .cospi h'
  | .tanh _ => .tanh h'
  | .pand _ pd pa na => .pand h' pd pa na
  | .por _ pd pa na => .por h' pd pa na
  | .pxor _ pd pa na => .pxor h' pd pa na
  | .pnot _ pd pa na => .pnot h' pd pa na
  | .pmov _ pd pa na => .pmov h' pd pa na
  | .ptoi _ pa => .ptoi h' pa
  | .sel _ ps ns => .sel h' ps ns
  | .mov _ => .mov h'
  | .limm _ lo => .limm h' lo
  | .shfl _ mode pv imm => .shfl h' mode pv imm
  | .vote _ pa na mode => .vote h' pa na mode
  | .redux _ op => .redux h' op
  | .scan _ op excl => .scan h' op excl
  | .regroup _ count pd => .regroup h' count pd
  | .demote _ => .demote h'
  | .vguard _ k all pa na => .vguard h' k all pa na
  | .ld _ size osx sc disp => .ld h' size osx sc disp
  | .st _ size osx sc disp => .st h' size osx sc disp
  | .lds _ size osx disp => .lds h' size osx disp
  | .sts _ size osx disp => .sts h' size osx disp
  | .ldc _ size osx disp => .ldc h' size osx disp
  | .pref _ osx l2 disp => .pref h' osx l2 disp
  | .atom _ op w64 sc nr osx disp => .atom h' op w64 sc nr osx disp
  | .atoms _ op w64 nr osx disp => .atoms h' op w64 nr osx disp
  | .rngx _ unit => .rngx h' unit
  | .mma _ mode acls n32 => .mma h' mode acls n32
  | .mmat _ mode acls n32 => .mmat h' mode acls n32
  | .mguide _ cnt => .mguide h' cnt
  | .mzero _ cnt => .mzero h' cnt
  | .bact _ roff => .bact h' roff
  | .bpre _ => .bpre h'
  | .brd _ => .brd h'
  | .bwr _ => .bwr h'
  | .bfma _ hi rm => .bfma h' hi rm
  | .bmac _ sl => .bmac h' sl
  | .badd _ bf rm => .badd h' bf rm
  | .bmul _ bf rm => .bmul h' bf rm
  | .bcvt _ hi tof rm => .bcvt h' hi tof rm
  | .bred _ sl => .bred h' sl
  | .bxch _ x => .bxch h' x
  | .bmov _ rl => .bmov h' rl
  | .bst _ sz disp shr dir => .bst h' sz disp shr dir
  | .bzero _ => .bzero h'
  | i => i

/-- A form without a selecting predicate holds PR = 127 and PN = 0 (R89, R92, R198, R248). -/
def alwaysPred (h : LaneHead) : Bool := h.pr == 127#7 && !h.pn

/-- A modifier whose bits are all zero (R102). -/
def SrcMod.isZero (m : SrcMod) : Bool := m.sz == 0#2 && m.ix == 0#3

/-- A destination modifier whose bits are all zero (R102). -/
def DstMod.isZero (m : DstMod) : Bool := m.sz == 0#2 && m.ix == 0#3 && m.rm == 0#3

/-- The shared fields of a lane word against the form's use of them: unused operand fields and modifiers are zero
(R102), U, K and ALW only where R92 allows them, a uniform word or a form that selects no lanes has PR = 127 and
PN = 0. -/
def headOk (u : LaneUse) (h : LaneHead) : Bool :=
  (u.d != .unused || h.vd == 0#9) && (u.a != .unused || h.va == 0#9) &&
  (u.b != .unused || h.vb == 0#9) && (u.c != .unused || h.vc == 0#9) &&
  (u.md || h.md.isZero) && (u.ma || h.ma.isZero) && (u.mb || h.mb.isZero) && (u.mc || h.mc.isZero) &&
  (u.uni || !h.u) && (u.keep || !h.k) && (!h.alw || h.u) &&
  ((u.pred && !h.u) || alwaysPred h)

/-- With an immediate B operand (IB = 1) VB and MB are zero (R162, R181). -/
def immBOk {n : Nat} (h : LaneHead) (imm : Option (BitVec n)) : Bool :=
  imm.isNone || (h.vb == 0#9 && h.mb.isZero)

/-- The A classes that R199 allows in each mode of a matrix form, from the IMM16 fields alone. -/
def matClassOk (mode : MmaMode) (acls : ACls) : Bool :=
  match mode, acls with
  | .f, _ => true
  | .i, .a4 => true
  | .i, .a8 => true
  | .i, _ => false
  | .l, .a6 => true
  | .l, _ => false

/-- The store sizes: the sign-extending ones are loads only (R189). -/
def storeSizeOk (size : MSize) : Bool := size != .s8 && size != .s16

/-- The values of RL in `BMOV` (R248). -/
def bmovRlOk (rl : BitVec 4) : Bool := rl == 0#4 || (4 ≤ rl.toNat && rl.toNat ≤ 9)

/-- Of the modifier of a destination that the form does not have, only SZ may be set (R91), for SZ has a rule of its own
in the memory forms (R189). -/
def DstMod.sizeOnly (m : DstMod) : Bool := m.ix == 0#3 && m.rm == 0#3

/-- The limits that a form's own entry sets beyond `headOk`, on the bits of the word alone (R103 step 3). The field list of
`SHFL` has no MB, and its IB row wants MB zero for an immediate only; here MB is zero in both (R102; DEDUCED, entry 57).
-/
def ownFieldsOk : Instr → Bool
  | .iadd h imm => immBOk h imm
  | .isub h imm => immBOk h imm
  | .imul h imm => immBOk h imm
  | .imulh h imm => immBOk h imm
  | .imulhn h imm => immBOk h imm
  | .imad h imm => immBOk h imm
  | .imin h imm => immBOk h imm
  | .imax h imm => immBOk h imm
  | .iminn h imm => immBOk h imm
  | .imaxn h imm => immBOk h imm
  | .laneAnd h imm => immBOk h imm
  | .laneOr h imm => immBOk h imm
  | .laneXor h imm => immBOk h imm
  | .laneShl h imm => immBOk h imm
  | .laneShr h imm => immBOk h imm
  | .laneSar h imm => immBOk h imm
  | .rotl h imm => immBOk h imm
  | .bfe _ _ len _ => len.toNat ≤ 32
  | .bfi _ _ len => len.toNat ≤ 32
  | .cvt h src dst => (h.ma.sz == 0#2 || src == .f32) && (h.md.sz == 0#2 || dst == .f32)
  | .bscale h mode =>
    match mode with
    | .mul => true
    | .div => true
    | _ => h.vb == 0#9 && h.mb.isZero
  | .limm h _ => !h.vc.getLsbD 8
  | .shfl h _ _ imm => immBOk h imm && h.mb.isZero
  | .st h size _ _ _ => storeSizeOk size && h.md.sizeOnly
  | .sts h size _ _ => storeSizeOk size && h.md.sizeOnly
  | .pref h _ _ _ => h.md.sizeOnly
  | .atom h op w64 _ nr _ _ => (op != .fadd || !w64) && (!nr || (h.vd == 0#9 && h.md.isZero))
  | .atoms h op w64 nr _ _ => (op != .fadd || !w64) && (!nr || (h.vd == 0#9 && h.md.isZero))
  | .mma _ mode acls _ => matClassOk mode acls
  | .mmat _ mode acls _ => matClassOk mode acls
  | .bfma _ _ rm => rm != 5#3
  | .bmac _ sl => 1 ≤ sl.toNat && sl.toNat ≤ 9
  | .badd _ _ rm => rm != 5#3
  | .bmul _ _ rm => rm != 5#3
  | .bcvt _ _ tof rm => rm != 5#3 && (!tof || rm == 0#3)
  | .bred _ sl => 1 ≤ sl.toNat && sl.toNat ≤ 8
  | .bxch _ x => x != 0#4
  | .bmov _ rl => bmovRlOk rl
  | .bst h sz _ _ dir => 2 ≤ sz.toNat && sz.toNat ≤ 10 && (if dir then h.va == 0#9 else h.vd == 0#9)
  | .setexm _ sel => sel != 3#2
  | .setfmtr _ sel => sel != 3#2
  | .cpyw _ mode _ _ b => (mode == .sm || mode == .mm) && b != 63#6
  | .bar _ hr handle a _ => if hr then handle == 0#5 else a == 0#6
  | .satom op _ _ _ _ => op != .fadd
  | _ => true

/-- The checks of R103 step 3 on an instruction: an instruction that fails them has no encoding of its own, and
the words that would be it raise the illegal-instruction trap. -/
def fieldOk (i : Instr) : Bool :=
  ownFieldsOk i &&
  match laneUse i, laneHead i with
  | some u, some h => headOk u h
  | _, _ => true

/-- The causes of the illegal-operand trap that a word's bits decide with R, P and W (R329): operand value. -/
def causeOperand : Nat := 0
/-- Predicate (R329). -/
def causePred : Nat := 1
/-- Modifier (R329). -/
def causeMod : Nat := 2
/-- Register or count limit (R329). -/
def causeLimit : Nat := 3

/-- The first cause of a list of checks, each none when it passes. The order in which a word with several illegal
values is checked is the model's choice (entry 10). -/
def firstCause : List (Option Nat) → Option Nat
  | [] => none
  | some c :: _ => some c
  | none :: l => firstCause l

/-- A readable source operand (R35, R40). -/
def srcCause (rr : Nat) (v : BitVec 9) : Option Nat :=
  if v.toNat < 384 then (if v.toNat < rr then none else some causeLimit)
  else if v.toNat < 475 then none else some causeOperand

/-- A writable destination operand: a vector register or a queue (R35, R40). -/
def dstCause (rr : Nat) (v : BitVec 9) : Option Nat :=
  if v.toNat < 384 then (if v.toNat < rr then none else some causeLimit)
  else if 448 ≤ v.toNat ∧ v.toNat < 464 then none else some causeOperand

/-- Is the operand value that of a queue (R40)? -/
def isQueue (v : BitVec 9) : Bool := 448 ≤ v.toNat && v.toNat < 464

/-- Is the operand value that of a scalar register (R40)? -/
def isScalar (v : BitVec 9) : Bool := 384 ≤ v.toNat && v.toNat < 448

/-- `n` vector registers from `v` lie below R. -/
def spanCause (rr n : Nat) (v : BitVec 9) : Option Nat :=
  if v.toNat < 384 ∧ v.toNat + n ≤ rr then none else some causeLimit

/-- The operand names a scalar register. -/
def scalarCause (v : BitVec 9) : Option Nat := if isScalar v then none else some causeOperand

/-- A check that fails with a cause. -/
def need (ok : Bool) (c : Nat) : Option Nat := if ok then none else some c

/-- The legal subfield indexes of each size code (R90). -/
def modOk (sz : BitVec 2) (ix : BitVec 3) : Bool :=
  match sz with
  | 0#2 => ix == 0#3
  | 1#2 => ix.toNat < 4
  | 2#2 => ix.toNat < 5
  | _ => true

/-- A predicate number that a word names in IMM16 (R36, R165, R177). -/
def predCause (pp : Nat) (p : BitVec 7) : Option Nat := need (p.toNat < pp) causePred

/-- The selecting predicate of a lane word (R89). -/
def prCause (pp : Nat) (h : LaneHead) : Option Nat :=
  if h.pr = 127#7 then need (!h.pn) causePred else need (h.pr.toNat < pp) causePred

/-- Registers that a load or store of each size moves (R191). -/
def sizeWords : MSize → Nat
  | .w64 => 2
  | .w128 => 4
  | _ => 1

/-- Registers of a row of A of each class (R200). -/
def aRegs : ACls → Nat
  | .a4 => 4
  | .a6 => 6
  | .a8 => 8
  | .af16 => 16
  | .abf16 => 16

/-- Words of the data operand of an atomic: two values for a compare and swap (R235). -/
def atomWords (op : AtomOp) (w64 : Bool) : Nat :=
  (if w64 then 2 else 1) * (if op = .cas then 2 else 1)

/-- The checks of the shared fields of a lane form (R35, R36, R40, R88 to R91). -/
def sharedCause (rr pp : Nat) (u : LaneUse) (h : LaneHead) (immB : Bool) : Option Nat :=
  firstCause [
    (if u.pred then prCause pp h else none),
    (if u.a = .operand then srcCause rr h.va else none),
    (if u.b = .operand ∧ ¬ immB then srcCause rr h.vb else none),
    (if u.c = .operand then srcCause rr h.vc else none),
    (if u.d = .operand then dstCause rr h.vd else none),
    (if u.ma then need (modOk h.ma.sz h.ma.ix) causeMod else none),
    (if u.mb then need (modOk h.mb.sz h.mb.ix) causeMod else none),
    (if u.mc then need (modOk h.mc.sz h.mc.ix) causeMod else none),
    (if u.md then need (modOk h.md.sz h.md.ix && (h.md.sz == 0#2 || !isQueue h.vd)) causeMod else none)]

/-- A packed floating-point form takes full operands only (R91, R167). -/
def packedCause (ty : FTy) (h : LaneHead) : Option Nat :=
  match ty with
  | .f32 => none
  | _ => need (h.ma.sz == 0#2 && h.mb.sz == 0#2 && h.mc.sz == 0#2 && h.md.sz == 0#2) causeMod

/-- The limits of the load forms (R189 to R191). -/
def loadCause (rr : Nat) (h : LaneHead) (size : MSize) : Option Nat :=
  firstCause [need (h.md.sz == 0#2 && h.mb.isZero) causeMod, need (h.vd.toNat < 384) causeOperand,
    spanCause rr (sizeWords size) h.vd]

/-- The limits of the store forms (R189 to R191). -/
def storeCause (rr : Nat) (h : LaneHead) (size : MSize) : Option Nat :=
  firstCause [need (h.md.sz == 0#2 && h.mb.isZero) causeMod,
    (if sizeWords size = 1 then none else need h.mc.isZero causeMod),
    (if sizeWords size = 1 then none else spanCause rr (sizeWords size) h.vc)]

/-- The limits of the atomics of the lane stream (R235, R236). -/
def atomCause (rr : Nat) (h : LaneHead) (op : AtomOp) (w64 nr : Bool) : Option Nat :=
  firstCause [need (h.mb.isZero && h.mc.isZero && h.md.isZero) causeMod,
    need (!isQueue h.vc && (nr || h.vd.toNat < 384)) causeOperand,
    (if atomWords op w64 = 1 then none else spanCause rr (atomWords op w64) h.vc),
    (if nr then none else spanCause rr (if w64 then 2 else 1) h.vd)]

/-- Bank forms name BSU registers 0 to 7 (R248). -/
def bankCause (u : LaneUse) (h : LaneHead) : Option Nat :=
  firstCause [
    (if u.d = .operand then need (h.vd.toNat < 8) causeOperand else none),
    (if u.a = .operand then need (h.va.toNat < 8) causeOperand else none),
    (if u.b = .operand then need (h.vb.toNat < 8) causeOperand else none)]

/-- The limits that a compute lane form's own entry sets (R103 step 5), beside `sharedCause`. -/
def ownCause (rr pp ww : Nat) : Instr → Option Nat
  | .icmp _ pd _ => predCause pp pd
  | .cadd128 h nb => firstCause [spanCause rr 4 h.vd, spanCause rr 4 h.va,
      (if nb then none else spanCause rr 4 h.vb)]
  | .fadd h ty => packedCause ty h
  | .fsub h ty => packedCause ty h
  | .fmul h ty => packedCause ty h
  | .ffma h ty => packedCause ty h
  | .fmin h ty => packedCause ty h
  | .fmax h ty => packedCause ty h
  | .fcmp h ty pd _ => firstCause [packedCause ty h, predCause pp pd,
      (if ty = .f32 then none else need (pd.toNat + 1 < pp) causePred)]
  | .fclass h ty => packedCause ty h
  | .frnd h ty _ => packedCause ty h
  | .fscale h ty => packedCause ty h
  | .pand _ pd pa _ => firstCause [predCause pp pd, predCause pp pa]
  | .por _ pd pa _ => firstCause [predCause pp pd, predCause pp pa]
  | .pxor _ pd pa _ => firstCause [predCause pp pd, predCause pp pa]
  | .pnot _ pd pa _ => firstCause [predCause pp pd, predCause pp pa]
  | .pmov _ pd pa _ => firstCause [predCause pp pd, predCause pp pa]
  | .ptoi _ pa => predCause pp pa
  | .sel _ ps _ => predCause pp ps
  | .shfl _ _ pv _ => if pv = 127#7 then none else predCause pp pv
  | .vote h pa _ mode => firstCause [predCause pp pa,
      (if mode = .ballot then firstCause [need (h.md.sz == 0#2) causeMod, need (!isQueue h.vd) causeOperand,
        (if ww = 64 then spanCause rr 2 h.vd else none)] else none)]
  | .regroup h count pd => firstCause [need (count.toNat != 0) causeLimit, spanCause rr count.toNat h.va,
      need (pd.toNat < pp) causePred]
  | .vguard _ _ _ pa _ => predCause pp pa
  | .ld h size _ _ _ => firstCause [scalarCause h.vb, loadCause rr h size]
  | .st h size _ _ _ => firstCause [scalarCause h.vb, storeCause rr h size]
  | .lds h size _ _ => loadCause rr h size
  | .sts h size _ _ => storeCause rr h size
  | .ldc h size _ _ => loadCause rr h size
  | .pref h _ _ _ => firstCause [scalarCause h.vb, need (h.md.sz == 0#2 && h.mb.isZero) causeMod]
  | .atom h op w64 _ nr _ _ => firstCause [scalarCause h.vb, atomCause rr h op w64 nr]
  | .atoms h op w64 nr _ _ => atomCause rr h op w64 nr
  | .rngx h _ => firstCause [need (h.md.sz == 0#2 && h.ma.sz == 0#2 && h.mb.sz == 0#2) causeMod,
      spanCause rr 4 h.vd, spanCause rr 4 h.va, (if isScalar h.vb then none else spanCause rr 2 h.vb)]
  | .mma h _ acls n32 => firstCause [spanCause rr (if n32 then 32 else 16) h.vd, spanCause rr (aRegs acls + 1) h.va,
      scalarCause h.vb, scalarCause h.vc]
  | .mmat h _ acls n32 => firstCause [spanCause rr (if n32 then 32 else 16) h.vd,
      spanCause rr (aRegs acls + 1) h.va, scalarCause h.vb, scalarCause h.vc]
  | .mguide h cnt => firstCause [spanCause rr (cnt.toNat + 1) h.vd, spanCause rr (cnt.toNat + 1) h.va,
      spanCause rr (cnt.toNat + 1) h.vb, scalarCause h.vc]
  | .mzero h cnt => spanCause rr (cnt.toNat + 1) h.vd
  | _ => none

/-- Does the B operand of the word stand in IMM16, or is VB not read at all (R162, R175, R181, R235)? -/
def vbUnread : Instr → Bool
  | .iadd _ imm => imm.isSome
  | .isub _ imm => imm.isSome
  | .imul _ imm => imm.isSome
  | .imulh _ imm => imm.isSome
  | .imulhn _ imm => imm.isSome
  | .imad _ imm => imm.isSome
  | .imin _ imm => imm.isSome
  | .imax _ imm => imm.isSome
  | .iminn _ imm => imm.isSome
  | .imaxn _ imm => imm.isSome
  | .laneAnd _ imm => imm.isSome
  | .laneOr _ imm => imm.isSome
  | .laneXor _ imm => imm.isSome
  | .laneShl _ imm => imm.isSome
  | .laneShr _ imm => imm.isSome
  | .laneSar _ imm => imm.isSome
  | .rotl _ imm => imm.isSome
  | .shfl _ _ _ imm => imm.isSome
  | .bscale _ mode => mode != .mul && mode != .div
  | _ => false

/-- Is VD unused in this word although the form has a destination (R235 with NR = 1)? -/
def vdUnwritten : Instr → Bool
  | .atom _ _ _ _ nr _ _ => nr
  | .atoms _ _ _ nr _ _ => nr
  | _ => false

/-- The forms of a bank run (R98: 0x3C0 to 0x3CD). -/
def isBankForm : Instr → Bool
  | .bact _ _ => true
  | .bpre _ => true
  | .brd _ => true
  | .bwr _ => true
  | .bfma _ _ _ => true
  | .bmac _ _ => true
  | .badd _ _ _ => true
  | .bmul _ _ _ => true
  | .bcvt _ _ _ _ => true
  | .bred _ _ => true
  | .bxch _ _ => true
  | .bmov _ _ => true
  | .bst _ _ _ _ _ => true
  | .bzero _ => true
  | _ => false

/-- The operand fields that a BST uses depend on its direction (R248). -/
def bankUse (i : Instr) (u : LaneUse) : LaneUse :=
  match i with
  | .bst _ _ _ _ true => { u with a := .unused }
  | .bst _ _ _ _ false => { u with d := .unused }
  | _ => u

/-- The checks of R35, R36, R40 and R88 to R91 on a lane word: the cause of its illegal-operand trap, or none. -/
def sharedFault (rr pp : Nat) (i : Instr) : Option Nat :=
  match laneUse i, laneHead i with
  | some u, some h =>
    if isBankForm i then bankCause (bankUse i u) h
    else sharedCause rr pp (if vdUnwritten i then { u with d := .unused } else u) h (vbUnread i)
  | _, _ => none

/-- R103 step 5 for a lane word of a kernel with `rr` vector registers, `pp` predicates and `ww` lanes: the cause of
its illegal-operand trap, or none. -/
def operandFault (rr pp ww : Nat) (i : Instr) : Option Nat :=
  firstCause [sharedFault rr pp i, if isBankForm i then none else ownCause rr pp ww i]

end Sys2Proof
end

