-- ==== Sys2Proof/Machine/Tab.lean ====
section
/-! DEFINITION. Sparse tables by number: a list of (key, value) pairs with rising keys, in which a key that is not
listed reads as a default. They hold register files, caches, worlds and the like, and memory. `tabSet` keeps them
canonical: it lists no entry equal to the default, so equal tables are equal lists. -/

namespace Sys2Proof.Machine

/-- A sparse table by number. -/
abbrev Tab (α : Type) := List (Nat × α)

/-- The value at a key, if it is listed. -/
def tabFind {α : Type} : Tab α → Nat → Option α
  | [], _ => none
  | (a, x) :: t, k => if k = a then some x else tabFind t k

/-- The value at a key, the default when it is not listed. -/
def tabGet {α : Type} (d : α) (t : Tab α) (k : Nat) : α := (tabFind t k).getD d

/-- List a value at a key, in place of any that stood there. -/
def tabPut {α : Type} : Tab α → Nat → α → Tab α
  | [], k, v => [(k, v)]
  | (a, x) :: t, k, v =>
    if k = a then (k, v) :: t else if k < a then (k, v) :: (a, x) :: t else (a, x) :: tabPut t k v

/-- Remove a key. -/
def tabDel {α : Type} (t : Tab α) (k : Nat) : Tab α := t.filter (fun p => p.1 != k)

/-- Set the value at a key; the default is not listed. -/
def tabSet {α : Type} [DecidableEq α] (d : α) (t : Tab α) (k : Nat) (v : α) : Tab α :=
  if v = d then tabDel t k else tabPut t k v

/-- Change the value at a listed key; an unlisted key stays unlisted. -/
def tabModify {α : Type} (t : Tab α) (k : Nat) (f : α → α) : Tab α :=
  match tabFind t k with
  | some x => tabPut t k (f x)
  | none => t

/-- The keys rise strictly. -/
def tabSorted {α : Type} : Tab α → Bool
  | [] => true
  | [_] => true
  | (a, _) :: (b, y) :: t => decide (a < b) && tabSorted ((b, y) :: t)

/-- The canonical form: keys rise strictly and no listed value is the default. -/
def tabWf {α : Type} [DecidableEq α] (d : α) (t : Tab α) : Bool :=
  tabSorted t && t.all (fun p => decide (p.2 ≠ d))

end Sys2Proof.Machine
end

