-- ==== Sys2Proof/Machine/State.lean ====
section
/-! DEFINITION. The state of the FX-840, all of it plain data: the device with its worlds, launches, troupes,
groups, cores, slices, key slots, memories and caches (spec/01_machine.md, spec/02_state.md and the files that each
field's docstring names), the reasons a step can stop, and the state after reset. Fields that are the model's own
(the agenda, the running stream, the counter of free values) say so. -/

namespace Sys2Proof.Machine

/-! ## Scalar and lane state of a group -/

/-- What a waiting instruction waits for (R116; the codes a group reports are those of R273). -/
inductive WaitOn where
  /-- The translation of the group's access `aid` (R131): scoreboard. -/
  | trans (aid : Nat)
  /-- Every earlier run has issued its last word or been discarded (R227, R214): lane queue empty. -/
  | issued
  /-- Every earlier run has completed (R47): scoreboard. -/
  | completed
  /-- Every earlier run has issued, before predicates are read (R139): scoreboard. -/
  | predicates
  /-- Every earlier run has completed, before `TWJOIN` meets the partner (R214): lane queue empty. -/
  | drained
  /-- No access of the group is parked (R222, R227): fault-parked. -/
  | parked
  /-- The counter of a path is at most `n` (R231, R53): in-flight wait. -/
  | counter (p : Path) (n : Nat)
  /-- Fewer than 8 runs are queued (R145): scoreboard. -/
  | laneRoom
  /-- The count of guard `k` leaves room for `n` more entries (R38): guard pending. -/
  | guardRoom (k n : Nat)
  /-- Guard `k` is resolved (R148): guard pending. -/
  | guardResolved (k : Nat)
  /-- A phase of a barrier instance (R228, R313): barrier. -/
  | barrier (key phase : Nat)
  /-- The partner at `TWJOIN` (R144): rendezvous. -/
  | rejoin
  /-- A fence whose accesses are not yet performed (R229, R292): in-flight wait. -/
  | fence
  /-- In `PFENCE`: the accesses of a path are not yet performed (R230, R292): in-flight wait. -/
  | pathFence (p : Path)
  /-- The conditions of retirement after `EXIT` (R135): lane queue empty. -/
  | retire
  /-- A bank run (R246), on a base-die core. -/
  | brun
  /-- A message in the mailbox (R255), on a base-die core. -/
  | mailbox
  /-- A take that must be captured first (R337). -/
  | take
  /-- A fetch parked on a fault (R303): fault-parked. -/
  | fetch
  /-- A push to a full queue, or a pop of an empty one (R158, R317). -/
  | queue (q : Nat) (push : Bool)
  /-- A register that access `aid` of group `gid` has not returned, or that is parked (R116, R159): scoreboard. -/
  | operand (gid aid : Nat)
  /-- The term array, or a register that a matrix form in it will write (R206, R269): scoreboard. -/
  | array
  /-- In `BAR`: the order of its scope (R228, R292): barrier. -/
  | barFence
  /-- The partner at `REGROUP` or `MGUIDE` (R187, R213): rendezvous. -/
  | meeting
  deriving DecidableEq, Repr

/-- State of a guard (R38, R46 GSTATE codes 0 to 2). -/
inductive GuardSt where
  | pending
  | resolvedTrue
  | resolvedFalse
  deriving DecidableEq, Repr

/-- A guard with the count of the entries queued under it (R38). -/
structure Guard where
  st : GuardSt := .resolvedTrue
  count : Nat := 0
  deriving DecidableEq, Repr

/-- An entry of the reconvergence stack (R50). -/
structure StackEntry where
  isElse : Bool
  fmt : Word32
  mask : Mask
  pc : Nat
  deriving DecidableEq, Repr

/-- The four steps of a `REP` and how far it has gone (R93): the repetition to issue next, and the count. -/
structure RepState where
  d : Int
  a : Int
  b : Int
  c : Int
  done : Nat
  count : Nat
  deriving DecidableEq, Repr

/-- A run: an entry of the lane queue, waiting or issuing (R94, R118, R145, R268). -/
structure Run where
  /-- The model's own number of the run among those that its half has queued. -/
  id : Nat := 0
  /-- Lane-word index of the next word (at first the index that `RUN` names). -/
  next : Nat
  /-- Counted instructions issued so far (R94). -/
  counted : Nat := 0
  /-- The repetitions of a `REP` in progress. -/
  rep : Option RepState := none
  /-- EXM and FMT as copied by `RUN` (R42). -/
  exm : Mask
  fmt : Word32
  /-- The scalar values that R118 gives, for s0 to s63. -/
  svals : Tab Word64
  /-- Scalar loads in flight at the `RUN`: register and key of the access (`accKey`); their data reaches `svals`
  (R118). -/
  spend : List (Nat × Nat) := []
  /-- Scalar registers among those that were poisoned at the `RUN` (R118, R339). -/
  hurt : List Nat := []
  guard : Option Nat := none
  /-- The head's guard has been read as true (R146). -/
  admitted : Bool := false
  /-- The datapath slice that the run holds, once started (R268). -/
  slice : Option Nat := none
  /-- The cycle in which the run became eligible, and promoted (R267). -/
  eligible : Option Nat := none
  promoted : Option Nat := none
  /-- In a converged pair: the lead's half of the current word has issued and the double's has not (R160). -/
  leadDone : Bool := false
  /-- With `leadDone`, of a `REP`: the repetitions that the lead is to begin (R93). -/
  repDue : Option RepState := none
  /-- The partner that a waiting `REGROUP` at the head has read (R186). -/
  regroup : Option Nat := none
  /-- The run was queued outside the rehearsed range (R428). -/
  outside : Bool := false
  /-- The word that issued last was a matrix form: where it completes, a stop may halt the run (R422). -/
  matrixLast : Bool := false
  deriving DecidableEq, Repr

/-- The operand-collector latch (R54, R204). -/
structure Latch where
  base : Nat
  cls : ACls
  deriving DecidableEq, Repr

/-! ## Accesses -/

/-- What an access reaches: memory as the LS and ATOM paths do, memory as the CONST path does, the troupe's scratchpad,
or one of its queues (R282). -/
inductive Space where
  | mem
  | konst
  | spad
  | queue (q : Nat)
  deriving DecidableEq, Repr

/-- How far one lane's part of an access has come (R131, R193, R303, R304). -/
inductive LaneStage where
  /-- Not translated yet. -/
  | untranslated
  /-- Translated, not performed. -/
  | ready
  /-- Parked on the outstanding fault with this sequence number. -/
  | parked (fid : Nat)
  /-- Performed: value returned, or bytes at their home. -/
  | done
  /-- Its fault service was refused, or ended in a protection outcome with this cause (R304). -/
  | refused (cause : Nat)
  deriving DecidableEq, Repr

/-- How data that returns is poisoned (R340): not; by poison from memory, or in a troupe without takes; or by an error in
the troupe's own scratchpad while it runs with takes. -/
inductive Hurt where
  | none
  | poison
  | own
  deriving DecidableEq, Repr

/-- One lane's part of an access; lane 64 is the group's own access, of a scalar or uniform word. An access of 16 bytes
has two parts of 8 bytes for each lane (R192): the upper one has 128 added to its lane. -/
structure LaneAcc where
  lane : Nat
  addr : Nat
  pa : Nat := 0
  stage : LaneStage := .untranslated
  data : List Byte := []
  /-- Its page is mapped without W (R279). -/
  ro : Bool := false
  /-- The entry of a queue push: its word for each lane position (R158). -/
  entry : Tab Word32 := []
  /-- Of a 16-byte load, the words that this part has returned, and their poison, until the other part returns (R192,
  R340). -/
  back : List Word32 := []
  hurt : Hurt := .none
  deriving DecidableEq, Repr

/-- What an access does. -/
inductive AccOp where
  | load (signed : Bool)
  | store
  | atom (op : AtomOp) (w64 : Bool)
  deriving DecidableEq, Repr

/-- Where the value of a load or an atomic goes. -/
inductive Dest where
  | none
  | sreg (r : Nat)
  | vreg (base words : Nat)
  deriving DecidableEq, Repr

/-- An outstanding access of a group: one memory instruction (R53, R119, R192). -/
structure Access where
  aid : Nat
  path : Path
  op : AccOp
  space : Space
  size : Nat
  scope : Scope
  lanes : List LaneAcc
  dest : Dest
  /-- The lanes that a uniform load or atomic writes (R156). -/
  wmask : Mask := 0
  uniform : Bool := false
  /-- Address of the word, and whether it is a lane word (R104, R327). -/
  pc : Nat
  laneWord : Bool
  /-- The lane word carries E. -/
  e : Bool := false
  /-- Issued by a pair that has split since: its value goes to the scalar registers of both halves (R55, R211). -/
  both : Bool := false
  /-- A store that has left the group's store queue (R277). -/
  left : Bool := false
  /-- Done on its path (R282); it is listed until the accesses before it on the path are done too (R53). -/
  past : Bool := false
  /-- A uniform lane word: the run as it stood at the word, to which a trap of its data returns (R340). -/
  run : Option Run := none
  /-- What its word does when its translation has ended without a trap (R327): lanes die of poison in a register, by lane
  and register; and the queues whose oldest entries it pops, which no other word may pop before. -/
  dies : List (Nat × Nat) := []
  pops : List Nat := []
  /-- A queue push: it is in the order of the LS path, and raises no counter (R282). -/
  silent : Bool := false
  /-- Runs that the group had queued when a scalar instruction issued it, or up to the run that issued it (R423). -/
  runsAt : Nat := 0
  deriving DecidableEq, Repr

/-- Where bytes that a load of a group took from its own core lie, until they are at their home (R286, R292): a lane's
store on its way, or dirty bytes of a sector of the core's L1. -/
inductive TookFrom where
  | store (gid aid lane : Nat)
  | dirty (sector : Nat) (bytes : Mask)
  deriving DecidableEq, Repr

/-! ## Engine commands -/

/-- The engine commands (R219 to R223). -/
inductive CmdOp where
  | cpy (mode : CpyMode)
  | cpyw (mode : CpyMode)
  | gth
  | sct
  | coll (mode : CollMode)
  | bnk (done : Bool)
  deriving DecidableEq, Repr

/-- An engine command, queued or started (R216, R217, R225, R226). -/
structure Cmd where
  path : Path
  seq : Nat
  op : CmdOp
  /-- S[SD], S[SA], S[SB] and, for `CPYW`, s(SB+1), as read at issue. -/
  d : Word64
  a : Word64
  b : Word64
  f : Word64 := 0
  guard : Option Nat := none
  started : Bool := false
  detached : Bool := false
  /-- Its mailbox has accepted a `BNK.done` that is not yet completed (R223). -/
  accepted : Bool := false
  /-- Parked on an outstanding fault, and the address at which it met it (R225). -/
  parked : Option Nat := none
  faultVa : Nat := 0
  /-- Complete; it is listed until the commands before it on the path are complete too (R53). -/
  past : Bool := false
  /-- The result of a `COLL` for this member, and which of its bytes are poisoned (R222, R339). -/
  contrib : List Byte := []
  contribHurt : List Nat := []
  /-- 8-byte words of the destination that have been written already, as positions in the order of the command (R224). -/
  moved : List Nat := []
  /-- A `CPYW` has written its flag, or a `COLL` its result, and peer devices have still to acknowledge them (R286). -/
  flagged : Bool := false
  /-- The command has started before: its index list and its free choices stand (R226). -/
  begun : Bool := false
  /-- The index list of a `GTH` or `SCT`, read when the command starts (R221). -/
  idx : List Nat := []
  /-- The number behind the free choices of the command (R221). -/
  tie : Nat := 0
  /-- Runs that the group had queued when the command issued, and the number of its next access then (R423). -/
  runsAt : Nat := 0
  aidAt : Nat := 0
  /-- It was queued outside the rehearsed range; whether its delay has been set, and what is left of it (R428). -/
  outside : Bool := false
  delayed : Bool := false
  delay : Nat := 0
  deriving DecidableEq, Repr

/-- A trap: class, cause, TVAL and, for a deferred one, what raised it (R326, R327). -/
structure TrapInfo where
  cls : Nat
  cause : Nat
  tval : Word64
  laneWord : Bool := false
  engine : Bool := false
  path : Nat := 0
  seq : Nat := 0
  deriving DecidableEq, Repr

/-- What a troupe is kept from doing, and why its groups stop (R270, R333, R422). -/
inductive HaltWhy where
  /-- A save of the scheduler (R270). -/
  | save
  /-- PREEMPT, a heartbeat expiry, a layout change or ERROR (R404 to R406, R419). -/
  | freeze
  /-- The debugger (R422, R424). -/
  | debug
  /-- A take outside a barrier (R337). -/
  | take
  /-- A rollback (R338). -/
  | rollback
  deriving DecidableEq, Repr

/-- A register of a group's lanes that poison has reached (R339): file, number, lane. -/
structure PoisonMark where
  /-- 0 vector, 1 scalar, 2 predicate. -/
  file : Nat
  num : Nat
  lane : Nat
  deriving DecidableEq, Repr

/-- A group that waits at a rendezvous in its lane stream (R187, R213). -/
structure Rendezvous where
  /-- `REGROUP`: the partner's GRPID; `MGUIDE`: none. -/
  partner : Option Nat
  vbase : Nat := 0
  count : Nat := 0
  pd : Nat := 0
  /-- The operands of an `MGUIDE` and the value s. -/
  vd : Nat := 0
  va : Nat := 0
  vb : Nat := 0
  vc : Nat := 0
  s : Word32 := 0
  addr : Nat := 0
  /-- The word carries E. -/
  e : Bool := false
  deriving DecidableEq, Repr

/-- A group (R34): the state of one scalar stream and one lane stream, or of one half of a twin pair. -/
structure Group where
  /-- Its troupe, and its GRPID. -/
  tid : Nat
  grpid : Nat
  /-- W, R and P of its kernel (R35, R36). -/
  w : Nat
  r : Nat
  p : Nat
  quarter : Nat
  slot : Nat := 0
  /-- Key 64 * register + lane (R34). -/
  vregs : Tab Word32 := []
  /-- One mask per predicate (R34). -/
  preds : Tab Mask := []
  oldlane : Tab Word32 := []
  sregs : Tab Word64 := []
  poison : List PoisonMark := []
  pc : Nat
  guards : Tab Guard := []
  exm : Mask
  deadm : Mask := 0
  helpm : Mask := 0
  fmt : Word32 := 0
  fflags : Word32 := 0
  dither : Word32
  /-- Newest first; the first 32 are on chip, the rest in the spill slot (R50, R51). -/
  stack : List StackEntry := []
  joinpc : Nat := 0
  jv : Bool := false
  /-- In-flight counters by path code (R53). -/
  ifc : Tab Nat := []
  latch : Option Latch := none
  twin : Bool := false
  split : Bool := false
  jwait : Bool := false
  /-- The lane queue, oldest first; its head may be issuing (R145). -/
  laneq : List Run := []
  runsQueued : Nat := 0
  yielded : Bool := false
  tcause : Word32 := 0
  tepc : Nat := 0
  tval : Word64 := 0
  /-- In trap mode the lane queue is frozen (R331). -/
  trapMode : Bool := false
  deferred : List TrapInfo := []
  /-- The resume-as-wait bit of R315: addresses of the `BAR` words whose arrival has been counted and which are still to
  wait; more than one only when a handler interrupts a waiting `BAR`. -/
  resumeWait : List Nat := []
  /-- Its troupe has been ended, and only detached commands of it run on (R226, R383). -/
  ended : Bool := false
  wait : Option WaitOn := none
  lwait : Option WaitOn := none
  accs : List Access := []
  nextAid : Nat := 0
  /-- What its loads took from its core and has not reached its home yet (R286). -/
  took : List TookFrom := []
  /-- The scratchpad as the MTX path may have read it ahead of its word, which no order keeps from it (R284). -/
  ahead : Option (Tab Byte) := none
  engq : List Cmd := []
  /-- Next sequence number per path (R225, R254). -/
  seqs : Tab Nat := []
  rdv : Option Rendezvous := none
  /-- The votes of the lead's half of a converged `VGUARD` whose double is still to issue (R185): the guard, the mode
  ALL, whether some lane voted 1, whether some voted 0. -/
  vote : Option (Nat × Bool × Bool × Bool) := none
  halted : Bool := false
  /-- Its tile-task record for this halt has been made (R423, R425); the record while it waits to be written. -/
  recorded : Bool := false
  record : Option (List Byte) := none
  /-- Accesses withdrawn at a pre-emption, in order, to be issued again (R305). -/
  withdrawn : List Access := []
  /-- What the group's streams waited for when it was saved: its cue-sheet record stays as it stood (R320). -/
  cueWait : Option WaitOn := none
  cueLwait : Option WaitOn := none
  cueRdv : Option Rendezvous := none
  /-- Rehearsal: whether the delay of the next scalar instruction has been set, and the cycles left of it; the same for
  the next lane word (R428). -/
  delayed : Bool := false
  delay : Nat := 0
  ldelayed : Bool := false
  ldelay : Nat := 0
  /-- The debugger's partial halt (R422). -/
  part : Bool := false
  deriving DecidableEq, Repr

/-- A barrier instance (R313): its phase, the members that have arrived in it, and the arrival records. -/
structure Barrier where
  phase : Nat := 0
  arrived : List Nat := []
  records : Tab Nat := []
  deriving DecidableEq, Repr

/-- A troupe's captured take (R336). -/
structure Take where
  groups : List (Nat × Group)
  spad : Tab Byte
  spadPoison : List Nat := []
  spadOwn : List Nat := []
  tags : Tab Nat
  queues : Tab (List (Tab Word32))
  /-- The troupe's own barrier instances, of groups and of the troupe (R313). -/
  barriers : Tab Barrier
  /-- The group whose forcing operation follows the take, and TKC after it (R334, R337). -/
  forced : Option Nat := none
  tkc : Nat := 0
  /-- The STEP that was in progress (R425). -/
  step : Option ((Nat × Nat × Nat) × Tab Nat) := none
  /-- Arrival records of the troupe's groups at booth and ring barriers (R313, R338): group, instance and phase. -/
  records : List (Nat × Nat × Nat) := []
  deriving DecidableEq, Repr

/-- A store held for a take (R337): the bytes at a physical address, at a scope. -/
structure HeldStore where
  pa : Nat
  scope : Scope
  bytes : List Byte
  poison : Bool := false
  deriving DecidableEq, Repr

/-- A troupe (R33, R34, R263, R264, R281, R336). -/
structure Troupe where
  lid : Nat
  x : Nat
  y : Nat
  z : Nat
  core : Nat
  resident : Bool := false
  retired : Bool := false
  everResident : Bool := false
  saved : Bool := false
  /-- The troupe slot of its core's context part that holds it while it is saved (R265, R417). -/
  saveSlot : Nat := 0
  /-- Its SPAD-sized part of the core's scratchpad while it is resident (R264). -/
  part : Nat := 0
  halting : Option HaltWhy := none
  /-- Held for the debugger (R422). -/
  held : Bool := false
  /-- The wait list: expiries waited, when it entered, when it reached 8 quanta (R263). -/
  waited : Nat := 0
  entered : Nat := 0
  reached : Option Nat := none
  residentSince : Nat := 0
  blockedSince : Option Nat := none
  spad : Tab Byte := []
  spadPoison : List Nat := []
  /-- Those of them where the scratchpad's own storage has failed its check (R340); the others came from memory. -/
  spadOwn : List Nat := []
  tags : Tab Nat := []
  /-- Entries of each queue, oldest first, each a table of the words of the lane positions (R39). -/
  queues : Tab (List (Tab Word32)) := []
  takesOn : Bool := false
  tkc : Nat := 0
  rollbacks : Nat := 0
  take : Option Take := none
  /-- The take buffer of its core's part that the next take is written to (R336, R417). -/
  takeBuf : Nat := 0
  hold : List HeldStore := []
  /-- The group whose operation asks for a take; the group whose forcing operation has had its first take; the groups
  that wait for their second take (R337). -/
  takeFor : Option Nat := none
  forced : Option Nat := none
  secondTakes : List Nat := []
  /-- A take has been captured, and the stores that it has released are on their way (R337). -/
  landing : Bool := false
  /-- Arrivals at booth and ring barriers since the last take (R338): group, address of the `BAR`, barrier instance and
  phase. -/
  arrivals : List (Nat × Nat × Nat × Nat) := []
  /-- After a rollback, those of them whose `BAR` has not been reached again. -/
  replay : List (Nat × Nat × Nat × Nat) := []
  /-- The quantum timer has chosen it while it halts for a take or a rollback: it is saved after that (R270). -/
  saveDue : Bool := false
  deriving DecidableEq, Repr

/-! ## Launches -/

/-- The header fields of a kernel object that the hardware uses (R112). -/
structure Header where
  w : Nat
  r : Nat
  p : Nat
  spad : Nat
  twin : Bool
  grps : Nat
  taken : Nat
  bw : Nat
  bh : Nat
  entry : Nat
  scodeOff : Nat
  scodeSize : Nat
  lcodeOff : Nat
  lcodeSize : Nat
  constOff : Nat
  constSize : Nat
  dataOff : Nat
  dataSize : Nat
  gbar : Nat
  /-- Member masks of troupe, booth and ring barriers (R310), and the queues' producers and consumers (R317). -/
  tbar : Tab Nat
  bbar : Tab Nat
  rbar : Tab Nat
  qprod : Tab Nat
  qcons : Tab Nat
  deriving DecidableEq, Repr

/-- A launch that has been taken (R260, R381, R383). -/
structure Launch where
  world : Nat
  seq : Nat
  queue : Nat
  obj : Nat
  args : Word64
  cpl : Nat
  micro : Bool
  rw : Nat
  rh : Nat
  rz : Nat
  onamed : Bool
  ox : Nat
  oy : Nat
  serial : Bool
  slice : Nat
  hoff : Nat
  tag : Nat
  hdr : Option Header := none
  taken : Nat
  placed : Bool := false
  /-- The record's completion has been written, or replaced by a log entry. -/
  past : Bool := false
  /-- Nothing of the launch is left to run: status, END and CLASS are final. -/
  ended : Bool := false
  status : Nat := 0
  endc : Nat := 0
  cls : Nat := 0
  failed : Bool := false
  /-- Its ring is frozen by PREEMPT or by a layout change (R404, R405, R419), or by a heartbeat expiry (R406). -/
  frozen : Bool := false
  beat : Bool := false
  /-- The deadlocked set that the last walk reported or found unchanged: each group, with its object and OBJID (R322). -/
  reported : List (Nat × Nat × Nat) := []
  /-- Stopped for the debugger (R422). -/
  stopped : Bool := false
  /-- The address of the launch unit's access that waits for a service; one that has been refused (R438). -/
  asked : Nat := 0
  denied : Option Nat := none
  deriving DecidableEq, Repr

/-! ## Cores -/

/-- A sector of 64 bytes in an L1, a constant cache, an L2 or a turnstile (R276, R279, R280, R294). -/
structure Sector where
  world : Nat
  bytes : Tab Byte
  dirty : Mask := 0
  poison : Mask := 0
  /-- L1: which of the dirty bytes a store of CORE scope or wider wrote, and which one of BOOTH scope: its tag is the
  widest scope of the dirty bytes (R276). -/
  atCore : Mask := 0
  atBooth : Mask := 0
  /-- L1: bytes that it does not hold, of a sector of peer memory that only stores have filled (R277). -/
  lack : Mask := 0
  /-- Turnstile: order of last use (R319). -/
  tag : Nat := 0
  /-- L2 and turnstile: the nonce F ‖ n of the packet that filled or wrote the sector, with which its ciphertext and tag
  are made (R398). -/
  nonce : Nat := 0
  deriving DecidableEq, Repr

/-- A store on its way home, in the core's write buffer (R277): its group and access, and the bytes of one lane. The
write-back of an L1 sector to peer memory, and a held store that a take has released, are on their way there too. -/
structure WEntry where
  gid : Nat
  aid : Nat
  lane : Nat
  world : Nat
  pa : Nat
  bytes : List Byte
  /-- Bytes that a BOOTH store left dirty in the L1 too. -/
  booth : Bool
  /-- 0, a group's store; 1, a write-back of L1 sector `aid` of core `gid`, with 2000 added to the byte's place; 2, store
  `aid` of those that a take of the troupe of group `gid` has released, as lane 1000. -/
  side : Nat := 0
  poison : Bool := false
  /-- The scopes, BOOTH and DIE, at which the order of its instance holds though its home does not have it yet (R287). -/
  seen : List Scope := []
  deriving DecidableEq, Repr

/-- A cached translation of a 64 KiB page (R302). -/
structure TlbEntry where
  world : Nat
  vpn : Nat
  frame : Nat
  w : Bool
  x : Bool
  deriving DecidableEq, Repr

/-- The rows that one half gives a matrix form (R203, R209): which lanes issue, the FMT of its run, the A registers
with the scale and the C registers as they stood at issue (key 64 * index + lane), and, once B has been read, the values
to write (the same key), the flags, and the lanes that died of poison. -/
structure ArrayRows where
  gid : Nat
  active : Mask
  fmt : Word32
  a : Tab Word32
  c : Tab Word32
  writes : Tab Word32 := []
  flags : Word32 := 0
  /-- The half's run, its latch and the number of its next access, as they stood before the form issued (R335). -/
  run : Option Run := none
  latch : Option Latch := none
  aid : Nat := 0
  deriving DecidableEq, Repr

/-- A matrix form in a quarter's term array (R206, R207, R269). -/
structure ArrayForm where
  gid : Nat
  /-- The double's key in a converged `MMAT`. -/
  other : Option Nat := none
  vd : Nat
  n : Nat
  acls : ACls
  /-- B offset and layout word (R201). -/
  baddr : Nat
  layout : Nat
  /-- The rows of the issuing half, and of the double in a converged `MMAT`. -/
  rows : List ArrayRows
  /-- Rows that a pass counts before those of the second half, and the capacity (R80). -/
  w : Nat
  /-- An `MMAT` executed by a half of a split pair (R207). -/
  unshared : Bool := false
  addr : Nat
  /-- Its reads of B have completed (R206). -/
  reads : Bool := false
  /-- What completion adds to the counters of R207. -/
  terms : List Nat := []
  deriving DecidableEq, Repr

/-- The stream of rushes of a core (R426, R427). -/
structure Trace where
  bytes : List Byte := []
  base : Nat := 0
  written : Nat := 0
  time : Nat := 0
  drops : Nat := 0
  /-- Drops since the previous SYNC. -/
  syncDrops : Nat := 0
  /-- After a LOSS: the stream is filled up to the next 4 KiB boundary. -/
  pad : Bool := false
  /-- Last reported stall reason of each group. -/
  stalls : Tab Nat := []
  /-- Events of the present cycle: the group's key (troupe depth, GRPID, half), TYPE and payload. -/
  pend : List (Nat × Nat × Nat) := []
  deriving DecidableEq, Repr

/-- A compute core (R13 to R15). -/
structure Core where
  owner : Option Nat := none
  clockBase : Nat := 0
  /-- The scratchpad split: bytes set when the first troupe of a launch became resident (R264). -/
  split : Nat := 0
  waitList : List Nat := []
  /-- Occupied group slots: key 16 * quarter + slot, the group's key (R57, R266). -/
  slots : Tab Nat := []
  /-- Key 5 * quarter + index: TERMS_DONE to TWIN_UNSHARED (R46, R207). -/
  terms : Tab Word64 := []
  arrays : Tab (Option ArrayForm) := []
  /-- Halves whose matrix words reached a quarter's busy array, in order (R269). -/
  arrayq : Tab (List Nat) := []
  /-- The slot of the group that each quarter's scalar unit chose last (R269). -/
  rr : Tab Nat := []
  l1 : Tab Sector := []
  wbuf : List WEntry := []
  ccache : Tab Sector := []
  /-- Cached instruction words by physical address of a 64-byte line (R309). -/
  icache : Tab Sector := []
  tlb : List TlbEntry := []
  lastExpiry : Nat := 0
  /-- The quantum in cycles that runs since the last expiry, once there has been one: a changed one counts from the next
  (R270, R419). -/
  period : Option Nat := none
  trace : Trace := {}
  deriving DecidableEq, Repr

/-! ## Slices and base-die cores -/

/-- A message of a mailbox (R254): its two words and meta word, the sender, its key identifier. -/
structure Msg where
  w0 : Word64
  w1 : Word64
  info : Word64
  gid : Nat
  seq : Nat
  deriving DecidableEq, Repr

/-- A BSU (R243): registers, row buffer, open row. Register key 1024 * register + byte. -/
structure Bsu where
  regs : Tab Byte := []
  rowbuf : Tab Byte := []
  openRow : Option Nat := none
  dirty : Bool := false
  deriving DecidableEq, Repr

/-- A bank run in progress (R246): BRUN's destination and control word, the next word, what has ended. -/
structure BankRun where
  dest : Nat
  mask : Nat
  rbase : Nat
  lbase : Nat
  fmt : Word32
  next : Nat
  counted : Nat := 0
  stopped : Nat := 0
  /-- Stop cause by bank (R253). -/
  causes : Tab Nat := []
  flags : Nat := 0
  xmiss : Bool := false
  /-- The word with E has issued: the BSUs close their rows. -/
  ended : Bool := false
  /-- A word failed its checks: class, cause and TVAL of the trap that `BRUN` raises (R247). -/
  trap : Option TrapInfo := none
  deriving DecidableEq, Repr

/-- A base-die core (R238, R240). -/
structure Bdc where
  /-- The launch it runs. -/
  lid : Option Nat := none
  sregs : Tab Word64 := []
  pc : Nat := 0
  fmt : Word32 := 0
  fflags : Word32 := 0
  tcause : Word32 := 0
  tepc : Nat := 0
  tval : Word64 := 0
  scodeBase : Nat := 0
  scode : Tab Byte := []
  scodeSize : Nat := 0
  lcodeBase : Nat := 0
  lcode : Tab Byte := []
  lcodeSize : Nat := 0
  konst : Tab Byte := []
  constBase : Nat := 0
  constSize : Nat := 0
  store : Tab Byte := []
  mbx : List Msg := []
  opened : List Msg := []
  brun : Option BankRun := none
  wait : Option WaitOn := none
  halted : Bool := false
  clockBase : Nat := 0
  deriving DecidableEq, Repr

/-- The contained-error record of a slice (R415). -/
structure ErrRec where
  cause : Nat := 0
  bank : Nat := 0
  row : Nat := 0
  keyid : Nat := 0
  world : Nat := 0
  count : Nat := 0
  tval : Word64 := 0
  trapCause : Nat := 0
  deriving DecidableEq, Repr

/-- A slice (R17, R412 to R415). -/
structure Slice where
  owner : Option Nat := none
  scrubbed : Bool := true
  /-- The generation of the keys under which the slice was initialised when it was assigned (R394, R412). -/
  sealGen : Nat := 0
  exposed : Bool := false
  /-- What migrations have added to the counter of every row (R413). -/
  lift : Nat := 0
  /-- The counters of its tree (R396): of the rows as the level-1 nodes hold them, of the nodes in their parents, and of
  the root, which is on chip. -/
  nodes : Tab Nat := []
  /-- The metadata key under which the nodes are tagged (R396): the number of its drawing; none before the slice is
  assigned and after its scrub. -/
  metaKey : Option Nat := none
  /-- The owner that it left had its scrubs assisted by the host (R384, R414). -/
  hostScrub : Bool := false
  /-- The bytes of each 64-byte sector into which world 0 has written the zero image, of a host-assisted scrub (R414). -/
  zeroed : Tab Mask := []
  /-- Migration source: read-only, then forwarding to a destination (R413). -/
  readOnly : Bool := false
  dest : Option Nat := none
  forward : Bool := false
  err : ErrRec := {}
  bsus : Tab Bsu := []
  core : Bdc := {}
  deriving DecidableEq, Repr

/-- The sideband of a DRAM row beyond the slice's default (R19, R394): counter, the key it is sealed under, whether
its tag holds and its data can be corrected. -/
structure RowMeta where
  counter : Nat := 1
  /-- Which keys sealed it, by their generation; none: those under which the slice was initialised. -/
  sealKey : Option Nat := none
  tagBad : Bool := false
  uncorr : Bool := false
  deriving DecidableEq, Repr

/-- A node of a counter tree in a stack's metadata cache, verified (R396, R397). -/
structure MetaNode where
  slice : Nat
  level : Nat
  num : Nat
  /-- It is to be written back before it leaves the cache. -/
  dirty : Bool := false
  deriving DecidableEq, Repr

/-- A key slot of a stack's key store (R389): the world it is bound to and the number of its secrets' generation. -/
structure KeySlot where
  world : Nat
  /-- Which drawing or unwrapping of SK, MK and TS it holds; 0 after ZEROISE. -/
  gen : Nat
  skey : Nat
  mkey : Nat
  tsec : Nat
  deriving DecidableEq, Repr

/-! ## Worlds -/

/-- A ring in memory written by the device: launch queues, error log, fault queue (R379, R439). -/
structure RingCfg where
  base : Nat := 0
  depth : Nat := 0
  err : Bool := false
  loc : Bool := false
  en : Bool := false
  head : Word32 := 0
  tail : Word32 := 0
  deriving DecidableEq, Repr

/-- A core rectangle (R26). -/
structure Rect where
  x : Nat
  y : Nat
  w : Nat
  h : Nat
  deriving DecidableEq, Repr

/-- An area of a world's memory (R417); `cores` is the division of a context or take area, in order. -/
structure Area where
  base : Nat
  bytes : Nat
  cores : List Nat := []
  deriving DecidableEq, Repr

/-- What faults: a group's lane access, a fetch, an engine command, the launch unit (R303, R385, R438). -/
inductive Faulter where
  | access (gid aid lane : Nat)
  | fetch (gid : Nat) (lane : Bool)
  | engine (gid : Nat) (path : Nat) (seq : Nat)
  | launch (lid : Nat)
  | slot (queue : Nat)
  deriving DecidableEq, Repr

/-- An outstanding replayable fault, one for each 64 KiB page (R304, R385). -/
structure FaultRec where
  page : Nat
  /-- The address of the first faulting access, and the 24-bit field that names it (R385). -/
  va : Nat := 0
  desc : Nat := 0
  kind : Nat
  who : List Faulter
  seq : Nat
  /-- Written to the fault queue (host-assisted mode); a record that could not be written is held (R439). -/
  posted : Bool := false
  deriving DecidableEq, Repr

/-- A member of a communicator (R418). -/
structure CommMember where
  port : Nat
  trp : Nat
  grpid : Nat
  deriving DecidableEq, Repr

/-- A communicator entry (R388, R418). -/
structure Comm where
  own : Nat
  members : List CommMember
  deriving DecidableEq, Repr

/-- An aperture (R418): outbound base and size with the remote number, or inbound first map index and count. -/
structure Aperture where
  port : Nat
  a : Nat
  b : Nat
  remote : Nat
  deriving DecidableEq, Repr

/-- States of the TDISP interface (R404). -/
inductive Tdisp where
  | unlocked
  | locked
  | run
  | error
  deriving DecidableEq, Repr

/-- The SPDM session and negotiation of a function (R402, R406). -/
structure Session where
  version : Bool := false
  capabilities : Bool := false
  algorithms : Bool := false
  /-- KEY_EXCHANGE done, waiting for FINISH. -/
  handshake : Bool := false
  opened : Bool := false
  period : Nat := 10
  share : Nat := 0
  keyGen : Nat := 0
  /-- LOCKGEN bound by START_INTERFACE (R404). -/
  bound : Option Nat := none
  lastBeat : Nat := 0
  /-- Frozen by a heartbeat expiry: the grace period runs from this cycle (R406). -/
  grace : Option Nat := none
  deriving DecidableEq, Repr

/-- The debug, trace and rehearsal registers of a world (R421, R426, R428, R429). -/
structure Debug where
  attach : Bool := false
  launch : Nat := 0
  err : Nat := 0
  data : Word64 := 0
  /-- STEP in progress (R425): the launch, the barrier's level and number; and the phase of each of its instances that is
  to complete. -/
  step : Option (Nat × Nat × Nat) := none
  stepPhases : Tab Nat := []
  /-- The cycle of the last STOP (R422). -/
  stopAt : Nat := 0
  trctl : Nat := 0
  trbase : Nat := 0
  trsz : Nat := 0
  consumed : Tab Word64 := []
  rhEn : Bool := false
  rhD : Nat := 0
  rhLo : Word64 := 0
  rhHi : Word64 := 0
  points : Tab Word64 := []
  rhStart : Nat := 0
  hits : Tab Word64 := []
  cycs : Tab Word64 := []
  inserted : Word64 := 0
  deriving DecidableEq, Repr

/-- A world (R24, R25, R410). -/
structure World where
  present : Bool := false
  rects : List Rect := []
  /-- Slice of each map index (R412). -/
  slices : List Nat := []
  l2gran : Tab Nat := []
  fshare : Nat := 0
  lending : Bool := false
  tshare : Nat := 0
  keyid : Option Nat := none
  handles : Tab (BitVec 16) := []
  quantum : Nat := 20
  policy : Bool := false
  modes : BitVec 8 := 0
  route : BitVec 16 := 0
  /-- Areas by kind: 0 context, 1 take, 2 overflow, 3 free-frame pool, 4 table root (R417). -/
  areas : Tab (Option Area) := []
  lqs : Tab RingCfg := []
  el : RingCfg := {}
  ellost : Word32 := 0
  fq : RingCfg := {}
  faults : List FaultRec := []
  faultSeq : Nat := 0
  latch : Word64 := 0
  /-- Counters by index: PIPEERR 0 to CONTAINED 8 (R430). -/
  counters : Tab Word64 := []
  launchSeq : Nat := 0
  comms : Tab (Option Comm) := []
  apOut : Tab (Option Aperture) := []
  apIn : Tab (Option Aperture) := []
  tdisp : Tdisp := .unlocked
  lockgen : Nat := 0
  /-- The layout record, while it is frozen (R404). -/
  record : Option (List Nat) := none
  session : Session := {}
  epoch : Nat := 0
  flows : Tab Nat := []
  /-- Packets that have been sent again after a tag failure (R399): flow and sector. -/
  resent : List (Nat × Nat) := []
  dbg : Debug := {}
  /-- Fault pool: frames already taken from its list (R384). -/
  poolUsed : Nat := 0
  /-- A DESTROY past its first step (R410, R431). -/
  destroying : Bool := false
  deriving DecidableEq, Repr

/-- A request that waits in a turnstile's queue (R319): whose access and lane, and whether it lies in the world's overflow
area. -/
structure TurnReq where
  gid : Nat
  aid : Nat
  lane : Nat
  inArea : Bool := false
  deriving DecidableEq, Repr

/-- What the physical environment does to the machine: events that no instruction makes. -/
inductive Upset where
  /-- A residue checker mismatch in a group's unit (R335): 1 its term array, 2 the scalar unit, else the unit of its lane
  word. -/
  | pipeline (gid unit : Nat)
  /-- A residue checker mismatch in the scalar unit of a slice's base-die core, or in one of its BSUs (R335). -/
  | baseUnit (slice : Nat)
  | bsuUnit (slice bank : Nat)
  /-- A bridge of the fabric or of a die edge sends a flit again (R431). -/
  | fabricRetry
  /-- Uncorrectable data in a register of a lane: file 0 vector, 1 scalar, 2 predicate (R339). -/
  | register (gid file num lane : Nat)
  /-- Uncorrectable data in a byte of a troupe's scratchpad (R339, R340). -/
  | spad (tid off : Nat)
  /-- Uncorrectable data in a DRAM row (R253, R339). -/
  | row (pa : Nat)
  /-- A row whose tag no longer holds (R395). -/
  | tag (pa : Nat)
  /-- A node of a slice's counter tree that fails its check (R397). -/
  | tree (slice level num : Nat)
  /-- Poisoned bytes in a sector of an L2 (R339). -/
  | l2 (pa : Nat)
  /-- A corrected error in a world's rows, granules or SRAM (R430 CORRECTED). -/
  | corrected (world : Nat)
  /-- An L1, constant-cache, instruction-cache, TLB or L2 sector is replaced (R276, R278, R280). -/
  | evictL1 (core sector : Nat)
  | evictConst (core sector : Nat)
  | evictCode (core line : Nat)
  | evictTlb (core vpn : Nat)
  | evictL2 (sector : Nat)
  /-- A turnstile writes back the world's least recently used sector (R319). -/
  | evictTurn (sector : Nat)
  /-- The host writes its own memory (R379, R391, R418). -/
  | hostWrite (addr : Nat) (bytes : List Byte)
  /-- The next CXL.io access of the device to an entry at a host address completes with an error (R438, R439). -/
  | hostError (addr : Nat)
  /-- An order at BOOTH or DIE no longer waits for a store on its way: accesses of the writer's instance wait instead until
  its home has it (R287). -/
  | seen (gid aid lane : Nat) (die : Bool)
  /-- The MTX path reads the scratchpad ahead of the group's next matrix forms (R284). -/
  | ahead (gid : Nat)
  /-- A node leaves the metadata cache of a stack (R397). -/
  | evictNode (slice level num : Nat)
  /-- A row and its sideband are replaced in DRAM by an older state of the row, with that counter (R397). -/
  | replay (pa counter : Nat)
  /-- The store of the firmware is damaged (R401). -/
  | firmware
  /-- A turnstile takes the request of an atomic that waits behind earlier ones to its sector into its queue (R319). -/
  | request (gid aid lane : Nat)
  deriving DecidableEq, Repr

/-- What happens next, in the model's agenda. -/
inductive Item where
  /-- A stream issues its next word: the scalar stream or the lane stream of an agent (for a base-die core, the
  lane stream is its bank run). -/
  | issue (a : Agent) (lane : Bool)
  /-- A quarter's scalar unit chooses a group, in its rotation, which issues its next scalar instruction (R269). -/
  | rotate (core quarter : Nat)
  /-- An event or command of the opcode table happens. -/
  | act (i : Instr)
  /-- A request of the host to a register happens, with the TDISP trusted attribute (R404). -/
  | trusted (i : Instr)
  /-- Cycles of the 1.2 GHz clock pass. -/
  | tick (n : Nat)
  | upset (u : Upset)
  /-- The engine that runs a started command of a group moves up to `n` words of its destination, from position `idx`
  on (R224). -/
  | move (gid : Nat) (p : Path) (seq idx n : Nat)
  /-- The world command that is running completes, if its conditions hold (R408, R409). -/
  | finish
  deriving DecidableEq, Repr

/-- The firmware of the module (R401, R434, R435): its image, none for the one with which the module is shipped, and its
security version. -/
structure Firmware where
  image : Option (List Byte) := none
  version : Nat := 0
  deriving DecidableEq, Repr

/-- The command interfaces of world 0's window (R390, R408, R434). -/
structure Cmdif where
  warg0 : Word64 := 0
  warg1 : Word64 := 0
  warg2 : Word64 := 0
  wok : Bool := false
  werr : Nat := 0
  wbusy : Bool := false
  /-- The command that is running (R408), when its effect needs more than one step; its arguments as they stood when it
  was written; the slice whose scrub it waits for. -/
  wpend : Option Instr := none
  p0 : Word64 := 0
  p1 : Word64 := 0
  p2 : Word64 := 0
  wslice : Option Nat := none
  karg : Word64 := 0
  kok : Bool := false
  kerr : Nat := 0
  kbusy : Bool := false
  kpend : Option Instr := none
  /-- Accesses of groups that a running TLB invalidate waits for, and troupes whose held stores it waits for (R306). -/
  wmark : List (Nat × Nat) := []
  wtroupes : List Nat := []
  /-- Engine commands that a running instruction-fetch invalidate waits for: group, number (R309). -/
  wcmds : List (Nat × Nat) := []
  fwaddr : Word64 := 0
  fwlen : Word32 := 0
  fwok : Bool := false
  fwerr : Nat := 0
  deriving DecidableEq, Repr

/-- The whole device. -/
structure State where
  /-- Cycles of the 1.2 GHz clock (R3). -/
  now : Nat := 0
  /-- The model's own schedule: what happens next; empty, the stream `cur` issues. -/
  agenda : List Item := []
  /-- The model's own choice of the stream that is executing. -/
  cur : Agent := .none
  curLane : Bool := false
  /-- The model's own counter behind free values. -/
  free : Nat := 0
  worlds : Tab World := []
  launches : Tab Launch := []
  nextLid : Nat := 0
  /-- The world that each launch unit served last (R16, R260). -/
  rrWorld : Tab Nat := []
  troupes : Tab Troupe := []
  nextTid : Nat := 0
  groups : Tab Group := []
  cores : Tab Core := []
  slices : Tab Slice := []
  keys : Tab KeySlot := []
  keyGen : Nat := 0
  mem : List Host.Cell := []
  rows : Tab RowMeta := []
  /-- Nodes of counter trees, as slice, level and number, whose copy in DRAM does not pass its check; those that have
  been recorded (R397). -/
  treeBad : List (Nat × Nat × Nat) := []
  treeFailed : List (Nat × Nat × Nat) := []
  /-- The metadata cache of each stack, newest node first (R19, R397). -/
  metaCache : Tab (List MetaNode) := []
  /-- Writes of engines to memory of peer devices that have not been acknowledged: `aid` is 8 times the command's number and
  its path code, `lane` the address (R286). -/
  engineOut : List WEntry := []
  /-- Data on its way whose packet has failed its check twice (R399): flow and sector. -/
  spoiled : List (Nat × Nat) := []
  l2 : Tab Sector := []
  turn : Tab Sector := []
  turnUse : Nat := 0
  /-- Requests that wait in the turnstiles' queues, oldest first (R319). -/
  turnq : List TurnReq := []
  barriers : Tab Barrier := []
  dieTlb : Tab (List TlbEntry) := []
  homePoison : List Nat := []
  hostMem : List Host.Cell := []
  /-- Host addresses whose next access by the device completes with an error (R438, R439): the environment's. -/
  hostFails : List Nat := []
  bus : Nat := 0
  /-- Error-log entries and completion-independent records not yet written to their rings: world, bytes (R387). -/
  logPend : List (Nat × List Byte) := []
  qcount : Nat := 0
  /-- What was in flight at the last rise of QCOUNT and has not completed or been withdrawn since: the numbers that
  `State.inFlight` gives accesses, commands and faults. -/
  qmark : List (Nat × Nat) := []
  cmdif : Cmdif := {}
  fwStaged : Option Firmware := none
  fwRunning : Firmware := {}
  /-- The store of the firmware has been damaged since it was written: its signature no longer verifies (R401). -/
  fwBad : Bool := false
  /-- The last boot has not failed: the host port presents its functions (R401). -/
  booted : Bool := true
  /-- The boot ROM has locked the unique device secret (R401). -/
  udsLocked : Bool := true
  /-- FABRETRY 0 to THERMWARN 5 (R431). -/
  shared : Tab Word64 := []
  ideIo : Option Nat := none
  ideMem : Option Nat := none
  deriving DecidableEq, Repr

/-- Why a step stops with a fault. -/
inductive Fault where
  /-- Raised by an instruction word when no stream of the kind that runs it is executing (`State.cur` names no
  group, no base-die core, or one that does not exist): there is then no register for it to act on. Safe: the
  hardware has no such step. -/
  | noStream
  deriving DecidableEq, Repr

/-- Why a step is refused. -/
inductive Refusal where
  /-- Raised by an arm of `exec` for an instruction that has no meaning yet, with its mnemonic. Safe: nothing is
  claimed of it. -/
  | notModelled (mnemonic : String)
  deriving DecidableEq, Repr

/-- The outcome type of the machine. -/
abbrev Out := Host.Outcome State Fault Refusal

/-- The handle table at reset (R311): handles 0 to 3 name group barriers, 4 to 19 troupe barriers, 20 to 27 booth
barriers, 28 to 31 ring barriers, all valid. -/
def resetHandle (h : Nat) : BitVec 16 :=
  if h < 4 then BitVec.ofNat 16 (0x8000 + 512 * h)
  else if h < 20 then BitVec.ofNat 16 (0x8000 + 0x2000 + 512 * (h - 4))
  else if h < 28 then BitVec.ofNat 16 (0x8000 + 0x4000 + 512 * (h - 20))
  else BitVec.ofNat 16 (0x8000 + 0x6000 + 512 * (h - 28))

/-- The handle table at reset, as the table of its 32 entries (R311). -/
def resetHandles : Tab (BitVec 16) := (List.range 32).map (fun h => (h, resetHandle h))

/-- The module right after reset (R401, R435): world 0 alone, holding key identifier 0 (R389), with its registers at
their reset values; no guest world, no launch, no memory written. -/
def State.reset : State :=
  { worlds := [(0, { present := true, keyid := some 0, handles := resetHandles })]
    keys := (List.range 8).map (fun st => (512 * st, { world := 0, gen := 0, skey := 0, mkey := 0, tsec := 0 })) }

end Sys2Proof.Machine
end

