-- ==== Sys2Proof/Machine/Ops.lean ====
section
/-! DEFINITION. The named operations over the device's parts: finding and changing worlds, launches, troupes, groups,
cores and slices; scalar registers, PC and masks of a stream; the geometry of the package (spec/01_machine.md R13 to
R33); waits (R116); counters and log entries (spec/19_host.md R386, R387; spec/23_fleet.md R430, R431). -/

namespace Sys2Proof.Machine

/-! ## Parts of the device -/

/-- A troupe that no launch has, for a number that names none. -/
def noTroupe : Troupe := { lid := 0, x := 0, y := 0, z := 0, core := 0, retired := true }

/-- A launch for a number that names none. -/
def noLaunch : Launch :=
  { world := 0, seq := 0, queue := 0, obj := 0, args := 0, cpl := 0, micro := false, rw := 0, rh := 0, rz := 0,
    onamed := false, ox := 0, oy := 0, serial := false, slice := 0, hoff := 0, tag := 0, taken := 0, past := true,
    ended := true }

/-- A group for a key that names none. -/
def noGroup : Group :=
  { tid := 0, grpid := 0, w := 16, r := 16, p := 8, quarter := 0, pc := 0, exm := 0, dither := 0 }

/-- A header of which every field is zero, for a launch whose header has not been read. -/
def noHeader : Header :=
  { w := 16, r := 16, p := 8, spad := 0, twin := false, grps := 1, taken := 0, bw := 1, bh := 1, entry := 0,
    scodeOff := 0, scodeSize := 0, lcodeOff := 0, lcodeSize := 0, constOff := 0, constSize := 0, dataOff := 0,
    dataSize := 0, gbar := 0, tbar := [], bbar := [], rbar := [], qprod := [], qcons := [] }

/-- World `w`. -/
def State.world (s : State) (w : Nat) : World := tabGet {} s.worlds w
/-- Replace world `w`. -/
def State.setWorld (s : State) (w : Nat) (v : World) : State := { s with worlds := tabSet {} s.worlds w v }
/-- Change world `w`. -/
def State.modWorld (s : State) (w : Nat) (f : World → World) : State := s.setWorld w (f (s.world w))
/-- Launch `lid`. -/
def State.launch (s : State) (lid : Nat) : Launch := tabGet noLaunch s.launches lid
/-- Change a launch that exists. -/
def State.modLaunch (s : State) (lid : Nat) (f : Launch → Launch) : State :=
  { s with launches := tabModify s.launches lid f }
/-- Troupe `tid`. -/
def State.troupe (s : State) (tid : Nat) : Troupe := tabGet noTroupe s.troupes tid
/-- Change a troupe that exists. -/
def State.modTroupe (s : State) (tid : Nat) (f : Troupe → Troupe) : State :=
  { s with troupes := tabModify s.troupes tid f }
/-- The group with key `gid`. -/
def State.group (s : State) (gid : Nat) : Group := tabGet noGroup s.groups gid
/-- Does a group with this key exist and run? -/
def State.live (s : State) (gid : Nat) : Bool :=
  (tabFind s.groups gid).isSome
/-- Change a group that exists. -/
def State.modGroup (s : State) (gid : Nat) (f : Group → Group) : State :=
  { s with groups := tabModify s.groups gid f }
/-- Core `c`. -/
def State.core (s : State) (c : Nat) : Core := tabGet {} s.cores c
/-- Change core `c`. -/
def State.modCore (s : State) (c : Nat) (f : Core → Core) : State :=
  { s with cores := tabSet {} s.cores c (f (s.core c)) }
/-- Slice `i`. -/
def State.slice (s : State) (i : Nat) : Slice := tabGet {} s.slices i
/-- Change slice `i`. -/
def State.modSlice (s : State) (i : Nat) (f : Slice → Slice) : State :=
  { s with slices := tabSet {} s.slices i (f (s.slice i)) }
/-- The base-die core of slice `i`. -/
def State.bdc (s : State) (i : Nat) : Bdc := (s.slice i).core
/-- Change the base-die core of slice `i`. -/
def State.modBdc (s : State) (i : Nat) (f : Bdc → Bdc) : State :=
  s.modSlice i (fun v => { v with core := f v.core })

/-- The launch of a group. -/
def State.launchOf (s : State) (gid : Nat) : Launch := s.launch (s.troupe (s.group gid).tid).lid
/-- The header of a group's kernel. -/
def State.headerOf (s : State) (gid : Nat) : Header := (s.launchOf gid).hdr.getD noHeader
/-- The world of a group. -/
def State.worldOf (s : State) (gid : Nat) : Nat := (s.launchOf gid).world
/-- The core of a group. -/
def State.coreOf (s : State) (gid : Nat) : Nat := (s.troupe (s.group gid).tid).core

/-- Is the ring of a launch frozen (R404, R406, R419)? In ERROR every ring of the world is. -/
def State.frozenRing (s : State) (l : Launch) : Bool :=
  l.frozen || l.beat || decide ((s.world l.world).tdisp = .error)

/-- A free number: the counter behind free values advances. -/
def State.bumpFree (s : State) : State := { s with free := s.free + 1 }

/-! ## Geometry (R13, R14, R17, R407) -/

/-- Coordinates of a core key. -/
def coreX (c : Nat) : Nat := c % 32
/-- Coordinates of a core key. -/
def coreY (c : Nat) : Nat := c / 32
/-- The key of the core at (x, y). -/
def coreAt (x y : Nat) : Nat := x + 32 * y
/-- The die of a core (R13). -/
def coreDie (c : Nat) : Nat := coreX c / 16 + 2 * (coreY c / 14)
/-- The cluster number of a core (R398). -/
def coreCluster (c : Nat) : Nat := coreX c / 2 + 16 * (coreY c / 2)
/-- Bytes of a slice (R17). -/
def sliceBytes : Nat := 0x60000000
/-- The slice of a device physical address (R407). -/
def sliceOfPa (pa : Nat) : Nat := pa / sliceBytes
/-- Bytes of device memory (R407). -/
def deviceBytes : Nat := 256 * sliceBytes
/-- The first physical address of peer apertures (R407). -/
def peerBase : Nat := 2 ^ 40
/-- The stack of a slice (R17). -/
def sliceStack (sl : Nat) : Nat := sl / 32
/-- The compute die whose L2 caches an address (R17, R18). -/
def dieOfPa (pa : Nat) : Nat := sliceStack (sliceOfPa pa) / 2
/-- The bank of a byte of a slice, and its row (R242). -/
def bankOf (off : Nat) : Nat := off / 1024 % 16
/-- The row of a byte of a slice (R242). -/
def rowOf (off : Nat) : Nat := off / 16384

/-- The cores of a rectangle, y then x ascending (R421). -/
def rectCores (r : Rect) : List Nat :=
  (List.range r.h).flatMap (fun j => (List.range r.w).map (fun i => coreAt (r.x + i) (r.y + j)))

/-- The cores of a world in the order of R421. -/
def worldCores (w : World) : List Nat := w.rects.flatMap rectCores

/-- The index of a core among its world's cores (R421). -/
def coreIndex (w : World) (c : Nat) : Nat := (worldCores w).findIdx (· == c)

/-- Does a rectangle hold a core? -/
def rectHas (r : Rect) (c : Nat) : Bool :=
  decide (r.x ≤ coreX c) && decide (coreX c < r.x + r.w) && decide (r.y ≤ coreY c) && decide (coreY c < r.y + r.h)

/-! ## Twin pairs (R55) -/

/-- The key of the other half of a pair. -/
def partnerOf (gid : Nat) : Nat := if gid % 2 = 0 then gid + 1 else gid - 1
/-- The key of a pair's lead. -/
def leadOf (gid : Nat) : Nat := gid - gid % 2
/-- Is the group a half of a pair that is converged? -/
def Group.converged (g : Group) : Bool := g.twin && !g.split
/-- Bit HALF of TWINST: 1 for the double (R55). -/
def Group.isDouble (g : Group) : Bool := g.twin && g.grpid % 2 == 1
/-- The group whose scalar context runs for `gid`: the lead's while a pair is converged (R55). -/
def State.ctxOf (s : State) (gid : Nat) : Nat := if (s.group gid).converged then leadOf gid else gid
/-- The groups that a converged pair's scalar instruction acts on; a group alone, or a split half, is by itself. -/
def State.halvesOf (s : State) (gid : Nat) : List Nat :=
  if (s.group gid).converged then [leadOf gid, leadOf gid + 1] else [gid]
/-- The half that HSEL names (R121). -/
def State.hselOf (s : State) (gid : Nat) (hsel : Bool) : Nat :=
  if (s.group gid).converged then leadOf gid + (if hsel then 1 else 0) else gid

/-! ## Masks (R41, R43) -/

/-- ACTIVE(G) under a given EXM (R41, R42). -/
def Group.activeWith (g : Group) (exm : Mask) : Mask := exm &&& ~~~g.deadm
/-- ACTIVE(G) (R41). -/
def Group.active (g : Group) : Mask := g.activeWith g.exm

/-! ## Scalar registers and PC -/

/-- The value of s`r` of a stream (R37). -/
def State.sreg (s : State) (a : Agent) (r : Nat) : Word64 :=
  if r = 0 then 0
  else
    match a with
    | .none => 0
    | .group gid => tabGet 0 (s.group (s.ctxOf gid)).sregs r
    | .bdc sl => tabGet 0 (s.bdc sl).sregs r

/-- Write s`r` of a stream; a write to s0 is discarded (R37). -/
def State.setSreg (s : State) (a : Agent) (r : Nat) (v : Word64) : State :=
  if r = 0 then s
  else
    match a with
    | .none => s
    | .group gid => s.modGroup (s.ctxOf gid) (fun g =>
        { g with
          sregs := tabSet 0 g.sregs r v
          poison := g.poison.filter (fun m => !(m.file == 1 && m.num == r)) })
    | .bdc sl => s.modBdc sl (fun c => { c with sregs := tabSet 0 c.sregs r v })

/-- The PC of a stream. -/
def State.pcOf (s : State) (a : Agent) : Nat :=
  match a with
  | .none => 0
  | .group gid => (s.group (s.ctxOf gid)).pc
  | .bdc sl => (s.bdc sl).pc

/-- Set the PC of a stream; its wait, if any, is over. -/
def State.setPc (s : State) (a : Agent) (pc : Nat) : State :=
  match a with
  | .none => s
  | .group gid => s.modGroup (s.ctxOf gid) (fun g => { g with pc := pc, wait := none })
  | .bdc sl => s.modBdc sl (fun c => { c with pc := pc, wait := none })

/-- Move a stream to its next scalar word. -/
def State.advance (s : State) (a : Agent) : State := s.setPc a (pcNext (s.pcOf a))

/-- The scalar instruction at PC waits: it takes no effect now (R116, R120). -/
def State.waits (s : State) (a : Agent) (w : WaitOn) : State :=
  match a with
  | .none => s
  | .group gid => s.modGroup (s.ctxOf gid) (fun g => { g with wait := some w })
  | .bdc sl => s.modBdc sl (fun c => { c with wait := some w })

/-- The kind of core of a stream (R29). -/
def agentKind : Agent → CoreKind
  | .bdc _ => .base
  | _ => .compute

/-! ## Guards (R38) -/

/-- Guard `k` of a stream: a converged pair has one set, held in the lead's context (R55). -/
def State.guard (s : State) (gid k : Nat) : Guard := tabGet {} (s.group (s.ctxOf gid)).guards k

/-- Change guard `k`. -/
def State.modGuard (s : State) (gid k : Nat) (f : Guard → Guard) : State :=
  s.modGroup (s.ctxOf gid) (fun g => { g with guards := tabSet {} g.guards k (f (tabGet {} g.guards k)) })

/-- An entry queued under a guard leaves: its count falls (R146, R217). -/
def State.dropGuard (s : State) (gid : Nat) (k : Option Nat) : State :=
  match k with
  | some k => s.modGuard gid k (fun g => { g with count := g.count - 1 })
  | none => s

/-- Resolve guard `k` from the votes of a `VGUARD` (R185): `yes`, some lane voted 1; `no`, some voted 0. -/
def State.resolveGuard (s : State) (gid k : Nat) (all yes no : Bool) : State :=
  s.modGuard gid k (fun g => { g with st := if (if all then !no else yes) then .resolvedTrue else .resolvedFalse })

/-- A `VGUARD` that has issued in the lead, whose pair has split since, resolves the lead's own guard (R185, R212). -/
def State.settleVote (s : State) (gid : Nat) : State :=
  match (s.group gid).vote with
  | some (k, all, yes, no) =>
    (s.resolveGuard gid k all yes no).modGroup gid (fun g => { g with vote := none })
  | none => s

/-! ## In-flight counters (R53) -/

/-- The code of a path (R282). -/
def pathCode : Path → Nat
  | .ls => 0
  | .const => 1
  | .mtx => 2
  | .copy => 3
  | .gath => 4
  | .coll => 5
  | .bank => 6
  | .atom => 7

/-- The counter of a path. -/
def Group.count (g : Group) (p : Path) : Nat := tabGet 0 g.ifc (pathCode p)

/-- Raise or lower the counter of a path. -/
def Group.addCount (g : Group) (p : Path) (d : Int) : Group :=
  { g with ifc := tabSet 0 g.ifc (pathCode p) ((g.count p : Int) + d).toNat }

/-! ## Flags (R48) -/

/-- OR flags into a group's FFLAGS. -/
def Group.orFlags (g : Group) (f : Word32) : Group := { g with fflags := g.fflags ||| f }

/-! ## Counters and log entries -/

/-- Error counters of a world by index (R430). -/
def cPipeerr : Nat := 0
/-- ROLLBACK. -/
def cRollback : Nat := 1
/-- LANEDEATH. -/
def cLanedeath : Nat := 2
/-- UNCORR. -/
def cUncorr : Nat := 3
/-- TAGFAIL. -/
def cTagfail : Nat := 4
/-- TREEFAIL. -/
def cTreefail : Nat := 5
/-- XPORTERR. -/
def cXporterr : Nat := 6
/-- CORRECTED. -/
def cCorrected : Nat := 7
/-- CONTAINED. -/
def cContained : Nat := 8

/-- Count a shared event (R431): FABRETRY 0, PEERCRC 1, HOSTLINK 2, PHYERR 3, UNATTR 4, THERMWARN 5. -/
def State.countShared (s : State) (i : Nat) : State :=
  { s with shared := tabSet 0 s.shared i (tabGet 0 s.shared i + 1) }

/-- Count an event in the world it is attributed to; an event of a world that is not there, or is being destroyed,
counts in UNATTR (R28, R430, R431). -/
def State.countIn (s : State) (w i : Nat) : State :=
  let v := s.world w
  if v.present && !v.destroying then
    s.setWorld w { v with counters := tabSet 0 v.counters i (tabGet 0 v.counters i + 1) }
  else s.countShared 4

/-- Count in a second counter an event that another counts too: outside a world's counters the event counts once (R431). -/
def State.countAlso (s : State) (w i : Nat) : State :=
  if (s.world w).present && !(s.world w).destroying then s.countIn w i else s

/-- Append an entry to the error log of a world: it is written to the log's ring when the step ends (R387, R439). -/
def State.log (s : State) (w : Nat) (entry : Nat) : State :=
  { s with logPend := s.logPend ++ [(w, natBytes 64 entry)] }

/-- The 27-bit name of a group in a log entry (R387). -/
def State.gidBits (s : State) (gid : Nat) : Nat :=
  let g := s.group gid
  let t := s.troupe g.tid
  packBits [(coreIndex (s.world (s.worldOf gid)) t.core % 1024, 0), (t.z, 10), (g.grpid, 12),
    (if g.isDouble then 1 else 0, 16)]

/-- The header that log entries of KIND 0x10, 0x11, 0x13, 0x14, 0x16 and 0x17 share (R387). -/
def State.logHead (s : State) (kind w launch : Nat) : Nat :=
  packBits [(kind, 0), (w, 16), (launch % 2 ^ 32, 32), (s.now % 2 ^ 64, 64)]

/-! ## Outstanding accesses and commands (R53, R217) -/

/-- Drop the accesses of a path that are done and have no earlier one outstanding: the rest, and how many went. -/
def reclaimAccs (p : Path) : Bool → List Access → List Access × Nat
  | _, [] => ([], 0)
  | blocked, a :: l =>
    if a.path = p then
      if a.past && !blocked then
        let r := reclaimAccs p false l
        (r.1, if a.silent then r.2 else r.2 + 1)
      else
        let r := reclaimAccs p true l
        (a :: r.1, r.2)
    else
      let r := reclaimAccs p blocked l
      (a :: r.1, r.2)

/-- Drop the commands of a path that are complete and have no earlier one outstanding: the rest, and how many of those
that went the counter still counts (R226). -/
def reclaimCmds (p : Path) : Bool → List Cmd → List Cmd × Nat
  | _, [] => ([], 0)
  | blocked, c :: l =>
    if c.path = p then
      if c.past && !blocked then
        let r := reclaimCmds p false l
        (r.1, if c.detached then r.2 else r.2 + 1)
      else
        let r := reclaimCmds p true l
        (c :: r.1, r.2)
    else
      let r := reclaimCmds p blocked l
      (c :: r.1, r.2)

/-- The counter of a path falls in the order of issue (R53): done accesses and commands at its front leave. -/
def Group.reclaim (g : Group) (p : Path) : Group :=
  let a := reclaimAccs p false g.accs
  let c := reclaimCmds p false g.engq
  ({ g with accs := a.1, engq := c.1 } : Group).addCount p (-((a.2 + c.2 : Nat) : Int))

/-- Change the access `aid` of a group. -/
def Group.modAcc (g : Group) (aid : Nat) (f : Access → Access) : Group :=
  { g with accs := g.accs.map (fun a => if a.aid = aid then f a else a) }

/-- The access `aid` of a group, if it is outstanding. -/
def Group.acc (g : Group) (aid : Nat) : Option Access := g.accs.find? (fun a => a.aid = aid && !a.past)

/-- The access is done: its counter falls in order (R53). -/
def Group.accOver (g : Group) (aid : Nat) : Group :=
  match g.acc aid with
  | some a => (g.modAcc aid (fun a => { a with past := true })).reclaim a.path
  | none => g

/-- Parked lanes of a withdrawn access leave their fault records. -/
def State.unpark (s : State) (gid aid : Nat) : State :=
  let w := s.worldOf gid
  let mine (f : Faulter) : Bool :=
    match f with
    | .access k i _ => k == gid && i == aid
    | _ => false
  s.modWorld w (fun v =>
    { v with
      faults := (v.faults.map (fun f => { f with who := f.who.filter (fun x => !mine x) })).filter
        (fun f => !f.who.isEmpty || f.posted) })

/-- The oldest entry of each of some queues of a group's troupe leaves (R318). -/
def State.popAll (s : State) (gid : Nat) (qs : List Nat) : State :=
  s.modTroupe (s.group gid).tid (fun t =>
    { t with queues := qs.foldl (fun m q => tabSet [] m q (tabGet [] m q).tail) t.queues })

/-- Take an access back: its counter falls, it leaves its fault records, and it leaves no trace (R131, R193, R327). -/
def State.cancelAccess (s : State) (gid aid : Nat) : State :=
  match (s.group gid).accs.find? (fun a => a.aid == aid) with
  | none => s
  | some a =>
    (s.unpark gid aid).modGroup gid (fun g =>
      ({ g with accs := g.accs.filter (fun a => a.aid != aid) } : Group).addCount a.path (if a.silent then 0 else -1))

/-- A word that waits for the translation of its access is taken back (R120, R193): it issues again later. -/
def State.takeBackWord (s : State) (gid : Nat) (lane : Bool) : State :=
  let g := s.group gid
  match (if lane then g.lwait else g.wait) with
  | some (.trans aid) =>
    (s.cancelAccess gid aid).modGroup gid (fun g => if lane then { g with lwait := none } else { g with wait := none })
  | _ => s

/-- Change the command of a path with sequence number `seq`. -/
def Group.modCmd (g : Group) (p : Path) (seq : Nat) (f : Cmd → Cmd) : Group :=
  { g with engq := g.engq.map (fun c => if c.path = p ∧ c.seq = seq then f c else c) }

/-- The command is complete: its counter falls in order (R53, R217). -/
def Group.cmdOver (g : Group) (p : Path) (seq : Nat) : Group :=
  (g.modCmd p seq (fun c => { c with past := true })).reclaim p

/-! ## Troupes, barriers and retirement (R310 to R316, R135) -/

/-- The keys of a launch's troupes, in the order of their placement. -/
def State.troupesOf (s : State) (lid : Nat) : List Nat :=
  (s.troupes.filter (fun p => p.2.lid == lid)).map (·.1)

/-- The keys of a troupe's groups that have not retired, by GRPID. -/
def State.groupsOf (s : State) (tid : Nat) : List Nat :=
  ((List.range 16).map (fun i => 16 * tid + i)).filter s.live

/-- The keys of a launch's groups that have not retired. -/
def State.launchGroups (s : State) (lid : Nat) : List Nat := (s.troupesOf lid).flatMap s.groupsOf

/-- The member mask of a barrier, by group of each troupe; a group barrier in use names every group (R310). -/
def barrierMask (h : Header) (level num : Nat) : Nat :=
  match level with
  | 0 => if bitOf h.gbar num then 0xffff else 0
  | 1 => tabGet 0 h.tbar num
  | 2 => tabGet 0 h.bbar num
  | _ => tabGet 0 h.rbar num

/-- Number of barriers at a level (R310). -/
def barrierCount (level : Nat) : Nat :=
  match level with
  | 0 => 4
  | 1 => 16
  | 2 => 8
  | _ => 4

/-- The origin of a troupe's booth within its ring (R30). -/
def boothOf (h : Header) (t : Troupe) : Nat × Nat := (t.x / h.bw * h.bw, t.y / h.bh * h.bh)

/-- The troupes that the instance of a level spans, for a group (R310). -/
def State.spanOf (s : State) (gid level : Nat) : List Nat :=
  let tid := (s.group gid).tid
  let t := s.troupe tid
  let h := s.headerOf gid
  match level with
  | 0 => [tid]
  | 1 => [tid]
  | 2 => (s.troupesOf t.lid).filter (fun k =>
      let u := s.troupe k
      u.z == t.z && decide (boothOf h u = boothOf h t))
  | _ => s.troupesOf t.lid

/-- The members of the barrier instance that a group reaches, those that have not retired (R310, R314). -/
def State.membersOf (s : State) (gid level num : Nat) : List Nat :=
  let m := barrierMask (s.headerOf gid) level num
  let all := (s.spanOf gid level).flatMap s.groupsOf
  if level = 0 then
    (if m = 0 then [] else all.filter (fun k => k == gid || ((s.group gid).twin && k == partnerOf gid)))
  else all.filter (fun k => bitOf m (k % 16))

/-- The number of the barrier instance that a group reaches: what it spans, the level and the number. -/
def State.barrierKey (s : State) (gid level num : Nat) : Nat :=
  let tid := (s.group gid).tid
  let t := s.troupe tid
  let b := boothOf (s.headerOf gid) t
  let id :=
    match level with
    | 0 => if (s.group gid).twin then leadOf gid else gid
    | 1 => tid
    | 2 => ((t.lid * 4 + t.z) * 32 + b.2) * 32 + b.1
    | _ => t.lid
  (id * 4 + level) * 16 + num

/-- A barrier instance. -/
def State.barrier (s : State) (key : Nat) : Barrier := tabGet {} s.barriers key

/-- TKC rises at the completion of a phase of a troupe barrier that names every group; when it reaches TAKEN, a take
is to be captured there (R336). -/
def State.countPhase (s : State) (gid level num : Nat) : State :=
  let h := s.headerOf gid
  let tid := (s.group gid).tid
  if level = 1 ∧ (s.troupe tid).takesOn = true ∧
      (List.range h.grps).all (fun i => bitOf (barrierMask h 1 num) i) = true then
    s.modTroupe tid (fun t =>
      { t with
        tkc := t.tkc + 1
        halting := if t.tkc + 1 = h.taken ∧ t.halting = none then some .take else t.halting })
  else s

/-- If every remaining member has arrived, the phase completes (R313): the phase number rises and the count is
reset. `ms`: the members that have not retired. -/
def State.settlePhase (s : State) (gid level num : Nat) (ms : List Nat) : State :=
  let key := s.barrierKey gid level num
  let b := s.barrier key
  if !ms.isEmpty && ms.all (fun m => b.arrived.contains m) then
    State.countPhase { s with barriers := tabSet {} s.barriers key { b with phase := b.phase + 1, arrived := [] } }
      gid level num
  else s

/-- A group arrives (R313): its record names the current phase. -/
def State.arriveAt (s : State) (gid level num : Nat) : State :=
  let key := s.barrierKey gid level num
  let b := s.barrier key
  let b' := { b with arrived := gid :: b.arrived, records := tabPut b.records gid b.phase }
  State.settlePhase { s with barriers := tabSet {} s.barriers key b' } gid level num (s.membersOf gid level num)

/-- A retiring member counts as having arrived, and is expected in no later phase (R314). -/
def State.leaveBarriers (s : State) (gid : Nat) : State :=
  (s.barriers.map (·.1)).foldl (fun s key =>
    let level := key / 16 % 4
    let num := key % 16
    if s.barrierKey gid level num = key then
      let b := s.barrier key
      let b' := { b with arrived := b.arrived.filter (· != gid), records := tabDel b.records gid }
      let s := { s with barriers := tabSet {} s.barriers key b' }
      s.settlePhase gid level num ((s.membersOf gid level num).filter (· != gid))
    else s) s

/-- A launch is over when its last troupe has retired (R262, R383). -/
def State.settleLaunch (s : State) (lid : Nat) : State :=
  if (s.troupesOf lid).all (fun k => (s.troupe k).retired) then
    s.modLaunch lid (fun l => { l with ended := true, frozen := false, beat := false })
  else s

/-- A troupe gives up its core; its queues are discarded (R318). -/
def State.leaveCore (s : State) (tid : Nat) : State :=
  (s.modTroupe tid (fun t =>
    { t with resident := false, saved := false, halting := none, held := false, queues := [], hold := [], take := none,
             takeFor := none, forced := none, secondTakes := [], landing := false, arrivals := [], replay := [],
             saveDue := false })).modCore
    (s.troupe tid).core (fun c => { c with waitList := c.waitList.filter (· != tid) })

/-- A troupe whose last group has retired is over. -/
def State.settleTroupe (s : State) (tid : Nat) : State :=
  if (s.groupsOf tid).isEmpty then
    ((s.leaveCore tid).modTroupe tid (fun t => { t with retired := true })).settleLaunch (s.troupe tid).lid
  else s

/-- A group leaves its slot and its place in an array (R135). -/
def State.leaveSlot (s : State) (gid : Nat) : State :=
  s.modCore (s.coreOf gid) (fun c =>
    { c with
      slots := c.slots.filter (fun p => p.2 != gid)
      arrays := c.arrays.filter (fun p => match p.2 with
        | some f => f.gid != gid
        | none => true) })

/-- Everything of a group that the core and the device still hold leaves with it. -/
def State.dropGroup (s : State) (gid : Nat) : State :=
  let s := s.leaveSlot gid
  { s with groups := tabDel s.groups gid }

/-- A group retires (R135, R314). -/
def State.retire (s : State) (gid : Nat) : State :=
  if s.live gid then
    let tid := (s.group gid).tid
    let s := s.leaveBarriers gid
    (s.dropGroup gid).settleTroupe tid
  else s

/-! ## Bytes of a sector -/

/-- The number of a sector. -/
def sectorOf (pa : Nat) : Nat := pa / 64

/-- The mask of bytes `off` to `off + n - 1`. -/
def byteMask (off n : Nat) : Mask := maskWhere 64 (fun i => decide (off ≤ i) && decide (i < off + n))

/-- Merge bytes into a sector, dirty, with their poison. -/
def Sector.merge (v : Sector) (off : Nat) (bytes : List Byte) (poison dirty : Bool) : Sector :=
  let m := byteMask off bytes.length
  { v with
    bytes := (indexed bytes).foldl (fun t p => tabSet 0 t (off + p.1) p.2) v.bytes
    dirty := if dirty then v.dirty ||| m else v.dirty
    poison := if poison then v.poison ||| m else v.poison &&& ~~~m }

/-- A write-through store updates the bytes of a valid sector, which are then newer in the write buffer (R277). -/
def Core.l1Update (c : Core) (pa : Nat) (bytes : List Byte) : Core :=
  { c with
    l1 := tabModify c.l1 (sectorOf pa) (fun v =>
      let m := byteMask (pa % 64) bytes.length
      let v := v.merge (pa % 64) bytes false false
      { v with dirty := v.dirty &&& ~~~m, atCore := v.atCore &&& ~~~m, atBooth := v.atBooth &&& ~~~m, lack := v.lack &&& ~~~m }) }

/-- A store of an ended group that it had issued leaves its store queue for the core's write buffer: every instruction
before a trap has its full effect (R327, DEDUCED: R325 gives up lane queues and engine commands only). -/
def State.keepStore (s : State) (gid : Nat) (a : Access) (l : LaneAcc) : State :=
  s.modCore (s.coreOf gid) (fun c =>
    { (c.l1Update l.pa l.data) with
      wbuf := c.wbuf ++ [{ gid, aid := a.aid, lane := l.lane, world := s.worldOf gid, pa := l.pa, bytes := l.data,
                           booth := false }] })

/-- The stores that an ended group leaves behind, in order, up to the first that has no address yet. A troupe with
takes leaves none: its stores are performed when a take releases them (R337). -/
def State.keepStores (s : State) (gid : Nat) : State :=
  let g := s.group gid
  let queued := g.accs.filter (fun a => a.op == .store && a.space == .mem && !a.past && !a.left)
  let out := queued.takeWhile (fun a => a.lanes.all (fun l =>
    match l.stage with
    | .ready => true
    | .refused _ => true
    | _ => false))
  if (s.troupe g.tid).takesOn then s
  else out.foldl (fun s a => (a.lanes.filter (fun l => l.stage == .ready)).foldl (fun s l => s.keepStore gid a l) s) s

/-- The detached commands of a group that run on in their engines (R226). -/
def Group.adrift (g : Group) : List Cmd := g.engq.filter (fun c => c.detached && !c.past)

/-- A group of an ended troupe retires; while detached commands of it run on, which its launch's completion record waits for
(R226, R383), nothing else of it is left. -/
def State.castOff (s : State) (gid : Nat) : State :=
  let g := s.group gid
  if g.adrift.isEmpty then s.retire gid
  else (s.leaveSlot gid).modGroup gid (fun g =>
    { g with ended := true, laneq := [], accs := [], withdrawn := [], deferred := [], engq := g.adrift, wait := none,
             lwait := none, cueWait := none, cueLwait := none, rdv := none, cueRdv := none, jwait := false })

/-- The groups whose last detached command is over retire. -/
def State.settleEnded (s : State) : State :=
  ((s.groups.filter (fun p => p.2.ended && p.2.adrift.isEmpty)).map (·.1)).foldl State.retire s

/-- Every group of a troupe retires without completing its lane queue or engine commands (R325), but for detached ones; the
stores that a take holds are discarded with it. -/
def State.endTroupe (s : State) (tid : Nat) : State :=
  let s := s.modTroupe tid (fun t => { t with hold := [] })
  let s := (s.groupsOf tid).foldl State.castOff ((s.groupsOf tid).foldl State.keepStores s)
  if (s.groupsOf tid).isEmpty then s else s.leaveCore tid

/-- The launch gets its END and CLASS, if nothing has ended it before (R383). -/
def State.markEnd (s : State) (lid endc cls : Nat) : State :=
  s.modLaunch lid (fun l => if l.failed then l else { l with failed := true, endc := endc, cls := cls })

/-- Every troupe of a launch is ended (R325 steps 1, 2 and 4). -/
def State.endRing (s : State) (lid endc cls : Nat) : State :=
  let s := s.markEnd lid endc cls
  let s := (s.troupesOf lid).foldl State.endTroupe s
  (s.settleLaunch lid).modLaunch lid (fun l => { l with frozen := false, beat := false })

/-- TCAUSE of a trap (R326): trap entry writes every field and clears LSKIP and LDROP. -/
def TrapInfo.word (t : TrapInfo) : Word32 :=
  BitVec.ofNat 32 (packBits [(t.cls % 16, 0), (if t.laneWord then 1 else 0, 4), (if t.engine then 1 else 0, 5),
    (t.cause % 256, 8), (if t.engine then t.path % 8 else 0, 16), (if t.engine then t.seq % 8192 else 0, 19)])

/-- The error-log entry of a ring termination (R387, KIND 0x10). -/
def State.logTermination (s : State) (gid : Nat) (t : TrapInfo) (tepc : Nat) : State :=
  let l := s.launchOf gid
  s.log l.world (s.logHead 0x10 l.world l.seq |||
    packBits [(t.word.toNat, 128), (tepc % 2 ^ 64, 160), (t.tval.toNat, 224), (s.gidBits gid, 288), (1, 320)])

/-- The error-log entry of a double trap (R387, KIND 0x13). -/
def State.logDouble (s : State) (gid : Nat) (t : TrapInfo) : State :=
  let l := s.launchOf gid
  let g := s.group gid
  s.log l.world (s.logHead 0x13 l.world l.seq |||
    packBits [(g.tcause.toNat, 128), (t.word.toNat, 160), (g.tepc % 2 ^ 64, 192), (g.tval.toNat, 256),
      (s.gidBits gid, 320)])

/-! ## Taking a trap (R324 to R332, R341) -/

/-- Is a class routed to a handler (R328)? -/
def State.routed (s : State) (gid cls : Nat) : Bool :=
  let l := s.launchOf gid
  let h := s.headerOf gid
  (s.world l.world).route.getLsbD cls && l.hoff % 4 == 0 && decide (l.hoff < h.scodeSize)

/-- The `.scode` base of a launch (R111). -/
def Launch.scodeBase (l : Launch) : Nat := (l.obj + (l.hdr.getD noHeader).scodeOff) % 2 ^ 64
/-- The `.lcode` base of a launch (R111). -/
def Launch.lcodeBase (l : Launch) : Nat := (l.obj + (l.hdr.getD noHeader).lcodeOff) % 2 ^ 64
/-- The `.const` base of a launch (R111). -/
def Launch.constBase (l : Launch) : Nat := (l.obj + (l.hdr.getD noHeader).constOff) % 2 ^ 64

/-- The trap registers as a trap writes them (R330 step 1). -/
def Group.trapRegs (g : Group) (t : TrapInfo) (tepc : Nat) : Group :=
  { g with tcause := t.word, tepc := tepc % 2 ^ 64, tval := t.tval }

/-- A rendezvous that a lane word waits at is given up; the word issues again later. -/
def Group.leaveRdv (g : Group) : Group := { g with rdv := none, lwait := none }

/-- Entering the handler (R330): the trap registers, trap mode, which freezes the lane queue, and the PC. A waiting
scalar instruction, and a lane word whose access is being translated, issue again after `RTE` (R331, R332). -/
def State.enterHandler (s : State) (gid : Nat) (t : TrapInfo) (tepc : Nat) : State :=
  let l := s.launchOf gid
  let s := s.takeBackWord gid false
  let s := (s.halvesOf gid).foldl (fun s k => s.takeBackWord k true) s
  let s := s.modGroup gid (fun g => (g.trapRegs t tepc).leaveRdv)
  let s := (s.halvesOf gid).foldl (fun s k => s.modGroup k Group.leaveRdv) s
  s.modGroup gid (fun g => { g with trapMode := true, jwait := false, wait := none, pc := (l.scodeBase + l.hoff) % 2 ^ 64 })

/-- A troupe is asked to halt, unless it has retired (R333, R422). A rollback goes first: the other reasons to halt are
looked at again after it (R338); a freeze stays. -/
def State.askHalt (s : State) (tid : Nat) (why : HaltWhy) : State :=
  s.modTroupe tid (fun t => if t.retired then t else
    { t with halting := match t.halting with
        | some .rollback => some .rollback
        | some .freeze => if why = .rollback then some .rollback else some .freeze
        | _ => some why })

/-- Every troupe of a launch is asked to halt. -/
def State.askHaltAll (s : State) (lid : Nat) (why : HaltWhy) : State :=
  (s.troupesOf lid).foldl (fun s k => s.askHalt k why) s

/-- The launch stops for the debugger (R422): its troupes are asked to halt and are held. -/
def State.stopLaunch (s : State) (lid : Nat) : State :=
  let s := s.modLaunch lid (fun l => { l with stopped := true })
  let s := (s.troupesOf lid).foldl (fun s k => s.modTroupe k (fun t => { t with held := !t.retired })) s
  let s := (s.troupesOf lid).foldl (fun s k =>
    if (s.troupe k).resident then s.askHalt k .debug else s) s
  s.modWorld (s.launch lid).world (fun w =>
    { w with dbg :=
      { w.dbg with
        stopAt := s.now
        step := match w.dbg.step with
          | some (l, b) => if l = lid then none else some (l, b)
          | none => none } })

/-- A double trap (R341): the troupe ends and the ring is marked failed. -/
def State.doubleTrap (s : State) (gid : Nat) (t : TrapInfo) : State :=
  let l := (s.troupe (s.group gid).tid).lid
  let s := s.logDouble gid t
  let s := s.markEnd l 3 (s.group gid).tcause.toNat
  let s := s.modLaunch l (fun v => { v with cls := v.cls % 16 })
  s.endTroupe (s.group gid).tid

/-- The lane queue of a half returns to run `r` as it stood at one of its words (R335, R340): the run is the head again,
with the datapath slice that the head holds. -/
def Group.restoreRun (g : Group) (r : Run) : Group :=
  let rest := g.laneq.filter (fun q => q.id != r.id)
  let slice := (g.laneq.head?).bind (·.slice)
  { g with laneq := { r with slice } :: rest.map (fun q => { q with slice := none }) }

/-- Does a pipeline error of the group roll its troupe back (R338)? A third one before a new take does not. -/
def State.rollsBack (s : State) (gid : Nat) : Bool :=
  let t := s.troupe (s.group gid).tid
  t.takesOn && decide (t.rollbacks < 2)

/-- Taking a trap in the scalar context `gid`, with `tepc` the value that TEPC receives (R325, R328, R330, R338,
R341, R424). -/
def State.takeTrap (s : State) (gid : Nat) (t : TrapInfo) (tepc : Nat) : State :=
  let l := s.launchOf gid
  if t.cls = 10 ∧ t.cause ≠ 4 ∧ s.rollsBack gid = true then s.askHalt (s.group gid).tid .rollback
  else
    let t := if t.cls = 10 ∧ (s.troupe (s.group gid).tid).takesOn = true then { t with cause := 4 } else t
    if (s.group gid).trapMode then s.doubleTrap gid t
    else
      let s := if t.cls = 11 then s.countIn l.world cUncorr else s
      if t.cls = 13 ∧ (s.world l.world).dbg.attach = true then
        (s.modGroup gid (fun g => { (g.trapRegs t tepc) with pc := tepc, wait := none })).stopLaunch
          (s.troupe (s.group gid).tid).lid
      else if s.routed gid t.cls then s.enterHandler gid t tepc
      else
        let s := s.modGroup gid (fun g => g.trapRegs t tepc)
        (s.logTermination gid t tepc).endRing (s.troupe (s.group gid).tid).lid 1 t.cls

/-- Return from a handler (R152, R331): the PC is TEPC, trap mode ends, and the frozen lane queue goes on as LSKIP
and LDROP of TCAUSE say; both have no effect when LW = 0. `skip` steps a run past the trapping word. -/
def State.returnFromTrap (s : State) (gid : Nat) (skip : State → Nat → State) : State :=
  let g := s.group gid
  let lw := g.tcause.getLsbD 4
  let drop := lw && g.tcause.getLsbD 7
  let skipping := lw && g.tcause.getLsbD 6 && !drop
  let s := s.modGroup gid (fun g => { g with pc := g.tepc, trapMode := false, wait := none })
  if drop then
    (s.halvesOf gid).foldl (fun s k =>
      let queued := (s.group k).laneq
      let s := queued.foldl (fun s r => if r.admitted then s else s.dropGuard gid r.guard) s
      s.modGroup k (fun g => { g with laneq := [], lwait := none })) s
  else if skipping then skip s gid
  else s

/-- A pair splits (R211): the double's second scalar context is loaded with the pair's, and each guard's count is
divided by the entries of the lane queues; the engine commands stay with the lead. The PCs are set by the caller. A scalar
access whose translation the pair waits for is taken back, and each half issues its own. Whether a double that splits off
in a handler is in trap mode is left open: it is not (DESIGN CHOICE, entry 56). -/
def State.splitPair (s : State) (lead : Nat) : State :=
  let s := s.takeBackWord lead false
  let g := s.group lead
  let d := s.group (lead + 1)
  let held (k : Nat) : Nat := (d.laneq.filter (fun r => r.guard == some k && !r.admitted)).length
  let gl : Tab Guard := (List.range 8).foldl (fun t k =>
    let v := tabGet {} g.guards k
    tabSet {} t k { v with count := v.count - held k }) g.guards
  let gd : Tab Guard := (List.range 8).foldl (fun t k =>
    tabSet {} t k { tabGet {} g.guards k with count := held k }) g.guards
  let s := s.modGroup lead (fun g =>
    { g with
      split := true
      guards := gl
      accs := g.accs.map (fun a => match a.dest with
        | .sreg _ => { a with both := true }
        | _ => a) })
  s.modGroup (lead + 1) (fun d =>
    { d with split := true, guards := gd, sregs := g.sregs, pc := g.pc, wait := g.wait, resumeWait := g.resumeWait,
             poison := d.poison ++ g.poison.filter (fun m => m.file == 1) })

/-- A lane-word trap (R327, R332): precise in the lane stream, pending for the scalar stream. A word of a converged
pair that traps in one half splits the pair first, unless it issued once for the pair (R215). -/
def State.raiseLane (s : State) (gid : Nat) (once : Bool) (t : TrapInfo) : State :=
  let s := if (s.group gid).converged && !once then s.splitPair (leadOf gid) else s
  s.modGroup gid (fun g => { g with deferred := g.deferred ++ [{ t with laneWord := true }], lwait := none })

/-- A fault of an engine command or a refused service, pending for the scalar stream (R225, R304). -/
def State.raiseEngine (s : State) (gid cls cause : Nat) (tval : Word64) (p : Path) (seq : Nat) : State :=
  s.modGroup (s.ctxOf gid) (fun g =>
    { g with
      deferred := g.deferred ++ [{ cls, cause, tval, engine := true, path := pathCode p, seq := seq }] })

/-- Which deferred trap is taken next (R332): a lane-word trap, the oldest first; then by path code and sequence
number. -/
def nextDeferred (l : List TrapInfo) : Option TrapInfo :=
  match l.find? (fun t => t.laneWord) with
  | some t => some t
  | none =>
    l.foldl (fun best t =>
      match best with
      | none => some t
      | some b => if t.path < b.path ∨ (t.path = b.path ∧ t.seq < b.seq) then some t else some b) none

/-- Is a deferred trap of a scalar context to be taken before the instruction at its PC raises its own (R332)? -/
def State.defers (s : State) (gid : Nat) : Bool := !(s.group gid).trapMode && !(s.group gid).deferred.isEmpty

/-- One deferred trap is taken at the scalar boundary (R327, R332); none is taken in trap mode (R341). -/
def State.deliverDeferred (s : State) (gid : Nat) : State :=
  let g := s.group gid
  if g.trapMode then s
  else
    match nextDeferred g.deferred with
    | none => s
    | some t => (s.modGroup gid (fun g => { g with deferred := g.deferred.erase t })).takeTrap gid t g.pc

/-! ## Base-die cores: messages and the end of a microkernel (R241, R254, R328) -/

/-- A `.done` message is completed: it leaves, and the sender's BANK counter falls (R223, R256), or, for a detached command, its
launch may complete (R226, R383; `State.settleEnded`). -/
def State.completeMsg (s : State) (m : Msg) : State :=
  match (s.group m.gid).engq.find? (fun k => k.path == .bank && k.seq == m.seq && k.accepted && !k.past) with
  | some _ => s.modGroup m.gid (fun g => g.cmdOver .bank m.seq)
  | none => s

/-- Messages that a mailbox holds (R254). -/
def mailboxMax : Nat := 16

/-- Is bit DONE of a message's meta word set (R254)? -/
def Msg.isDone (m : Msg) : Bool := m.info.getLsbD 48

/-- The microkernel of a slice ends (R241): every open or waiting `.done` message is completed, every waiting
`.post` message is discarded, and its launch is over. -/
def State.endMicro (s : State) (sl endc cls : Nat) : State :=
  let c := s.bdc sl
  let s := (c.opened ++ c.mbx.filter Msg.isDone).foldl State.completeMsg s
  let s := s.modBdc sl (fun c => { c with lid := none, opened := [], mbx := [], brun := none, wait := none })
  match c.lid with
  | some lid =>
    s.modLaunch lid (fun l =>
      { l with ended := true, failed := l.failed || endc != 0, endc := if l.failed then l.endc else endc,
               cls := if l.failed then l.cls else cls })
  | none => s

/-- The 64 bytes of a slice's contained-error record, as a number (R415): without an event SLICE is at its reset value. -/
def ErrRec.image (e : ErrRec) (sl : Nat) : Nat :=
  packBits [(0x15, 0), (e.cause, 8), (if e.count = 0 then 0 else sl, 16), (e.bank % 16, 24), (e.row % 2 ^ 32, 32),
    (e.keyid % 512, 64), (e.world % 64, 73), (e.count % 2 ^ 64, 128), (e.tval.toNat, 192), (e.trapCause % 256, 256)]

/-- A contained error of a slice (R415): the record is written, and the same bytes go to the log of the world the
event is attributed to; it counts in that world (R430). -/
def State.contain (s : State) (sl w : Nat) (e : ErrRec) : State :=
  let old := (s.slice sl).err
  let e := { e with world := w, count := old.count + 1 }
  let s := s.modSlice sl (fun v => { v with err := e })
  let s := s.log w (e.image sl)
  s.countIn w cContained

/-- The key identifier a world's requests carry (R23, R389); 0 stands for none of a guest. -/
def State.keyOf (s : State) (w : Nat) : Nat := ((s.world w).keyid).getD 0

/-- A trap of a base-die core (R328): the trap registers are written, the microkernel ends, the error record gets
CAUSE 7, and its launch completes with END 1 and the class. -/
def State.trapBdc (s : State) (sl : Nat) (t : TrapInfo) (tepc : Nat) : State :=
  let c := s.bdc sl
  let w := (s.slice sl).owner.getD 0
  let s := s.modBdc sl (fun c => { c with tcause := t.word, tepc := tepc % 2 ^ 64, tval := t.tval })
  let s := s.contain sl w
    { cause := 7, bank := t.cls, row := (tepc - c.scodeBase) % 2 ^ 32, keyid := s.keyOf w, tval := t.tval,
      trapCause := t.cause }
  s.endMicro sl 1 t.cls

/-- The trap of a scalar instruction at PC, which changes nothing else (R122). -/
def State.trap (s : State) (a : Agent) (cls cause : Nat) (tval : Word64) : State :=
  match a with
  | .none => s
  | .group gid => s.takeTrap (s.ctxOf gid) { cls, cause, tval } (s.pcOf a)
  | .bdc sl => s.trapBdc sl { cls, cause, tval } (s.pcOf a)

/-- The trap of a `TRAP` or `BRK`, whose TEPC is the address after the word (R151). -/
def State.trapAfter (s : State) (a : Agent) (cls : Nat) (tval : Word64) : State :=
  match a with
  | .none => s
  | .group gid => s.takeTrap (s.ctxOf gid) { cls, cause := 0, tval } (pcNext (s.pcOf a))
  | .bdc sl => s.trapBdc sl { cls, cause := 0, tval } (pcNext (s.pcOf a))

end Sys2Proof.Machine
end

