-- ==== Sys2Proof/Machine/Mem.lean ====
section
/-! DEFINITION. Memory at its homes: the bytes of device memory, the rows with their sidebands, slice ports
(spec/01_machine.md R20 to R23, spec/20_trust.md R394 to R397), the L2 and the turnstile as homes of sectors
(spec/11_memory.md R280, R294), the scratchpad (R281, R201, R202), and the host's memory (spec/19_host.md). -/

namespace Sys2Proof.Machine

/-! ## Plain bytes -/

/-- What memory that nothing has written reads as (entry 5). -/
def memDefault : Byte := 0

/-- The canonical form of memory: addresses rise strictly and no byte is listed that equals `memDefault`. -/
def Memory.wf (m : List Host.Cell) : Bool := tabWf memDefault m

/-- One byte of device memory, as it stands in its slice. -/
def State.memByte (s : State) (pa : Nat) : Byte := tabGet memDefault s.mem pa

/-- Write one byte of device memory in its slice. -/
def State.setMemByte (s : State) (pa : Nat) (b : Byte) : State := { s with mem := tabSet memDefault s.mem pa b }

/-- Write bytes from an address on. -/
def State.setMemBytes (s : State) (pa : Nat) : List Byte → State
  | [] => s
  | b :: l => (s.setMemByte pa b).setMemBytes (pa + 1) l

/-- `n` bytes of device memory from an address on. -/
def State.memBytes (s : State) (pa n : Nat) : List Byte := (List.range n).map (fun i => s.memByte (pa + i))

/-- One byte of the host's memory. -/
def State.hostByte (s : State) (a : Nat) : Byte := tabGet Config.hostByte s.hostMem a

/-- Bytes of the host's memory, read over CXL.io. -/
def State.hostBytes (s : State) (a n : Nat) : List Byte := (List.range n).map (fun i => s.hostByte (a + i))

/-- Write the host's memory. -/
def State.setHostBytes (s : State) (a : Nat) : List Byte → State
  | [] => s
  | b :: l =>
    ({ s with hostMem := tabSet Config.hostByte s.hostMem a b } : State).setHostBytes (a + 1) l

/-- An access to host memory has completed with an error (R438, R439). -/
def State.hostFailed (s : State) (a : Nat) : State := { s with hostFails := s.hostFails.erase a }

/-- The pieces of a range that lie each in one 64-byte sector: address and length. -/
def chunks : Nat → Nat → Nat → List (Nat × Nat)
  | 0, _, _ => []
  | fuel + 1, a, n =>
    if n = 0 then []
    else
      let k := min n (64 - a % 64)
      (a, k) :: chunks fuel (a + k) (n - k)

/-! ## Rows (R394 to R397) -/

/-- The sideband of the row that holds a byte. -/
def State.rowMeta (s : State) (pa : Nat) : RowMeta := tabGet {} s.rows (pa / 1024)

/-- The counter of a row (R19, R394): what the table lists, with what migrations have added to the whole slice. -/
def State.rowCounter (s : State) (pa : Nat) : Nat := (s.rowMeta pa).counter + (s.slice (sliceOfPa pa)).lift

/-- Change the sideband of a row. -/
def State.modRow (s : State) (pa : Nat) (f : RowMeta → RowMeta) : State :=
  { s with rows := tabSet {} s.rows (pa / 1024) (f (s.rowMeta pa)) }

/-- The key slot of the owner of a slice, in the slice's stack (R389). -/
def State.ownerKey (s : State) (sl : Nat) : Option KeySlot :=
  match (s.slice sl).owner with
  | none => none
  | some w =>
    match (s.world w).keyid with
    | none => none
    | some k =>
      match tabFind s.keys (512 * sliceStack sl + k) with
      | some v => if v.world = w then some v else none
      | none => none

/-! ### The counter tree (R396, R397) -/

/-- The number of a row in its slice's counter tree (R396). -/
def rowNumber (pa : Nat) : Nat := 16 * rowOf (pa % sliceBytes) + bankOf (pa % sliceBytes)

/-- The levels of a counter tree below its root (R396). -/
def treeLevels : Nat := 6

/-- The nodes of a row's path, from level 1 up (R396): level and number. -/
def treePath (pa : Nat) : List (Nat × Nat) :=
  (List.range treeLevels).map (fun k => (k + 1, rowNumber pa / 8 ^ (k + 1)))

/-- The key of a counter in a slice's tree: that of a node of a level in its parent, the root above level 6; level 0
stands for the rows, whose counters the nodes of level 1 hold. -/
def nodeKey (level num : Nat) : Nat := 2 ^ 21 * level + num

/-- Nodes of 64 bytes that the metadata cache of a stack holds (R19). -/
def metaCacheNodes : Nat := 65536

/-- The counter that a row has in its level-1 node (R396). -/
def State.treeCounter (s : State) (pa : Nat) : Nat :=
  tabGet 1 (s.slice (sliceOfPa pa)).nodes (nodeKey 0 (rowNumber pa)) + (s.slice (sliceOfPa pa)).lift

/-- Does the metadata cache of a slice's stack hold a node? Such a node is verified (R397). -/
def State.nodeHeld (s : State) (sl level num : Nat) : Bool :=
  (tabGet [] s.metaCache (sliceStack sl)).any (fun n => n.slice == sl && n.level == level && n.num == num)

/-- The nodes that a walk from a row reads: those below the first that is verified (R397). -/
def State.treeWalk (s : State) (pa : Nat) : List (Nat × Nat) :=
  (treePath pa).takeWhile (fun n => !s.nodeHeld (sliceOfPa pa) n.1 n.2)

/-- Does a node that the row's walk reads fail its check, or has one of its path failed since the slice was last scrubbed
(R396, R397)? -/
def State.treeFails (s : State) (pa : Nat) : Bool :=
  (s.treeWalk pa).any (fun n => s.treeBad.contains (sliceOfPa pa, n.1, n.2)) ||
    (treePath pa).any (fun n => s.treeFailed.contains (sliceOfPa pa, n.1, n.2))

/-- A dirty node that leaves the metadata cache is written back, its tag made anew (R397); one that has failed its check
stays failed. -/
def State.nodeLeaves (s : State) (n : MetaNode) : State :=
  let k := (n.slice, n.level, n.num)
  if n.dirty && !s.treeFailed.contains k then { s with treeBad := s.treeBad.filter (· != k) } else s

/-- A node comes into the metadata cache of its stack, verified (R397); a full cache gives up its oldest. -/
def State.holdNode (s : State) (sl level num : Nat) (dirty : Bool) : State :=
  let st := sliceStack sl
  let mine (n : MetaNode) : Bool := n.slice == sl && n.level == level && n.num == num
  let held := tabGet [] s.metaCache st
  let d := dirty || held.any (fun n => mine n && n.dirty)
  let all : List MetaNode := { slice := sl, level, num, dirty := d } :: held.filter (fun n => !mine n)
  let s := (all.drop metaCacheNodes).foldl State.nodeLeaves s
  { s with metaCache := tabSet [] s.metaCache st (all.take metaCacheNodes) }

/-- The nodes that a row's walk has read are verified and held (R397). -/
def State.holdWalk (s : State) (pa : Nat) : State :=
  (s.treeWalk pa).foldl (fun s n => s.holdNode (sliceOfPa pa) n.1 n.2 false) s

/-- A node that fails its check is recorded once, as a contained error of CAUSE 5, and counts in TREEFAIL (R397, R415,
R430). -/
def State.treeError (s : State) (sl level num : Nat) : State :=
  let w := (s.slice sl).owner.getD 0
  if s.treeFailed.contains (sl, level, num) then s
  else
    let s := { s with treeFailed := (sl, level, num) :: s.treeFailed }
    (s.contain sl w { cause := 5, row := num, keyid := s.keyOf w }).countAlso w cTreefail

/-- The nodes of a row's walk that fail are recorded (R397). -/
def State.treeErrors (s : State) (pa : Nat) : State :=
  ((s.treeWalk pa).filter (fun n => s.treeBad.contains (sliceOfPa pa, n.1, n.2))).foldl
    (fun s n => s.treeError (sliceOfPa pa) n.1 n.2) s

/-- A row's write raises its counter in its level-1 node, and the counter of each node on its path (R397). A node that is
read for this and fails its check is recorded and not held. -/
def State.raiseTree (s : State) (pa : Nat) : State :=
  let sl := sliceOfPa pa
  let s := s.modSlice sl (fun v =>
    let n := nodeKey 0 (rowNumber pa)
    { v with
      nodes := (treePath pa).foldl (fun t p =>
        tabSet 0 t (nodeKey p.1 p.2) (tabGet 0 t (nodeKey p.1 p.2) + 1)) (tabSet 1 v.nodes n (tabGet 1 v.nodes n + 1)) })
  (treePath pa).foldl (fun s p =>
    if !s.nodeHeld sl p.1 p.2 && s.treeBad.contains (sl, p.1, p.2) then s.treeError sl p.1 p.2
    else s.holdNode sl p.1 p.2 true) s

/-- Does the row's tag hold under the owner's keys, and its counter match the tree (R394, R397)? -/
def State.rowOk (s : State) (pa : Nat) : Bool :=
  let sl := sliceOfPa pa
  let r := s.rowMeta pa
  match s.ownerKey sl with
  | none => false
  | some k => !r.tagBad && decide (r.sealKey.getD (s.slice sl).sealGen = k.gen) &&
      decide (s.rowCounter pa = s.treeCounter pa) && !s.treeFails pa

/-- May a request of world `w` reach this address (R23)? Its key identifier must be bound to the slice's owner. -/
def State.portAccepts (s : State) (w pa : Nat) : Bool :=
  decide (pa < deviceBytes) && decide ((s.slice (sliceOfPa pa)).owner = some w) &&
    (s.ownerKey (sliceOfPa pa)).isSome

/-- A request that a slice port refuses (R23): a contained error attributed to the requester. -/
def State.refuseAt (s : State) (w pa : Nat) : State :=
  let off := pa % sliceBytes
  s.contain (sliceOfPa pa) w { cause := 1, bank := bankOf off, row := rowOf off, keyid := s.keyOf w }

/-- Where an access of a forwarding source goes (R413 step 5). -/
def State.forwardPa (s : State) (pa : Nat) : Nat :=
  let v := s.slice (sliceOfPa pa)
  match v.forward, v.dest with
  | true, some d => d * sliceBytes + pa % sliceBytes
  | _, _ => pa

/-- Does a BSU hold a row of the bank, so that a compute-side access waits (R244); or is it a write to a migration
source (R413)? -/
def State.portBusy (s : State) (pa : Nat) (write : Bool) : Bool :=
  let pa := s.forwardPa pa
  let v := s.slice (sliceOfPa pa)
  (tabGet {} v.bsus (bankOf (pa % sliceBytes))).openRow.isSome || (write && v.readOnly)

/-- A tag failure at a slice port (R395): a contained error of CAUSE 2 that counts in TAGFAIL; a node that made the row
fail is recorded too (R397). -/
def State.tagFailure (s : State) (pa : Nat) : State :=
  let s := s.treeErrors pa
  let sl := sliceOfPa pa
  let w := (s.slice sl).owner.getD 0
  let off := pa % sliceBytes
  (s.contain sl w { cause := 2, bank := bankOf off, row := rowOf off, keyid := s.keyOf w }).countAlso w cTagfail

/-- The positions of a mask of 64 bytes. -/
def fullMask : Mask := allLanes 64

/-! ### Transport (R20, R398) -/

/-- The identifier of a flow (R398): its direction (0 toward the cluster, 1 toward the slice), slice and cluster. -/
def flowId (d sl c : Nat) : Nat := 65536 * d + 256 * sl + c

/-- The cluster port of a core (R14). -/
def portOf (core : Nat) : Option Nat := some (coreCluster core)

/-- The cluster port whose flow stands for an access that names none, as of a launch unit, a stage manager or the host: that of
the world's first core (DESIGN CHOICE, entry 45). -/
def State.firstPort (s : State) (w : Nat) : Option Nat := ((worldCores (s.world w)).head?).map coreCluster

/-- A packet of a flow takes the flow's next sequence number (R20, R398); the nonce, F ‖ n, that it carries. -/
def State.sendPacket (s : State) (w d pa : Nat) (c : Option Nat) : State × Nat :=
  match c.or (s.firstPort w) with
  | none => (s, 0)
  | some c =>
    let f := flowId d (sliceOfPa pa) c
    let n := tabGet 0 (s.world w).flows f
    (s.modWorld w (fun v => { v with flows := tabSet 0 v.flows f (n + 1) }), 2 ^ 64 * f + n)

/-- Data that crosses a cluster port is delivered poisoned when its packet, in direction `d`, has failed its check twice
(R399): the mark is spent. -/
def State.arrive (s : State) (d pa : Nat) (c : Option Nat) : State × Bool :=
  match c with
  | none => (s, false)
  | some c =>
    let k := (flowId d (sliceOfPa pa) c, sectorOf pa)
    if s.spoiled.contains k then ({ s with spoiled := s.spoiled.erase k }, true) else (s, false)

/-- A compute-side read of a sector at its slice port (R20, R395): its bytes and their poison; none when the port
refuses the request. -/
def State.portRead (s : State) (w pa : Nat) : State × Option (Tab Byte × Mask) :=
  let pa := s.forwardPa (pa / 64 * 64)
  if !s.portAccepts w pa then (s.refuseAt w pa, none)
  else
    let bytes : Tab Byte := (List.range 64).foldl (fun t i => tabSet 0 t i (s.memByte (pa + i))) []
    let marks := maskWhere 64 (fun i => s.homePoison.contains (pa + i))
    if !s.rowOk pa then (s.tagFailure pa, some (bytes, fullMask))
    else if (s.rowMeta pa).uncorr then (s.holdWalk pa, some (bytes, fullMask))
    else (s.holdWalk pa, some (bytes, marks))

/-- Mark or clear poison of bytes at their home (R339). -/
def State.markHome (s : State) (pa n : Nat) (p : Bool) : State :=
  let rest := s.homePoison.filter (fun a => !(decide (pa ≤ a) && decide (a < pa + n)))
  { s with homePoison := if p then rest ++ (List.range n).map (fun i => pa + i) else rest }

/-- A compute-side write that reaches the slice port (R395): the row is checked, merged and written with its counter
raised; bytes within one sector. -/
def State.portWrite (s : State) (w pa : Nat) (bytes : List Byte) (poison : Bool) : State :=
  let pa := s.forwardPa pa
  let sl := sliceOfPa pa
  let off := pa % sliceBytes
  if !s.portAccepts w pa then s.refuseAt w pa
  else if !s.rowOk pa then s.tagFailure pa
  else if s.rowCounter pa = 2 ^ 56 - 1 then
    s.contain sl w { cause := 4, bank := bankOf off, row := rowOf off, keyid := s.keyOf w }
  else
    let gen := ((s.ownerKey sl).map (·.gen)).getD 0
    let s := ((s.setMemBytes pa bytes).markHome pa bytes.length poison).raiseTree pa
    s.modRow pa (fun r =>
      { r with
        counter := r.counter + 1
        sealKey := if gen = (s.slice sl).sealGen then none else some gen })

/-! ## Homes (R280, R294) -/

/-- Does the world hold L2 granules on the die that caches an address (R280)? -/
def State.cachedInL2 (s : State) (w pa : Nat) : Bool :=
  decide (0 < tabGet 0 (s.world w).l2gran (dieOfPa pa))

/-- A sector of no data. -/
def noSector : Sector := { world := 0, bytes := [] }

/-- Bytes of a sector. -/
def Sector.slice (v : Sector) (off n : Nat) : List Byte := (List.range n).map (fun i => tabGet 0 v.bytes (off + i))

/-- Is any of the bytes poisoned? -/
def Sector.hurt (v : Sector) (off n : Nat) : Bool := (List.range n).any (fun i => v.poison.getLsbD (off + i))

/-- The dirty bytes of a sector, as pieces to write. -/
def Sector.dirtyBytes (v : Sector) : List (Nat × Byte × Bool) :=
  ((List.range 64).filter (fun i => v.dirty.getLsbD i)).map
    (fun i => (i, tabGet 0 v.bytes i, v.poison.getLsbD i))

/-- The sectors of a table whose address satisfies a test. -/
def sectorsWhere (t : Tab Sector) (f : Nat → Sector → Bool) : List Nat :=
  (t.filter (fun p => f p.1 p.2)).map (·.1)

/-- Write the dirty bytes of a sector to the slice port (R278, R319). The row is written once for each poison state
of its bytes: only the counter shows it. -/
def State.sectorToPort (s : State) (k : Nat) (v : Sector) : State :=
  let d := v.dirtyBytes
  match d with
  | [] => s
  | _ =>
    let pa := 64 * k
    let fpa := s.forwardPa pa
    let old : List Byte := (List.range 64).map (fun i =>
      if v.dirty.getLsbD i then tabGet 0 v.bytes i else s.memByte (fpa + i))
    let marks := (List.range 64).filter (fun i =>
      if v.dirty.getLsbD i then v.poison.getLsbD i else s.homePoison.contains (fpa + i))
    if s.portAccepts v.world fpa && s.rowOk fpa && s.rowCounter fpa != 2 ^ 56 - 1 then
      marks.foldl (fun s i => s.markHome (fpa + i) 1 true) (s.portWrite v.world pa old false)
    else s.portWrite v.world pa old false

/-- Write back an L2 sector if it is dirty; it stays, clean. -/
def State.cleanL2 (s : State) (k : Nat) : State :=
  match tabFind s.l2 k with
  | some v => { s.sectorToPort k v with l2 := tabPut s.l2 k { v with dirty := 0 } }
  | none => s

/-- Write back an L2 sector and drop it. -/
def State.flushL2 (s : State) (k : Nat) : State :=
  let s := s.cleanL2 k
  { s with l2 := tabDel s.l2 k }

/-! ### Room in the L2 (R2, R16, R280) -/

/-- Which of several candidates for replacement, of equal right, leaves: a free choice. -/
def victimOf (free : Nat) (l : List Nat) : Option Nat := l[Config.victim free % l.length]?

/-- The lines of 128 bytes that a world's granules hold on the die of an address (R2, R280): a granule is 1 MiB. -/
def State.l2Cap (s : State) (w pa : Nat) : Nat := 8192 * tabGet 0 (s.world w).l2gran (dieOfPa pa)

/-- The lines of a world in the L2 of the die of an address: a line is two sectors. -/
def State.l2Held (s : State) (w pa : Nat) : List Nat :=
  ((sectorsWhere s.l2 (fun k v => v.world == w && dieOfPa (64 * k) == dieOfPa pa)).map (· / 2)).eraseDups

/-- Can an L2 sector leave now: it is clean, or nothing holds its write-back (R244, R413)? -/
def State.l2MayLeave (s : State) (k : Nat) : Bool :=
  (tabGet noSector s.l2 k).dirty == 0 || !s.portBusy (64 * k) true

/-- Those of the lines that can leave now. -/
def State.l2Leavers (s : State) (w pa : Nat) : List Nat :=
  (s.l2Held w pa).filter (fun n => s.l2MayLeave (2 * n) && s.l2MayLeave (2 * n + 1))

/-- Does the L2 hold the line of an address, or have one free for the world? -/
def State.l2Has (s : State) (w pa : Nat) : Bool :=
  (s.l2Held w pa).contains (sectorOf pa / 2) || decide ((s.l2Held w pa).length < s.l2Cap w pa)

/-- Is there room in the L2 for one more sector of a world, or a line that can leave for it? -/
def State.l2Room (s : State) (w pa : Nat) : Bool := s.l2Has w pa || !(s.l2Leavers w pa).isEmpty

/-- Make the room: full granules give up one of the world's own lines (R280); none while none can leave. -/
def State.l2Make (s : State) (w pa : Nat) : Option State :=
  if s.l2Has w pa then some s
  else (victimOf s.free (s.l2Leavers w pa)).map (fun n => (s.bumpFree.flushL2 (2 * n)).flushL2 (2 * n + 1))

/-- A sector comes into the L2, if there is room (R280). -/
def State.l2Put (s : State) (w pa : Nat) (v : Sector) : Option State :=
  (s.l2Make w pa).map (fun s => { s with l2 := tabPut s.l2 (sectorOf pa) v })

/-- Must an access of a sector wait at its home? -/
def State.homeBusy (s : State) (w pa : Nat) (write : Bool) : Bool :=
  let pa := s.forwardPa pa
  if pa < deviceBytes then
    if (tabFind s.turn (sectorOf pa)).isSome then false
    else if (tabFind s.l2 (sectorOf pa)).isSome then false
    else s.portBusy pa (write && !s.cachedInL2 w pa) || (s.cachedInL2 w pa && !s.l2Room w pa)
  else false

/-- Read bytes within one sector at its home, for cluster port `c` (R20): the bytes and whether any is poisoned; none
when the home refuses the request, of a world that does not own the sector (R23, R27). A read that misses in the L2
allocates the sector there, with the packet that filled it; a hit forwards that packet (R398). -/
def State.homeRead (s : State) (w pa n : Nat) (c : Option Nat := none) : State × Option (List Byte × Bool) :=
  let pa := s.forwardPa pa
  let k := sectorOf pa
  let off := pa % 64
  let hit (s : State) (v : Sector) : State × Option (List Byte × Bool) :=
    if v.world = w then
      let r := s.arrive 0 pa c
      (r.1, some (v.slice off n, v.hurt off n || r.2))
    else (s.refuseAt w pa, none)
  match tabFind s.turn k, tabFind s.l2 k with
  | some v, _ => hit s v
  | none, some v => hit s v
  | none, none =>
    match s.portRead w pa with
    | (s, none) => (s, none)
    | (s, some (bytes, poison)) =>
      let q := s.sendPacket w 0 pa c
      let r := q.1.arrive 0 pa c
      let v : Sector := { world := w, bytes, poison, nonce := q.2 }
      let s := if r.1.cachedInL2 w pa then (r.1.l2Put w pa v).getD r.1 else r.1
      (s, some (v.slice off n, v.hurt off n || r.2))

/-- Which bytes of a sector are poisoned at its home (R339). -/
def State.homeMarks (s : State) (pa : Nat) : Mask :=
  let pa := s.forwardPa (pa / 64 * 64)
  match tabFind s.turn (sectorOf pa), tabFind s.l2 (sectorOf pa) with
  | some v, _ => v.poison
  | none, some v => v.poison
  | none, none =>
    if s.rowOk pa && !(s.rowMeta pa).uncorr then maskWhere 64 (fun i => s.homePoison.contains (pa + i)) else fullMask

/-- Merge pieces, each a byte with its place and poison, into a sector at its home. -/
def Sector.mergeAll (v : Sector) (l : List (Nat × Byte × Bool)) : Sector :=
  l.foldl (fun v b => v.merge b.1 [b.2.1] b.2.2 true) v

/-- Pieces that arrive poisoned, all of them or as they are. -/
def spoil (p : Bool) (l : List (Nat × Byte × Bool)) : List (Nat × Byte × Bool) :=
  l.map (fun b => (b.1, b.2.1, b.2.2 || p))

/-- A packet of a write leaves cluster port `c` (R20, R398, R399): the state, the nonce, and whether it arrives poisoned. -/
def State.sendWrite (s : State) (w pa : Nat) (c : Option Nat) : State × Nat × Bool :=
  let q := s.sendPacket w 1 pa c
  let r := q.1.arrive 1 pa c
  (r.1, q.2, r.2)

/-- Write bytes within one sector at its home, for cluster port `c` (R20): `l` gives them by their place in the sector;
`direct` writes them, poisoned or not, at the slice port, where that is the home. A world that does not own the sector is
refused. A write that misses in the L2 fills the sector there first, with a packet of its own (R20, R398). -/
def State.homeMerge (s : State) (w pa : Nat) (l : List (Nat × Byte × Bool)) (direct : Bool → State → State)
    (c : Option Nat) : State :=
  let pa := s.forwardPa pa
  let k := sectorOf pa
  match tabFind s.turn k with
  | some v =>
    if v.world ≠ w then s.refuseAt w pa
    else
      let q := s.sendWrite w pa c
      { q.1 with turn := tabPut q.1.turn k { v.mergeAll (spoil q.2.2 l) with nonce := q.2.1 } }
  | none =>
    match tabFind s.l2 k with
    | some v =>
      if v.world ≠ w then s.refuseAt w pa
      else
        let q := s.sendWrite w pa c
        { q.1 with l2 := tabPut q.1.l2 k { v.mergeAll (spoil q.2.2 l) with nonce := q.2.1 } }
    | none =>
      let here (s : State) : State :=
        let q := s.sendWrite w pa c
        direct q.2.2 q.1
      if s.cachedInL2 w pa && s.l2Room w pa then
        match s.portRead w pa with
        | (s, none) => s
        | (s, some (old, hurt)) =>
          let q := (s.sendPacket w 0 pa c).1.sendWrite w pa c
          let v : Sector := { world := w, bytes := old, poison := hurt }
          (q.1.l2Put w pa { v.mergeAll (spoil q.2.2 l) with nonce := q.2.1 }).getD (direct q.2.2 q.1)
      else here s

/-- Write bytes within one sector at its home. -/
def State.homeWrite (s : State) (w pa : Nat) (bytes : List Byte) (poison : Bool) (c : Option Nat := none) : State :=
  s.homeMerge w pa ((indexed bytes).map (fun b => (s.forwardPa pa % 64 + b.1, b.2, poison)))
    (fun p s => s.portWrite w pa bytes (poison || p)) c

/-- Read a range of one page at its homes; bytes that a port refuses to give are undefined. -/
def State.homeReadAll (s : State) (w pa n : Nat) (port : Option Nat := none) : State × List Byte × Bool :=
  (chunks n pa n).foldl (fun (r : State × List Byte × Bool) c =>
    match r.1.homeRead w c.1 c.2 port with
    | (s, some (b, p)) => (s, r.2.1 ++ b, r.2.2 || p)
    | (s, none) =>
      (s.bumpFree, r.2.1 ++ (List.range c.2).map (fun i => Config.freeByte (64 * s.free + i)), r.2.2)) (s, [], false)

/-- Write a range of one page at its homes. -/
def State.homeWriteAll (s : State) (w pa : Nat) (bytes : List Byte) (poison : Bool) (port : Option Nat := none) :
    State :=
  (chunks bytes.length pa bytes.length).foldl (fun s c =>
    s.homeWrite w c.1 ((bytes.drop (c.1 - pa)).take c.2) poison port) s

/-- A sector leaves the turnstile: it is written back to the L2 or the slice port (R319). -/
def State.flushTurn (s : State) (k : Nat) : State :=
  match tabFind s.turn k with
  | none => s
  | some v =>
    let s := { s with turn := tabDel s.turn k }
    match (if s.cachedInL2 v.world (64 * k) then s.l2Put v.world (64 * k) { v with tag := 0 } else none) with
    | some t => t
    | none => s.sectorToPort k v

/-- The sectors of a row, by number. -/
def rowSectors (pa : Nat) : List Nat := (List.range 16).map (fun i => pa / 1024 * 16 + i)

/-! ## The scratchpad (R201, R202, R281) -/

/-- Swz(a, k) (R201). -/
def swz (a k : Nat) : Nat := a ^^^ (16 * (a / 2 ^ (k + 4) % 2 ^ k))

/-- The bytes of scratchpad of a troupe of the launch (R264). -/
def spadBytes (h : Header) : Nat := h.spad * 131072

/-- A byte of a troupe's scratchpad, at a physical offset. -/
def Troupe.spadByte (t : Troupe) (o : Nat) : Byte := tabGet 0 t.spad o

/-- Bytes of a troupe's scratchpad from a physical offset on. -/
def Troupe.spadGet (t : Troupe) (o n : Nat) : List Byte := (List.range n).map (fun i => t.spadByte (o + i))

/-- Write bytes of a troupe's scratchpad from a physical offset on, with their poison. -/
def Troupe.spadPut (t : Troupe) (o : Nat) (bytes : List Byte) (poison : Bool) : Troupe :=
  let out (l : List Nat) : List Nat := l.filter (fun a => !(decide (o ≤ a) && decide (a < o + bytes.length)))
  let rest := out t.spadPoison
  { t with
    spad := (indexed bytes).foldl (fun m p => tabSet 0 m (o + p.1) p.2) t.spad
    spadOwn := out t.spadOwn
    spadPoison := if poison then rest ++ (List.range bytes.length).map (fun i => o + i) else rest }

/-- Is any byte of a scratchpad range poisoned? -/
def Troupe.spadHurt (t : Troupe) (o n : Nat) : Bool :=
  t.spadPoison.any (fun a => decide (o ≤ a) && decide (a < o + n))

/-- Set the span tag of the segment of a physical offset (R202). -/
def Troupe.setTag (t : Troupe) (o k : Nat) : Troupe := { t with tags := tabSet 0 t.tags (o / 2048) k }

end Sys2Proof.Machine
end

