-- ==== Sys2Proof/Machine/Regs.lean ====
section
/-! DEFINITION. The lane state of a group: vector registers, predicates, masks, the collector latch and the death of
lanes (spec/02_state.md R34 to R43, R54, spec/13_faults.md R339, R340), and how a run goes on from one lane word to
the next (spec/04_encoding.md R93, R94, spec/07_isa_lane.md R159, R160). -/

namespace Sys2Proof.Machine

/-! ## Registers -/

/-- Vector register `r` of a lane (R34). -/
def Group.vr (g : Group) (r lane : Nat) : Word32 := tabGet 0 g.vregs (64 * r + lane)

/-- Predicate `p` of the lanes (R34). -/
def Group.pr (g : Group) (p : Nat) : Mask := tabGet 0 g.preds p

/-- Registers that a latched fragment of a class occupies: the A registers and the scale (R54, R200). -/
def latchRegs (l : Latch) : Nat := aRegs l.cls + 1

/-- A write to a register releases a latch that covers it (R54, R204). -/
def Group.touch (g : Group) (r : Nat) : Group :=
  match g.latch with
  | some l => if l.base ≤ r ∧ r < l.base + latchRegs l then { g with latch := none } else g
  | none => g

/-- Write a vector register in one lane; poison that stood there is gone. -/
def Group.setV (g : Group) (r lane : Nat) (v : Word32) : Group :=
  { (g.touch r) with
    vregs := tabSet 0 g.vregs (64 * r + lane) v
    poison := g.poison.filter (fun m => !(m.file == 0 && m.num == r && m.lane == lane)) }

/-- Write consecutive vector registers in one lane. -/
def Group.setVs (g : Group) (r lane : Nat) : List Word32 → Group
  | [] => g
  | v :: l => (g.setV r lane v).setVs (r + 1) lane l

/-- Write a predicate in the lanes of a mask. -/
def Group.setP (g : Group) (p : Nat) (lanes bits : Mask) : Group :=
  { g with
    preds := tabSet 0 g.preds p ((g.pr p &&& ~~~lanes) ||| (bits &&& lanes))
    poison := g.poison.filter (fun m => !(m.file == 2 && m.num == p && lanes.getLsbD m.lane)) }

/-- OLDLANE of a lane (R40). -/
def Group.old (g : Group) (lane : Nat) : Word32 := tabGet 0 g.oldlane lane

/-- A scalar register of a group's context. -/
def Group.sr (g : Group) (r : Nat) : Word64 := if r = 0 then 0 else tabGet 0 g.sregs r

/-- Write EXM (R43): bits above W and dead lanes are dropped. -/
def Group.setExm (g : Group) (m : Mask) : Group := { g with exm := m &&& allLanes g.w &&& ~~~g.deadm }

/-! ## Death of lanes (R340) -/

/-- A lane dies: its DEADM bit is set; a helper flag goes with it (R41). -/
def Group.kill (g : Group) (lane : Nat) : Group :=
  { g with deadm := g.deadm ||| oneLane lane, helpm := g.helpm &&& ~~~oneLane lane }

/-- A lane of a group dies, with an entry in the world's log (R340, R387 KIND 0x11), unless it has died already (R430).
`fromReg`: the poison came from a register, of the operand value `addr`; otherwise with an access to the address `addr`. -/
def State.killLane (s : State) (gid lane : Nat) (fromReg : Bool) (addr pc : Nat) : State :=
  if (s.group gid).deadm.getLsbD lane then s
  else
  let l := s.launchOf gid
  let s := s.log l.world (s.logHead 0x11 l.world l.seq |||
    packBits [(lane, 128), (s.gidBits gid, 136), (if fromReg then 1 else 0, 163), (addr % 2 ^ 64, 192),
      (pc % 2 ^ 64, 256)])
  (s.modGroup gid (fun g => g.kill lane)).countIn l.world cLanedeath

/-! ## How a run goes on -/

/-- The address of the run's next lane word (R82). -/
def State.laneAddr (s : State) (gid : Nat) (r : Run) : Nat :=
  ((s.launchOf gid).lcodeBase + 12 * r.next) % 2 ^ 64

/-- The run goes on to the word that a `REP` repeats, when the lead of a pair that has split since was past the `REP` (R93). -/
def Run.enterRep (r : Run) : Option Run :=
  r.repDue.map (fun q => { r with next := r.next + 1, rep := some q, leadDone := false, repDue := none })

/-- A run after its word, or repetition, has issued (R93, R94): none when that was the last. -/
def Run.after (r : Run) (e : Bool) : Option Run :=
  match r.rep with
  | some q =>
    if q.done + 1 < q.count then
      some { r with rep := some { q with done := q.done + 1 }, leadDone := false, matrixLast := false }
    else if e then none
    else some { r with rep := none, next := r.next + 1, counted := r.counted + 1, leadDone := false, matrixLast := false }
  | none =>
    if e then none
    else
      some
        { r with
          next := r.next + 1
          counted := r.counted + 1
          leadDone := false
          regroup := none
          matrixLast := false }

/-- The head run of a group's lane queue goes on; a run that has issued its last word leaves the queue (R145). -/
def Group.stepRun (g : Group) (e : Bool) : Group :=
  match g.laneq with
  | [] => { g with lwait := none }
  | r :: l =>
    match r.after e with
    | some r' => { g with laneq := r' :: l, lwait := none }
    | none => { g with laneq := l, lwait := none }

/-- The word at the head has issued in the half `gid`: in a converged pair the lead's half first and then the double's
(R160), and the runs go on when both have. -/
def State.laneDone (s : State) (gid : Nat) (e : Bool) : State :=
  if (s.group gid).converged then
    if (s.group gid).isDouble then
      (s.modGroup gid (fun g => g.stepRun e)).modGroup (leadOf gid) (fun g => g.stepRun e)
    else
      s.modGroup gid (fun g =>
        { g with
          lwait := none
          laneq := match g.laneq with
            | [] => []
            | r :: l => { r with leadDone := true } :: l })
  else s.modGroup gid (fun g => g.stepRun e)

/-- The word has issued once for a converged pair: both runs go on (R209, R210). -/
def State.laneDoneBoth (s : State) (gid : Nat) (e : Bool) : State :=
  (s.halvesOf gid).foldl (fun s k => s.modGroup k (fun g => g.stepRun e)) s

/-- The lane word at the head waits. -/
def State.laneWaits (s : State) (gid : Nat) (w : WaitOn) : State :=
  s.modGroup gid (fun g => { g with lwait := some w })

end Sys2Proof.Machine
end

