-- ==== Sys2Proof/Machine/Xlate.lean ====
section
/-! DEFINITION. Translation of virtual addresses (spec/11_memory.md R300 to R304): the four-level walk, the TLBs,
replayable faults and their records (spec/19_host.md R384, R385). -/

namespace Sys2Proof.Machine

/-- What an access does, for its permission and for the fault record (R303, R385). -/
inductive AccKind where
  | read
  | write
  | fetch
  deriving DecidableEq, Repr

/-- The code of an access kind in a fault record (R385). -/
def kindCode : AccKind → Nat
  | .read => 0
  | .write => 1
  | .fetch => 2

/-- How a translation ends (R303): the physical address with the page's W and X; a trap with its cause (R329); a
replayable fault; or an entry that cannot be read now, because a BSU holds its bank (R244). -/
inductive Xl where
  | ok (pa : Nat) (w x : Bool)
  | trap (cause : Nat)
  | fault
  | busy
  deriving DecidableEq, Repr

/-- Is every byte of a range memory that the world owns, an outbound aperture included (R302, R418)? -/
def State.ownsRange (s : State) (w pa n : Nat) : Bool :=
  if pa + n ≤ deviceBytes then
    (List.range (sliceOfPa (pa + n - 1) + 1 - sliceOfPa pa)).all
      (fun i => decide ((s.slice (sliceOfPa pa + i)).owner = some w))
  else
    (s.world w).apOut.any (fun p =>
      match p.2 with
      | some a => decide (a.a ≤ pa) && decide (pa + n ≤ a.a + a.b)
      | none => false)

/-- One table entry, read at its home for a cluster port or for none (R302); none when it cannot be read now. -/
def State.readEntry (s : State) (w pa : Nat) (port : Option Nat := none) : State × Option Nat :=
  if s.homeBusy w pa false then (s, none)
  else if pa < deviceBytes then
    let r := s.homeReadAll w pa 8 port
    (r.1, some (bytesNat r.2.1))
  else (s.bumpFree, some (bytesNat ((List.range 8).map (fun i => Config.freeByte (64 * s.free + i)))))

/-- The bytes that a leaf at a level maps (R300). -/
def leafBytes (level : Nat) (huge : Bool) : Nat :=
  if level = 1 then 2 ^ 30 else if huge then 2 ^ 21 else 2 ^ 16

/-- The bytes of the table below a level (R300). -/
def tableBytes (level : Nat) : Nat := if level = 1 then 2 ^ 17 else 2 ^ 12

/-- The lowest address bit that indexes a level, and its index bits (R300). -/
def levelShift : Nat → Nat
  | 0 => 16
  | 1 => 30
  | 2 => 39
  | _ => 48

/-- The index of an address at a level (R300). -/
def levelIndex (level va : Nat) : Nat :=
  (va >>> levelShift level) % (if level = 0 then 2 ^ 14 else 2 ^ 9)

/-- Bits [51:12] of an entry, as an address (R301). -/
def entryFrame (e : Nat) : Nat := bitsOf e 51 12 * 4096

/-- Is an entry malformed for its level (R301, R303)? -/
def entryBad (level e : Nat) : Bool :=
  let leaf := bitOf e 1
  let huge := bitOf e 4
  bitsOf e 63 52 != 0 || bitsOf e 11 5 != 0 || (huge && level != 0) || (leaf && decide (2 ≤ level)) ||
    (!leaf && level == 0) ||
    entryFrame e % (if leaf then leafBytes level huge else tableBytes level) != 0

/-- The walk below a table of a level (R300 to R303): physical address of the byte, the page's W and X. -/
def State.walkFrom (s : State) (w va : Nat) (port : Option Nat) : Nat → Nat → State × Xl
  | level, table =>
    match s.readEntry w (table + 8 * levelIndex level va) port with
    | (s, none) => (s, .busy)
    | (s, some e) =>
      if !bitOf e 0 then (s, .fault)
      else if entryBad level e then (s, .trap 1)
      else
        let f := entryFrame e
        if bitOf e 1 then
          let n := leafBytes level (bitOf e 4)
          if s.ownsRange w f n then (s, .ok (f + va % n) (bitOf e 2) (bitOf e 3)) else (s, .trap 2)
        else if !s.ownsRange w f (tableBytes level) then (s, .trap 2)
        else
          match level with
          | 0 => (s, .trap 1)
          | k + 1 => s.walkFrom w va port k f

/-- A walk from the world's root (R300): a world without tables has no mapping. -/
def State.walk (s : State) (w va : Nat) (port : Option Nat := none) : State × Xl :=
  match tabGet none (s.world w).areas 4 with
  | none => (s, .trap 0)
  | some root => s.walkFrom w va port 3 root.base

/-- A cached translation, in the core's TLB or the die's (R302). -/
def State.tlbFind (s : State) (core w va : Nat) : Option TlbEntry :=
  let hit (e : TlbEntry) : Bool := e.world == w && e.vpn == va / 65536
  match (s.core core).tlb.find? hit with
  | some e => some e
  | none => (tabGet [] s.dieTlb (coreDie core)).find? hit

/-- Entries of a core's TLB and of a die's (R302). -/
def tlbEntries : Nat := 512
/-- Entries of the shared TLB of a die (R302). -/
def dieTlbEntries : Nat := 32768

/-- Keep a translation in the core's TLB and the die's. -/
def State.tlbFill (s : State) (core w va pa : Nat) (wr x : Bool) : State :=
  let e : TlbEntry := { world := w, vpn := va / 65536, frame := pa / 65536 * 65536, w := wr, x := x }
  let s := s.modCore core (fun c => { c with tlb := (e :: c.tlb).take tlbEntries })
  let d := coreDie core
  { s with dieTlb := tabSet [] s.dieTlb d ((e :: tabGet [] s.dieTlb d).take dieTlbEntries) }

/-- The permission check of R303, on a translation that found a page. -/
def permit (k : AccKind) (pa : Nat) (w x : Bool) : Xl :=
  match k with
  | .read => .ok pa w x
  | .write => if w then .ok pa w x else .trap 0
  | .fetch => if x then .ok pa w x else .trap 0

/-- Can the translation end at once, by a TLB hit or an illegal address (R131)? -/
def State.xlateHit (s : State) (core w va : Nat) (k : AccKind) : Option Xl :=
  if 2 ^ 57 ≤ va then some (.trap 3)
  else
    match s.tlbFind core w va with
    | some e => some (permit k (e.frame + va % 65536) e.w e.x)
    | none => none

/-- Translate an address of a core's access (R300 to R303), walking the tables on a TLB miss. -/
def State.xlate (s : State) (core w va : Nat) (k : AccKind) : State × Xl :=
  match s.xlateHit core w va k with
  | some r => (s, r)
  | none =>
    match s.walk w va (portOf core) with
    | (s, .ok pa wr x) => (s.tlbFill core w va pa wr x, permit k pa wr x)
    | r => r

/-- Translate an address of the launch unit (R438), which keeps no translation. -/
def State.xlateLaunch (s : State) (w va : Nat) (k : AccKind) : State × Xl :=
  if 2 ^ 57 ≤ va then (s, .trap 3)
  else
    match s.walk w va with
    | (s, .ok pa wr x) => (s, permit k pa wr x)
    | r => r

/-- The 24-bit field of a fault record that names the faulting access (R385); the launch unit names no core. -/
def State.faultDesc (s : State) : Faulter → Nat
  | .access gid aid _ =>
    s.gidBits gid % 2 ^ 17 + 2 ^ 17 * (((s.group gid).acc aid).map (fun a => pathCode a.path)).getD 0
  | .fetch gid _ => s.gidBits gid % 2 ^ 17
  | .engine gid path _ => s.gidBits gid % 2 ^ 17 + 2 ^ 17 * path
  | .launch _ => 0
  | .slot _ => 0

/-- Park on a replayable fault (R304, R385): faults to one page share one record; a new one gets the next sequence
number. The number of the record parked on. -/
def State.park (s : State) (w va : Nat) (k : AccKind) (who : Faulter) : State × Nat :=
  let v := s.world w
  match v.faults.find? (fun f => f.page == va / 65536) with
  | some f =>
    let add (r : FaultRec) : FaultRec := if r.seq = f.seq then { r with who := r.who ++ [who] } else r
    (s.setWorld w { v with faults := v.faults.map add }, f.seq)
  | none =>
    let f : FaultRec := { page := va / 65536, va := va, desc := s.faultDesc who, kind := kindCode k, who := [who], seq := v.faultSeq }
    (s.setWorld w { v with faults := v.faults ++ [f], faultSeq := (v.faultSeq + 1) % 2 ^ 32 }, v.faultSeq)

end Sys2Proof.Machine
end

