-- ==== Sys2Proof/Machine/Access.lean ====
section
/-! DEFINITION. Accesses of a group: their issue, translation, and how they are performed through the store queue, the
L1, the write buffer, the constant cache, the home, the turnstile and the take-hold area (spec/11_memory.md R276 to
R294, R303 to R305; spec/06_isa_scalar.md R130, R131; spec/07_isa_lane.md R190 to R193; spec/13_faults.md R337). -/

namespace Sys2Proof.Machine

/-! ## What a core holds newer than the home (R276, R288) -/

/-- Do two byte ranges overlap? -/
def overlaps (a n b m : Nat) : Bool := decide (a < b + m) && decide (b < a + n)

/-- Does a range of `n` bytes from `a` hold the byte `x`? -/
def inRange (a n x : Nat) : Bool := decide (a ≤ x) && decide (x < a + n)

/-- Bytes that one part of an access moves: a lane's access of 16 bytes has two parts (R192). -/
def Access.part (a : Access) : Nat := min a.size 8

/-- The lane of a part of an access. -/
def LaneAcc.of (l : LaneAcc) : Nat := l.lane % 128

/-- The parts of one lane's access (R192): one, or, of 16 bytes, the lower and the upper half. -/
def laneParts (lane addr size : Nat) (data : List Byte) (stage : LaneStage) : List LaneAcc :=
  if size ≤ 8 then [{ lane, addr, data, stage }]
  else [{ lane, addr, data := data.take 8, stage }, { lane := lane + 128, addr := addr + 8, data := data.drop 8, stage }]

/-- A byte of the group's own stores that are issued before the access `aid` and still queued: the youngest, and in
one store the highest lane (R191, R288); with the store and its part. A part not yet translated is matched by its
virtual address. -/
def Group.queuedStore (g : Group) (aid : Nat) (space : Space) (va pa : Nat) : Option (Nat × Nat × Byte) :=
  let older := (g.accs.takeWhile (fun a => a.aid != aid)).filter
    (fun a => a.path == .ls && a.op == .store && !a.left && a.space == space)
  older.reverse.findSome? (fun a =>
    a.lanes.reverse.findSome? (fun l =>
      match l.stage with
      | .done => none
      | .refused _ => none
      | .ready => if inRange l.pa a.part pa then some (a.aid, l.lane, byteAt l.data (pa - l.pa)) else none
      | _ => if inRange l.addr a.part va then some (a.aid, l.lane, byteAt l.data (va - l.addr)) else none))

/-- The byte of such a store. -/
def Group.queuedByte (g : Group) (aid : Nat) (space : Space) (va pa : Nat) : Option Byte :=
  (g.queuedStore aid space va pa).map (·.2.2)

/-- A byte that a take of the troupe holds (R337), the youngest, and whether it is poisoned (R339). -/
def Troupe.heldAt (t : Troupe) (pa : Nat) : Option (Byte × Bool) :=
  t.hold.reverse.findSome? (fun h =>
    if inRange h.pa h.bytes.length pa then some (byteAt h.bytes (pa - h.pa), h.poison) else none)

/-- Such a byte. -/
def Troupe.heldByte (t : Troupe) (pa : Nat) : Option Byte := (t.heldAt pa).map (·.1)

/-- Is a byte that is read poisoned: as a take holds it, or else as it was found? -/
def Troupe.heldHurt (t : Troupe) (pa : Nat) (found : Bool) : Bool := ((t.heldAt pa).map (·.2)).getD found

/-- The byte of an entry of a write buffer at an address, if it has one. -/
def WEntry.byte (e : WEntry) (pa : Nat) : Option Byte :=
  if inRange e.pa e.bytes.length pa then some (byteAt e.bytes (pa - e.pa)) else none

/-- The youngest entry of the core's write buffer that has a byte (R277). -/
def Core.wbufEntry (c : Core) (pa : Nat) : Option WEntry := c.wbuf.reverse.find? (fun e => (e.byte pa).isSome)

/-- A byte of the core's write buffer (R277), the youngest. -/
def Core.wbufByte (c : Core) (pa : Nat) : Option Byte := (c.wbufEntry pa).bind (fun e => e.byte pa)

/-- Overlay newer bytes on the bytes of a range. -/
def overlay (f : Nat → Option Byte) (l : List Byte) : List Byte :=
  (indexed l).map (fun p => (f p.1).getD p.2)

/-- A dirty byte of the L1. -/
def Core.dirtyByte (c : Core) (pa : Nat) : Option Byte :=
  match tabFind c.l1 (sectorOf pa) with
  | some v => if v.dirty.getLsbD (pa % 64) then some (tabGet 0 v.bytes (pa % 64)) else none
  | none => none

/-- The rank of a scope, narrowest first (R10). -/
def scopeRank : Scope → Nat
  | .grp => 0
  | .core => 1
  | .booth => 2
  | .die => 3
  | .dev => 4
  | .sys => 5

/-! ## Orders of an instance (R286, R287)

R287 gives an order at BOOTH or DIE to the instance of that scope alone: a party outside it may see the later write and
miss the earlier one (R295, R352), and the example of R353 has a producer's stores reach their home after its
`FENCE.rel.die`. An order at such a scope may therefore stop waiting for an entry of a write buffer (entry 20); every
access of the writer's own instance to its bytes then waits until their home has them. -/

/-- Does the instance of a scope that holds an entry's writer hold a core (R285)? A core of another world has no part in
it (R27). -/
def State.instanceHolds (s : State) (holder : Nat) (e : WEntry) (core : Nat) (sc : Scope) : Bool :=
  decide ((s.core core).owner = some e.world) &&
    (match sc with
     | .die => coreDie holder == coreDie core
     | .booth =>
       let t := s.troupe (e.gid / 16)
       let h := ((s.launch t.lid).hdr).getD noHeader
       holder == core || (s.troupesOf t.lid).any (fun k =>
         let u := s.troupe k
         u.core == core && decide (boothOf h u = boothOf h t))
     | _ => false)

/-- Must a core's access to a range wait, because an order that it has a part in comes after a store of another core that
is still on its way there? -/
def State.seenBlocks (s : State) (core pa n : Nat) : Bool :=
  s.cores.any (fun p => p.1 != core && p.2.wbuf.any (fun e => e.seen.any (s.instanceHolds p.1 e core) &&
    overlaps e.pa e.bytes.length pa n))

/-! ## The L1 (R2, R15, R276 to R278) -/

/-- Bytes of a core's SRAM, and of its steps (R2, R15). -/
def sramBytes : Nat := 2 ^ 20

/-- Lines of 128 bytes that a core's L1 holds: the SRAM that the scratchpad leaves (R15, R264). -/
def Core.l1Lines (c : Core) : Nat := (sramBytes - c.split) / 128

/-- The lines that a core's L1 holds now: a line is two sectors (R276). -/
def Core.l1Held (c : Core) : List Nat := (c.l1.map (fun p => p.1 / 2)).eraseDups

/-- Does a core's L1 hold a sector's line, or have a line free? -/
def Core.l1Free (c : Core) (k : Nat) : Bool :=
  c.l1.any (fun p => p.1 / 2 == k / 2) || decide (c.l1Held.length < c.l1Lines)

/-- The consecutive dirty bytes of a sector at a physical address, as entries of a write buffer: for peer memory, to
which an L1 writes back over a port (R278). -/
def backEntries (core k : Nat) (v : Sector) : List WEntry :=
  v.dirtyBytes.map (fun b =>
    { gid := core, aid := k, lane := 2000 + b.1, world := v.world, pa := 64 * k + b.1, bytes := [b.2.1], booth := false,
      side := 1, poison := b.2.2 })

/-- Write a dirty sector's bytes at its home, for the cluster port of a core. -/
def State.homeWriteSector (s : State) (k : Nat) (v : Sector) (port : Option Nat) : State :=
  s.homeMerge v.world (64 * k) v.dirtyBytes
    (fun p s => s.sectorToPort k (if p then { v with poison := v.poison ||| v.dirty } else v)) port

/-- Can a dirty sector of a core's L1 be written back now? Older stores to it in the write buffer go first. -/
def State.canWriteBack (s : State) (core k : Nat) : Bool :=
  match tabFind (s.core core).l1 k with
  | none => true
  | some v => v.dirty == 0 || (!s.homeBusy v.world (64 * k) true && !s.seenBlocks core (64 * k) 64 &&
      !(s.core core).wbuf.any (fun e => sectorOf e.pa == k))

/-- Write back a sector of a core's L1; it stays, clean (R278). -/
def State.writeBackL1 (s : State) (core k : Nat) : State :=
  match tabFind (s.core core).l1 k with
  | none => s
  | some v =>
    if v.dirty = 0 then s
    else
      let s := if deviceBytes ≤ 64 * k then s.modCore core (fun c => { c with wbuf := c.wbuf ++ backEntries core k v })
        else s.homeWriteSector k v (portOf core)
      s.modCore core (fun c => { c with l1 := tabPut c.l1 k { v with dirty := 0, atCore := 0, atBooth := 0 } })

/-- The tag of a sector (R276): the widest scope of its dirty bytes, 0 GROUP, 1 CORE, 2 BOOTH. -/
def Sector.scopeTag (v : Sector) : Nat :=
  if v.dirty &&& v.atBooth != 0 then 2 else if v.dirty &&& v.atCore != 0 then 1 else 0

/-- The dirty sectors of a core's L1 that a release at a scope writes back (R229, R292): those whose tag, or a byte that
the tag hides, is narrower than the scope. -/
def Core.dirtyBelow (c : Core) (sc : Scope) : List Nat :=
  sectorsWhere c.l1 (fun _ v => v.dirty != 0 &&
    (decide (v.scopeTag < scopeRank sc) || (decide (2 ≤ scopeRank sc) && v.dirty &&& ~~~v.atBooth != 0)))

/-- Drop every clean sector of a core's L1 (R292). -/
def Core.dropClean (c : Core) : Core := { c with l1 := c.l1.filter (fun p => p.2.dirty != 0) }

/-- The lines that can leave a core's L1 now, to make room. -/
def State.l1Leavers (s : State) (core : Nat) : List Nat :=
  (s.core core).l1Held.filter (fun n => s.canWriteBack core (2 * n) && s.canWriteBack core (2 * n + 1))

/-- A line leaves a core's L1: its dirty bytes are written back (R278). -/
def State.dropLine (s : State) (core n : Nat) : State :=
  ((s.writeBackL1 core (2 * n)).writeBackL1 core (2 * n + 1)).modCore core (fun c =>
    { c with l1 := tabDel (tabDel c.l1 (2 * n)) (2 * n + 1) })

/-- Make room in a core's L1 for a sector: a full L1 gives up a line, which no rule names (R278); none while no line can
leave. -/
def State.l1Make (s : State) (core k : Nat) : Option State :=
  if (s.core core).l1Free k then some s
  else (victimOf s.free (s.l1Leavers core)).map (fun n => s.bumpFree.dropLine core n)

/-- A sector of the home as the core fills it into its L1: with the write buffer's newer bytes. Of peer memory it holds
nothing but what is stored there or returned to it. -/
def State.fillSector (s : State) (core w pa : Nat) : State × Option Sector :=
  let base := pa / 64 * 64
  if deviceBytes ≤ base then (s, some { world := w, bytes := [], lack := fullMask })
  else
    match s.homeRead w base 64 (portOf core) with
    | (s, none) => (s, none)
    | (s, some (bytes, spoiled)) =>
      let c := s.core core
      let own (i : Nat) : Option Byte := c.wbufByte (base + i)
      let marks := if spoiled && s.homeMarks pa == 0 then fullMask else s.homeMarks pa
      let hurt := maskWhere 64 (fun i =>
        match c.wbufEntry (base + i) with
        | some e => e.poison
        | none => marks.getLsbD i)
      (s, some { world := w, bytes := (indexed (overlay own bytes)).foldl (fun t p => tabSet 0 t p.1 p.2) [], poison := hurt })

/-- Can a sector be had in the core's L1 now: it is there, or its home and a line are free? -/
def State.l1Can (s : State) (core w pa : Nat) : Bool :=
  (tabFind (s.core core).l1 (sectorOf pa)).isSome ||
    (!s.homeBusy w pa false && !s.seenBlocks core (pa / 64 * 64) 64 && (s.l1Make core (sectorOf pa)).isSome)

/-- Have a sector valid in the core's L1, filled from the home on a miss (R276, R277). -/
def State.l1Have (s : State) (core w pa : Nat) : State × Option Sector :=
  match tabFind (s.core core).l1 (sectorOf pa) with
  | some v => (s, some v)
  | none =>
    match ((s.l1Make core (sectorOf pa)).getD s).fillSector core w pa with
    | (s, none) => (s, none)
    | (s, some v) => (s.modCore core (fun c => { c with l1 := tabPut c.l1 (sectorOf pa) v }), some v)

/-- Bytes that a refusing slice port leaves undefined (R23). -/
def State.freeBytes (s : State) (n : Nat) : State × List Byte :=
  (s.bumpFree, (List.range n).map (fun i => Config.freeByte (64 * s.free + i)))

/-- The byte that a core holds newer than its home, and whether it is poisoned (R276, R339): dirty in its L1, or in its
write buffer. -/
def Core.newer (c : Core) (pa : Nat) : Option (Byte × Bool) :=
  match c.dirtyByte pa with
  | some b => some (b, ((tabFind c.l1 (sectorOf pa)).map (fun v => v.poison.getLsbD (pa % 64))).getD false)
  | none => (c.wbufEntry pa).bind (fun e => (e.byte pa).map (fun b => (b, e.poison)))

/-- Is the byte that a lane load beyond the core reads at a physical address poisoned (R276, R339)? A byte that the core
holds newer than the home is as the core has it. -/
def State.lsHurt (s : State) (core pa : Nat) : Bool :=
  (((s.core core).newer pa).map (·.2)).getD ((s.homeMarks pa).getLsbD (pa % 64))

/-- Bytes that a load brought refresh a valid sector of the core's L1 (R276): those that are not dirty there, with their
poison. -/
def Core.refresh (c : Core) (pa : Nat) (bytes : List Byte) (hurt : Nat → Bool) : Core :=
  { c with
    l1 := tabModify c.l1 (sectorOf pa) (fun v =>
      let v := (indexed bytes).foldl (fun v p =>
        if v.dirty.getLsbD (pa % 64 + p.1) then v else v.merge (pa % 64 + p.1) [p.2] (hurt p.1) false) v
      { v with lack := v.lack &&& ~~~byteMask (pa % 64) bytes.length }) }

/-- A load's bytes refresh the sector of a core's L1 that holds them, if one does (R276). -/
def State.refreshL1 (s : State) (core pa : Nat) (bytes : List Byte) (hurt : Nat → Bool) : State :=
  if (tabFind (s.core core).l1 (sectorOf pa)).isSome then s.modCore core (fun c => c.refresh pa bytes hurt) else s

/-- The bytes that a lane load on the LS path reads at a physical address of device memory (R276), before the group's
own queued and held stores are laid over them; which of them are poisoned. -/
def State.lsBytes (s : State) (core w pa n : Nat) (sc : Scope) : State × List Byte × List Bool :=
  let sound : List Bool := List.replicate n false
  if scopeRank sc ≤ 1 then
    match s.l1Have core w pa with
    | (s, some v) => (s, v.slice (pa % 64) n, (List.range n).map (fun i => v.poison.getLsbD (pa % 64 + i)))
    | (s, none) =>
      let r := s.freeBytes n
      (r.1, r.2, sound)
  else
    match s.homeRead w pa n (portOf core) with
    | (s, none) =>
      let r := s.freeBytes n
      (r.1, r.2, sound)
    | (s, some (bytes, spoiled)) =>
      let c := s.core core
      let own (i : Nat) : Option Byte := (c.newer (pa + i)).map (·.1)
      let newer := overlay own bytes
      let all := spoiled && (s.homeMarks pa &&& byteMask (pa % 64) n) == 0
      let hurt (i : Nat) : Bool := s.lsHurt core (pa + i) || (all && (own i).isNone)
      (s.refreshL1 core pa newer hurt, newer, (List.range n).map hurt)

/-- Sectors that a core's constant cache of 64 KiB holds (R2, R14). -/
def constSectors : Nat := 1024

/-- A sector comes into a core's constant cache; a full one gives up a sector, which no rule names. -/
def State.constFill (s : State) (core k : Nat) (v : Sector) : State :=
  let held := (s.core core).ccache
  let s := if held.length < constSectors then s
    else
      match victimOf s.free (held.map (·.1)) with
      | some o => s.bumpFree.modCore core (fun c => { c with ccache := tabDel c.ccache o })
      | none => s
  s.modCore core (fun c => { c with ccache := tabPut c.ccache k v })

/-- The bytes that a read on the CONST path returns (R279): through the constant cache for a page mapped without W,
from the home otherwise. -/
def State.constBytes (s : State) (core w pa n : Nat) (ro : Bool) : State × List Byte × Bool :=
  match (if ro then tabFind (s.core core).ccache (sectorOf pa) else none) with
  | some v => (s, v.slice (pa % 64) n, v.hurt (pa % 64) n)
  | none =>
    if ro then
      match s.homeRead w (pa / 64 * 64) 64 (portOf core) with
      | (s, none) =>
        let r := s.freeBytes n
        (r.1, r.2, false)
      | (s, some (bytes, spoiled)) =>
        let marks := if spoiled && s.homeMarks pa == 0 then fullMask else s.homeMarks pa
        let v : Sector :=
          { world := w, bytes := (indexed bytes).foldl (fun t p => tabSet 0 t p.1 p.2) [], poison := marks }
        let s := s.constFill core (sectorOf pa) v
        (s, v.slice (pa % 64) n, v.hurt (pa % 64) n)
    else
      match s.homeRead w pa n (portOf core) with
      | (s, none) =>
        let r := s.freeBytes n
        (r.1, r.2, false)
      | (s, some r) => (s, r.1, r.2)

/-! ## Takes (R336, R337) -/

/-- Does the group's troupe run with takes? -/
def State.takesOn (s : State) (gid : Nat) : Bool := (s.troupe (s.group gid).tid).takesOn

/-- Must a forcing operation of the group still wait for its take (R337)? -/
def State.needsTake (s : State) (gid : Nat) : Bool :=
  s.takesOn gid && decide ((s.troupe (s.group gid).tid).forced ≠ some gid)

/-- Ask for a take before the group's forcing operation: its troupe is to halt (R337). -/
def State.askTake (s : State) (gid : Nat) : State :=
  (s.modTroupe (s.group gid).tid (fun t => { t with takeFor := some gid })).askHalt (s.group gid).tid .take

/-- The forcing operation issues: its take is spent; `second` when another take follows its completion. -/
def State.spendTake (s : State) (gid : Nat) (second : Bool) : State :=
  if s.takesOn gid then
    s.modTroupe (s.group gid).tid (fun t =>
      { t with forced := if t.forced = some gid then none else t.forced, secondTakes := if second then gid :: t.secondTakes.erase gid else t.secondTakes })
  else s

/-! ### The context and take areas (R265, R336, R417) -/

/-- The part of an area of a world that a core has: base and size (R417). -/
def State.areaPart (s : State) (w kind core : Nat) : Option (Nat × Nat) :=
  match tabGet none (s.world w).areas kind with
  | some a =>
    if a.cores.contains core then
      let n := a.bytes / a.cores.length
      some (a.base + n * a.cores.findIdx (· == core), n)
    else none
  | none => none

/-- Is a function of the world host-assisted (R384)? -/
def World.assisted (w : World) (f : Nat) : Bool := w.modes.getLsbD f

/-- A range is written, for a cluster port or for none, whose layout no rule gives: its bytes are free values (entry 11). -/
def State.writeFree (s : State) (w pa n : Nat) (port : Option Nat := none) : State :=
  (chunks n pa n).foldl (fun s c =>
    let r := s.freeBytes c.2
    r.1.homeWriteAll w c.1 r.2 false port) s

/-- Must a write of a range wait at a home of it (R244)? -/
def State.rangeBusy (s : State) (w pa n : Nat) : Bool :=
  (List.range (ceilDiv n 1024 + 1)).any (fun i => s.homeBusy w (min (pa + 1024 * i) (pa + n - 1)) true)

/-- The part of the take area that a troupe's core has, while takes are stored in the world's slices: with the host's
assistance they are in host memory, at addresses that no rule gives (R384, R417). -/
def State.takePart (s : State) (tid : Nat) : Option Nat :=
  let t := s.troupe tid
  let w := (s.launch t.lid).world
  if (s.world w).assisted 5 then none else (s.areaPart w 1 t.core).map (·.1)

/-- Bytes of one of the two take buffers of a part; of its take-hold area, which follows them (R417). -/
def takeBytes : Nat := 3 * 2 ^ 20
/-- Bytes of the take-hold area of a core's part (R417). -/
def holdBytes : Nat := 2 ^ 21

/-- Bytes that a take holds back. -/
def Troupe.heldBytes (t : Troupe) : Nat := t.hold.foldl (fun k h => k + h.bytes.length) 0

/-- Where the take-hold area of a troupe takes its next bytes. -/
def State.holdPa (s : State) (tid : Nat) : Option Nat :=
  (s.takePart tid).map (fun pa => pa + 2 * takeBytes + (s.troupe tid).heldBytes)

/-- A store enters the take-hold area (R337); none while a bank holds that memory (R244). -/
def State.holdStore (s : State) (tid : Nat) (h : HeldStore) : Option State :=
  let w := (s.launch (s.troupe tid).lid).world
  let put (s : State) : State := s.modTroupe tid (fun t => { t with hold := t.hold ++ [h] })
  match s.holdPa tid with
  | none => some (put s)
  | some pa =>
    if s.rangeBusy w pa h.bytes.length then none
    else some (put (s.writeFree w pa h.bytes.length (portOf (s.troupe tid).core)))

/-- Is the take-hold area too full for `n` more bytes? -/
def Troupe.holdFull (t : Troupe) (n : Nat) : Bool :=
  decide (holdBytes < t.heldBytes + n)

/-! ## Values of loads (R191) -/

/-- The little-endian words of bytes. -/
def wordsOf (l : List Byte) : List Word32 :=
  (List.range (ceilDiv l.length 4)).map (fun i => BitVec.ofNat 32 (fieldAt l (4 * i) 4))

/-- The words that a load of some bytes writes: one word extended, or the words in address order. -/
def loadWords (signed : Bool) (bytes : List Byte) : List Word32 :=
  match bytes.length with
  | 1 => [if signed then (BitVec.ofNat 8 (bytesNat bytes)).signExtend 32 else BitVec.ofNat 32 (bytesNat bytes)]
  | 2 => [if signed then (BitVec.ofNat 16 (bytesNat bytes)).signExtend 32 else BitVec.ofNat 32 (bytesNat bytes)]
  | _ => wordsOf bytes

/-- The key of an access by which the runs of a pair know it: its number and the half that issued it. -/
def accKey (gid aid : Nat) : Nat := 2 * aid + gid % 2

/-- Data that arrives for scalar loads in flight at a `RUN` reaches the runs that copied the register (R118). -/
def Group.feedRuns (g : Group) (key : Nat) (v : Word64) : Group :=
  { g with
    laneq := g.laneq.map (fun r =>
      (r.spend.filter (fun p => p.2 == key)).foldl (fun r p =>
        { r with svals := tabSet 0 r.svals p.1 v, spend := r.spend.filter (fun q => q.2 != key) }) r) }

/-- Poisoned data returns to a group (R340): a lane of its own word dies; a uniform word raises the uncorrectable-data trap
and its run stands at it again; a scalar instruction raises it precisely, with TEPC at the instruction. -/
def State.returnPoison (s : State) (gid : Nat) (a : Access) (l : LaneAcc) : State :=
  let tval : Word64 := BitVec.ofNat 64 l.addr
  if l.of < 64 then s.killLane gid l.of false l.addr a.pc
  else if a.laneWord then
    (match a.run with
     | some r => s.modGroup gid (fun g => g.restoreRun r)
     | none => s).raiseLane gid false { cls := 11, cause := 1, tval }
  else
    let s := if a.both then s.takeTrap (partnerOf gid) { cls := 11, cause := 0, tval } a.pc else s
    s.takeTrap (s.ctxOf gid) { cls := 11, cause := 0, tval } a.pc

/-- An error of the troupe's own, of a group's word that has met it, is handled as a pipeline error (R338, R340): a
rollback, or, the third time, class 10 with cause 4. -/
def State.ownError (s : State) (gid : Nat) (a : Access) (l : LaneAcc) : State :=
  if s.rollsBack gid then s.askHalt (s.group gid).tid .rollback
  else if a.laneWord then s.raiseLane gid false { cls := 10, cause := 4, tval := BitVec.ofNat 64 l.addr }
  else s.takeTrap (s.ctxOf gid) { cls := 10, cause := 4, tval := BitVec.ofNat 64 l.addr } a.pc

/-- The value of a lane's part of an access goes to its destination (R128, R156, R191); poison has the outcomes of
R340. A value that no context waits for any more (R144) goes nowhere. -/
def State.deliver (s : State) (gid : Nat) (a : Access) (l : LaneAcc) (words : List Word32) (hurt : Hurt) : State :=
  match (if a.dest = .none ∧ a.laneWord = false then .none else hurt) with
  | .own => s.ownError gid a l
  | .poison => s.returnPoison gid a l
  | .none =>
    match a.dest with
    | .none => s
    | .vreg base n =>
      let base := if 128 ≤ l.lane then base + 2 else base
      let ws := words.take n
      if l.of < 64 then s.modGroup gid (fun g => g.setVs base l.of ws)
      else s.modGroup gid (fun g => (lanesOf g.w a.wmask).foldl (fun g i => g.setVs base i ws) g)
    | .sreg r =>
      let v := BitVec.ofNat 64 ((words.getD 0 0).toNat + 2 ^ 32 * (words.getD 1 0).toNat)
      let ks := if (s.group gid).twin then [leadOf gid, leadOf gid + 1] else [gid]
      let s := ks.foldl (fun s k => s.modGroup k (fun g => g.feedRuns (accKey gid a.aid) v)) s
      let s := s.setSreg (.group gid) r v
      if a.both then s.setSreg (.group (partnerOf gid)) r v else s

/-- The other part of a lane's 16-byte access (R192). -/
def LaneAcc.twin (l : LaneAcc) : Nat := (l.lane + 128) % 256

/-- A lane's part of a load has its value: a 16-byte access delivers both parts of a lane at once, or, when one of them is
poisoned, neither (R192, R327, R340). -/
def State.returned (s : State) (gid : Nat) (a : Access) (l : LaneAcc) (words : List Word32) (hurt : Hurt) : State :=
  if a.size ≤ 8 then s.deliver gid a l words hurt
  else
    match ((s.group gid).acc a.aid).bind (fun a => a.lanes.find? (fun m => m.lane == l.twin)) with
    | some m =>
      if m.stage ≠ .done then
        s.modGroup gid (fun g => g.modAcc a.aid (fun a =>
          { a with lanes := a.lanes.map (fun x => if x.lane = l.lane then { x with back := words, hurt } else x) }))
      else if hurt ≠ .none then s.deliver gid a l words hurt
      else if m.hurt ≠ .none then s.deliver gid a m m.back m.hurt
      else (s.deliver gid a l words .none).deliver gid a m m.back .none
    | none => s.deliver gid a l words hurt

/-! ## Issue and translation -/

/-- The access kind for the permission check (R301, R303). -/
def opKind : AccOp → AccKind
  | .load _ => .read
  | _ => .write

/-- An access as its group lists it: with the runs that come before it (R423). -/
def Group.stamp (g : Group) (a : Access) : Access :=
  { a with runsAt := if a.laneWord then ((g.laneq.head?).map (fun r => r.id + 1)).getD g.runsQueued else g.runsQueued }

/-- An access begins, in the order of its path; but for a queue push it raises the path's counter (R53, R282). The
scalar stream of a converged pair uses the lead's (R55). -/
def State.openAccess (s : State) (gid : Nat) (a : Access) : State :=
  s.modGroup gid (fun g =>
    let g : Group := { g with accs := g.accs ++ [g.stamp a], nextAid := g.nextAid + 1 }
    if a.silent then g else g.addCount a.path 1)

/-- How the translation of one lane's part ends. -/
def applyXl (l : LaneAcc) (x : Xl) : LaneAcc :=
  match x with
  | .ok pa w _ => { l with pa := pa, stage := .ready, ro := !w }
  | .trap c => { l with stage := .refused c }
  | .fault => l
  | .busy => l

/-- The cause with which a translated lane traps: a protection outcome, or an atomic to host or peer memory (R294). -/
def laneTrapCause (a : Access) (l : LaneAcc) : Option Nat :=
  match l.stage with
  | .refused c => some c
  | .ready =>
    match a.op with
    | .atom _ _ => if deviceBytes ≤ l.pa ∧ a.space = .mem then some 10 else none
    | _ => none
  | _ => none

/-- The lowest lane of an access that traps: its address and cause (R193). -/
def accTrap (a : Access) : Option (Nat × Nat) :=
  a.lanes.findSome? (fun l => (laneTrapCause a l).map (fun c => (l.addr, c)))

/-- Are all lanes past their translation? -/
def Access.translated (a : Access) : Bool := a.lanes.all (fun l => l.stage != .untranslated)

/-- Translate the lanes that have not been: TLB misses walk, replayable faults park (R193, R303). None when a table
entry cannot be read now. -/
def State.translateLanes (s : State) (gid : Nat) (a : Access) : Option (State × Access) :=
  let core := s.coreOf gid
  let w := s.worldOf gid
  let r := a.lanes.foldl (fun (r : State × List LaneAcc × Bool) l =>
    if l.stage = .untranslated then
      match r.1.xlate core w l.addr (opKind a.op) with
      | (s, .fault) =>
        let q := s.park w l.addr (opKind a.op) (.access gid a.aid l.lane)
        (q.1, r.2.1 ++ [{ l with stage := .parked q.2 }], r.2.2)
      | (s, .busy) => (s, r.2.1 ++ [l], true)
      | (s, x) => (s, r.2.1 ++ [applyXl l x], r.2.2)
    else (r.1, r.2.1 ++ [l], r.2.2)) (s, [], false)
  if r.2.2 then none else some (r.1, { a with lanes := r.2.1 })

/-- An access has no more lanes to perform: it is done (R282). An access without a lane left to perform is done at
once, and so is one whose only lanes were refused. -/
def Access.allDone (a : Access) : Bool := a.lanes.all (fun l => l.stage == .done)

/-- The trap of an access at its translation's end: precise at the word (R131, R193). -/
def State.trapAccess (s : State) (gid : Nat) (a : Access) (addr cause : Nat) : State :=
  let s := s.cancelAccess gid a.aid
  if a.laneWord then s.raiseLane gid false { cls := 4, cause, tval := BitVec.ofNat 64 addr }
  else s.trap (.group gid) 4 cause (BitVec.ofNat 64 addr)

/-- Lanes that consume a poisoned register die (R340): lane and register, in the word at an address. -/
def State.killLanes (s : State) (gid pc : Nat) (dies : List (Nat × Nat)) : State :=
  dies.foldl (fun s p => s.killLane gid p.1 true p.2 pc) s

/-- The stream that issued an access goes on when the access's translation has ended: the word takes effect, its queue
entries leave their queues, and the lanes that poison in a register has reached die (R327, R340). -/
def State.resumeAfter (s : State) (gid : Nat) (a : Access) : State :=
  let s := s.killLanes gid a.pc a.dies
  let s := if a.laneWord then s.popAll gid a.pops else s
  let s := s.modGroup gid (fun g => g.modAcc a.aid (fun b => { b with dies := [], pops := [] }))
  if a.laneWord then s.laneDone gid a.e else s.advance (.group gid)

/-- The end of an access's translation (R131, R193, R303): the word traps, or its stream goes on. -/
def State.endTranslation (s : State) (gid : Nat) (a : Access) : Option State :=
  match s.translateLanes gid a with
  | none => none
  | some (s, a') =>
    let s := s.modGroup gid (fun g => g.modAcc a.aid (fun _ => a'))
    match accTrap a' with
    | some (addr, cause) => some (s.trapAccess gid a' addr cause)
    | none => some (s.resumeAfter gid a')

/-- Has the translation of an access ended in its trap, which takes the access away? -/
def State.trapped (s : State) (gid : Nat) (a : Access) : Bool := !(s.group gid).accs.any (fun b => b.aid == a.aid)

/-- Would the translation of every lane end at once? -/
def State.allHit (s : State) (gid : Nat) (a : Access) : Bool :=
  a.lanes.all (fun l =>
    l.stage != .untranslated || (s.xlateHit (s.coreOf gid) (s.worldOf gid) l.addr (opKind a.op)).isSome)

/-- Issue an access that has passed its checks: it raises its counter; a TLB hit ends its translation at once, and a
miss makes its stream wait (R131). An access of no lanes is done at once. -/
def State.issueAccess (s : State) (gid : Nat) (a : Access) : State :=
  let a := (s.group gid).stamp a
  let s := s.openAccess gid a
  if a.lanes.isEmpty then (s.resumeAfter gid a).modGroup gid (fun g => g.accOver a.aid)
  else if s.allHit gid a then (s.endTranslation gid a).getD s
  else if a.laneWord then s.laneWaits gid (.trans a.aid)
  else s.waits (.group gid) (.trans a.aid)

/-! ## Performing -/

/-- Has a lane's part of a load been performed, or ended with a refused service? -/
def LaneAcc.ended (l : LaneAcc) : Bool :=
  match l.stage with
  | .done => true
  | .refused _ => true
  | _ => false

/-- Is it parked on a fault? -/
def LaneAcc.isParked (l : LaneAcc) : Bool :=
  match l.stage with
  | .parked _ => true
  | _ => false

/-- The first of the group's LS loads before an access that has not been performed: the group's loads are performed in
issue order, a parked one keeps its place (R288, R304). -/
def Group.loadBefore (g : Group) (aid : Nat) : Option Access :=
  (g.accs.takeWhile (fun a => a.aid != aid)).find? (fun a =>
    !a.past && a.path == .ls && a.op != .store && !a.lanes.all LaneAcc.ended)

/-- Have the group's LS loads before the access been performed? -/
def Group.loadsBefore (g : Group) (aid : Nat) : Bool := (g.loadBefore aid).isNone

/-- Do two parts of accesses touch common bytes of one space (R283)? -/
def touches (sp : Space) (m : LaneAcc) (mPart : Nat) (l : LaneAcc) (lPart : Nat) : Bool :=
  overlaps m.addr mPart l.addr lPart ||
    (m.stage == .ready && sp != .spad && overlaps m.pa mPart l.pa lPart)

/-- Has every part of an access been performed, or does it park and have no byte in common with a later access (R283,
R288)? -/
def Access.parkedApart (b a : Access) : Bool :=
  b.lanes.all (fun m =>
    m.ended || (m.isParked && (b.space != a.space || a.lanes.all (fun l => !touches a.space m b.part l a.part))))

/-- May a store leave, as far as the group's LS loads before it go (R288): each has been performed, or is parked and has no
byte in common with it (R283)? -/
def Group.loadsAllow (g : Group) (a : Access) : Bool :=
  (g.accs.takeWhile (fun b => b.aid != a.aid)).all (fun b =>
    b.past || b.path != .ls || b.op == .store || b.parkedApart a)

/-- Have the group's LS stores before the access left the store queue (R288)? -/
def Group.storesBefore (g : Group) (aid : Nat) : Bool :=
  (g.accs.takeWhile (fun a => a.aid != aid)).all (fun a =>
    a.past || a.path != .ls || a.op != .store || a.left)

/-- Are the group's earlier accesses on the path of an access, of a path that orders only those to common bytes, done
where they touch this part (R283)? -/
def Group.commonBefore (g : Group) (a : Access) (l : LaneAcc) : Bool :=
  (g.accs.takeWhile (fun b => b.aid != a.aid)).all (fun b =>
    b.past || b.path != a.path || (b.space == .spad) != (a.space == .spad) || b.lanes.all (fun m =>
      m.ended || !touches a.space m b.part l a.part))

/-- One lane's part of an access. -/
def Access.laneAcc (a : Access) (lane : Nat) : Option LaneAcc := a.lanes.find? (fun l => l.lane == lane)

/-- Change one lane's part. -/
def Access.modLane (a : Access) (lane : Nat) (f : LaneAcc → LaneAcc) : Access :=
  { a with lanes := a.lanes.map (fun l => if l.lane = lane then f l else l) }

/-- One lane's part is performed: it is done, and the access too when it was the last. -/
def State.lanePerformed (s : State) (gid aid lane : Nat) : State :=
  s.modGroup gid (fun g =>
    let g := g.modAcc aid (fun a => a.modLane lane (fun l => { l with stage := .done }))
    match g.acc aid with
    | some a => if a.allDone then g.accOver aid else g
    | none => g)

/-! ### What a load took from its own core (R286, R288) -/

/-- The core that holds a write-buffer entry. -/
def State.coreHolding (s : State) (gid aid lane : Nat) : Option Nat :=
  (s.cores.find? (fun p => p.2.wbuf.any (fun e => e.gid == gid && e.aid == aid && e.lane == lane))).map (·.1)

/-- Where the byte that an LS load of a group reads comes from, when its home does not hold it yet: the group's own
queued store, a dirty byte of the L1, or a store on its way. -/
def State.tookFrom (s : State) (gid : Nat) (a : Access) (va pa : Nat) : Option TookFrom :=
  let core := s.coreOf gid
  let c := s.core core
  match (s.group gid).queuedStore a.aid a.space va pa with
  | some q => some (.store gid q.1 q.2.1)
  | none =>
    if (c.dirtyByte pa).isSome then some (.dirty (sectorOf pa) (oneLane (pa % 64)))
    else (c.wbufEntry pa).map (fun e => .store e.gid e.aid e.lane)

/-- Has what a load took not been performed at a scope yet (R286)? -/
def State.tookPending (s : State) (core : Nat) (sc : Scope) : TookFrom → Bool
  | .dirty k m =>
    match tabFind (s.core core).l1 k with
    | some v => v.dirty &&& m != 0
    | none => false
  | .store gid aid lane =>
    match s.coreHolding gid aid lane with
    | some c => (s.core c).wbuf.any (fun e => e.gid == gid && e.aid == aid && e.lane == lane && !e.seen.contains sc)
    | none =>
      (((s.group gid).acc aid).bind (fun a => a.laneAcc lane)).any (fun l => !l.ended)

/-- A group's loads note what they took; what is at its home by now is forgotten. -/
def State.noteTook (s : State) (gid : Nat) (l : List TookFrom) : State :=
  let core := s.coreOf gid
  s.modGroup gid (fun g =>
    { g with took := (l.foldl (fun t x => if t.contains x then t else x :: t) g.took).filter (s.tookPending core .sys) })

/-- Has everything that the group's loads took been performed at a scope (R286)? At GROUP and CORE it has. -/
def State.tookPerformed (s : State) (gid : Nat) (sc : Scope) : Bool :=
  decide (scopeRank sc ≤ 1) || (s.group gid).took.all (fun t => !s.tookPending (s.coreOf gid) sc t)

/-- The bytes that a scratchpad load's or atomic's poison comes from (R340). -/
def State.spadHurts (s : State) (gid : Nat) (offs : List Nat) : Hurt :=
  let t := s.troupe (s.group gid).tid
  if t.takesOn && offs.any (fun o => t.spadOwn.contains o && t.spadHurt o 1) then .own
  else if offs.any (fun o => t.spadHurt o 1) then .poison
  else .none

/-- Poison that came from memory. -/
def hurtOf (b : Bool) : Hurt := if b then .poison else .none

/-- Does the core's L1 answer an LS load at GROUP or CORE by itself: the sector is valid there, with all of the bytes? -/
def Core.l1Hit (c : Core) (pa n : Nat) : Bool :=
  match tabFind c.l1 (sectorOf pa) with
  | some v => v.lack &&& byteMask (pa % 64) n == 0
  | none => false

/-- A lane's part of a load is performed and its value returned (R276, R279, R283, R286, R288); none when it cannot be
yet. Data of peer memory that the L1 does not hold comes through its port. -/
def State.performLoad (s : State) (gid : Nat) (a : Access) (l : LaneAcc) : Option State :=
  let core := s.coreOf gid
  let w := s.worldOf gid
  let g := s.group gid
  let n := a.part
  let signed :=
    match a.op with
    | .load sg => sg
    | _ => false
  if l.stage ≠ .ready then none
  else
    match a.space with
    | .queue _ => none
    | .spad =>
      if !g.loadsBefore a.aid then none
      else
        let t := s.troupe g.tid
        let own (i : Nat) : Option Byte := g.queuedByte a.aid .spad (l.addr + i) (l.addr + i)
        let offs := ((List.range n).filter (fun i => (own i).isNone)).map (fun i => l.addr + i)
        let s := s.returned gid a l (loadWords signed (overlay own (t.spadGet l.addr n))) (s.spadHurts gid offs)
        some (s.lanePerformed gid a.aid l.lane)
    | .konst =>
      let hit := l.ro && (tabFind (s.core core).ccache (sectorOf l.pa)).isSome
      if deviceBytes ≤ l.pa ∨ !g.commonBefore a l ∨ (!hit && (s.homeBusy w l.pa false || s.seenBlocks core l.pa n)) = true
      then none
      else
        let r := s.constBytes core w l.pa n l.ro
        let t := s.troupe g.tid
        let own (i : Nat) : Option Byte := t.heldByte (l.pa + i)
        let hurt := (List.range n).any (fun i => t.heldHurt (l.pa + i) r.2.2)
        some ((r.1.returned gid a l (loadWords signed (overlay own r.2.1)) (hurtOf hurt)).lanePerformed gid a.aid l.lane)
    | .mem =>
      let hit := scopeRank a.scope ≤ 1 && (s.core core).l1Hit l.pa n
      let can := if deviceBytes ≤ l.pa then hit
        else if scopeRank a.scope ≤ 1 then s.l1Can core w l.pa
        else !s.homeBusy w l.pa false && !s.seenBlocks core l.pa n
      if !can || !g.loadsBefore a.aid then none
      else
        let took := (List.range n).filterMap (fun i => s.tookFrom gid a (l.addr + i) (l.pa + i))
        let r := s.lsBytes core w l.pa n a.scope
        let t := s.troupe g.tid
        let queued (i : Nat) : Option Byte := g.queuedByte a.aid .mem (l.addr + i) (l.pa + i)
        let own (i : Nat) : Option Byte := (queued i).or (t.heldByte (l.pa + i))
        let hurt := (List.range n).any (fun i => (queued i).isNone && t.heldHurt (l.pa + i) (r.2.2.getD i false))
        let s := (r.1.noteTook gid took).returned gid a l (loadWords signed (overlay own r.2.1)) (hurtOf hurt)
        some (s.lanePerformed gid a.aid l.lane)

/-- May data from a peer device answer a part of a load now, in the order of its path (R283, R288)? -/
def Group.peerAllows (g : Group) (a : Access) (l : LaneAcc) : Bool :=
  if a.path = .ls then g.loadsBefore a.aid else g.commonBefore a l

/-- Data from a peer device answers a load (R388, R418), with what the core and the group hold newer laid over it (R276,
R288) and its poison (R339); a load at GROUP or CORE leaves it in the L1, and any refreshes a valid sector there. -/
def State.peerLoad (s : State) (gid : Nat) (a : Access) (l : LaneAcc) (bytes : List Byte) : State :=
  let core := s.coreOf gid
  let g := s.group gid
  let t := s.troupe g.tid
  let n := a.part
  let signed :=
    match a.op with
    | .load sg => sg
    | _ => false
  let bytes := (List.range n).map (fun i => byteAt bytes i)
  let c := s.core core
  let newer (i : Nat) : Option (Byte × Bool) := if a.space = .mem then c.newer (l.pa + i) else none
  let got := overlay (fun i => (newer i).map (·.1)) bytes
  let bad (i : Nat) : Bool := ((newer i).map (·.2)).getD false
  let queued (i : Nat) : Option Byte :=
    if a.space = .mem then g.queuedByte a.aid .mem (l.addr + i) (l.pa + i) else none
  let own (i : Nat) : Option Byte := (queued i).or (t.heldByte (l.pa + i))
  let hurt := (List.range n).any (fun i => (queued i).isNone && t.heldHurt (l.pa + i) (bad i))
  let took := if a.space = .mem then
      (List.range n).filterMap (fun i => s.tookFrom gid a (l.addr + i) (l.pa + i))
    else []
  let keeps := decide (a.space = .mem) && decide (scopeRank a.scope ≤ 1) && (s.l1Make core (sectorOf l.pa)).isSome
  let s := if keeps then (s.l1Have core (s.worldOf gid) l.pa).1 else s
  let s := if a.space = .mem then s.refreshL1 core l.pa got bad else s
  let s := (s.noteTook gid took).returned gid a l (loadWords signed (overlay own got)) (hurtOf hurt)
  s.lanePerformed gid a.aid l.lane

/-- A store's bytes enter the L1 (R277): allocated, merged, dirty, each with its scope. None while the sector cannot be
had; a store that its home refuses leaves nothing. -/
def State.l1Store (s : State) (core w pa : Nat) (bytes : List Byte) (sc : Scope) (poison : Bool) : Option State :=
  if !s.l1Can core w pa then none
  else
    match s.l1Have core w pa with
    | (s, some v) =>
      let m := byteMask (pa % 64) bytes.length
      let u := v.merge (pa % 64) bytes poison true
      let u := { u with
        atCore := if scopeRank sc = 0 then v.atCore &&& ~~~m else v.atCore ||| m
        atBooth := if scopeRank sc ≤ 1 then v.atBooth &&& ~~~m else v.atBooth ||| m
        lack := v.lack &&& ~~~m }
      some (s.modCore core (fun c => { c with l1 := tabPut c.l1 (sectorOf pa) u }))
    | (s, none) => some s

/-- Is a part of a store overwritten by a higher lane of the same word that has left already (R191)? -/
def Access.outdone (a : Access) (l : LaneAcc) : Bool :=
  a.space != .spad && a.lanes.any (fun m =>
    m.stage == .done && decide (l.of < m.of) && overlaps m.pa a.part l.pa a.part)

/-- One lane's store leaves the store queue to its place (R277, R337); none while it cannot. -/
def State.storeLeaves (s : State) (gid : Nat) (a : Access) (l : LaneAcc) : Option State :=
  let core := s.coreOf gid
  let w := s.worldOf gid
  let tid := (s.group gid).tid
  let entry (booth : Bool) : WEntry := { gid, aid := a.aid, lane := l.lane, world := w, pa := l.pa, bytes := l.data, booth }
  if a.outdone l then some s
  else
    match a.space with
    | .spad => some (s.modTroupe tid (fun t => t.spadPut l.addr l.data false))
    | .queue q => some (s.modTroupe tid (fun t => { t with queues := tabSet [] t.queues q (tabGet [] t.queues q ++ [l.entry]) }))
    | _ =>
      if s.takesOn gid then
        s.holdStore tid { pa := l.pa, scope := a.scope, bytes := l.data }
      else if scopeRank a.scope ≤ 1 then s.l1Store core w l.pa l.data a.scope false
      else if a.scope = .booth then
        (s.l1Store core w l.pa l.data .booth false).map (fun s =>
          s.modCore core (fun c => { c with wbuf := c.wbuf ++ [entry true] }))
      else some (s.modCore core (fun c => { (c.l1Update l.pa l.data) with wbuf := c.wbuf ++ [entry false] }))

/-- Is an entry of this access still in the core's write buffer? -/
def Core.holdsEntry (c : Core) (gid aid : Nat) : Bool := c.wbuf.any (fun e => e.side == 0 && e.gid == gid && e.aid == aid)

/-- Does a stream of the group wait for the translation of this access, so that nothing of it may take effect yet? -/
def Group.inTranslation (g : Group) (c : Group) (aid : Nat) : Bool :=
  g.lwait == some (.trans aid) || c.wait == some (.trans aid)

/-- In a converged pair, has the other half an older push to the same queue, which enters before this one (R318)? A push
keeps the number of its issue as its address. -/
def State.pushBefore (s : State) (gid : Nat) (a : Access) : Bool :=
  let at_ (b : Access) : Nat := (b.lanes.headD { lane := 0, addr := 0 }).addr
  match a.space with
  | .queue _ => (s.group gid).converged && (s.group (partnerOf gid)).accs.any (fun b =>
      !b.past && b.space == a.space && decide (at_ b < at_ a))
  | _ => false

/-- May parts of the group's store leave the store queue now (R193, R288, R337)? Those that are translated may, while
others of the word are parked. -/
def State.mayLeave (s : State) (gid : Nat) (a : Access) : Bool :=
  let g := s.group gid
  g.storesBefore a.aid && g.loadsAllow a && !g.inTranslation (s.group (s.ctxOf gid)) a.aid && !s.pushBefore gid a &&
    a.lanes.any (fun l => l.stage == .ready)

/-- A store leaves the group's store queue (R277, R288), those of its parts that can (R193): none when it may not yet; a
full take-hold area asks for a take first (R337). -/
def State.leaveQueue (s : State) (gid : Nat) (a : Access) : Option State :=
  if !s.mayLeave gid a then none
  else
    let t := s.troupe (s.group gid).tid
    let inMem := a.space == .mem || a.space == .konst
    if t.takesOn && inMem && t.holdFull (a.part * a.lanes.length) then some (s.askHalt (s.group gid).tid .take)
    else
      let out := a.lanes.filter (fun l => l.stage == .ready)
      match out.foldlM (fun s l => s.storeLeaves gid a l) s with
      | none => none
      | some s =>
        let lanes := a.lanes.map (fun l => if l.stage = .ready then { l with stage := .done } else l)
        let s := s.modGroup gid (fun g => g.modAcc a.aid (fun a => { a with left := lanes.all LaneAcc.ended, lanes }))
        if (s.core (s.coreOf gid)).holdsEntry gid a.aid || !lanes.all (fun l => l.stage == .done) then some s
        else some (s.modGroup gid (fun g => g.accOver a.aid))

/-- A write-buffer entry leaves, and the store is acknowledged when it was its last (R277). -/
def State.dropEntry (s : State) (core gid aid lane : Nat) : State :=
  let s := s.modCore core (fun c =>
    { c with wbuf := c.wbuf.eraseP (fun e => e.gid == gid && e.aid == aid && e.lane == lane) })
  match (s.group gid).acc aid with
  | some a =>
    if a.left && !(s.core core).holdsEntry gid aid && a.allDone then s.modGroup gid (fun g => g.accOver aid) else s
  | none => s

/-- The bytes of a BOOTH store that the L1 holds dirty are clean once they are at their home (R277), unless a later store
has changed them. -/
def Core.cleanBooth (c : Core) (e : WEntry) : Core :=
  { c with
    l1 := tabModify c.l1 (sectorOf e.pa) (fun v =>
      let same := maskWhere 64 (fun i =>
        inRange (e.pa % 64) e.bytes.length i && v.atBooth.getLsbD i &&
          decide (tabGet 0 v.bytes i = byteAt e.bytes (i - e.pa % 64)))
      { v with dirty := v.dirty &&& ~~~same, atCore := v.atCore &&& ~~~same, atBooth := v.atBooth &&& ~~~same }) }

/-- A store's bytes reach their home (R277, R286): in the order of the buffer where they overlap, and of their issue when a
take has released them (R337); none when they cannot yet. -/
def State.reachHome (s : State) (gid aid lane : Nat) : Option State :=
  match s.coreHolding gid aid lane with
  | none => none
  | some core =>
    let c := s.core core
    match c.wbuf.find? (fun e => e.gid == gid && e.aid == aid && e.lane == lane) with
    | none => none
    | some e =>
      let older := c.wbuf.takeWhile (fun x => !(x.gid == gid && x.aid == aid && x.lane == lane))
      if deviceBytes ≤ e.pa ∨ s.homeBusy e.world e.pa true = true ∨ s.seenBlocks core e.pa e.bytes.length = true ∨
          older.any (fun x => overlaps x.pa x.bytes.length e.pa e.bytes.length ||
            (e.side == 2 && x.side == 2 && x.gid == e.gid)) = true then none
      else
        let s := s.homeWrite e.world e.pa e.bytes e.poison (portOf core)
        let s := if e.booth then s.modCore core (fun c => c.cleanBooth e) else s
        some (s.dropEntry core gid aid lane)

/-- An order at BOOTH or DIE stops waiting for an entry of a write buffer (R287, entry 20): unless an older entry of its own,
or another core's for which that holds already, has common bytes. -/
def State.seeEntry (s : State) (gid aid lane : Nat) (die : Bool) : State :=
  match s.coreHolding gid aid lane with
  | none => s
  | some core =>
    match (s.core core).wbuf.find? (fun e => e.gid == gid && e.aid == aid && e.lane == lane) with
    | none => s
    | some e =>
      let older := (s.core core).wbuf.takeWhile (fun x => !(x.gid == gid && x.aid == aid && x.lane == lane))
      let meets (x : WEntry) : Bool := overlaps x.pa x.bytes.length e.pa e.bytes.length
      if deviceBytes ≤ e.pa ∨ e.side = 1 ∨ older.any meets = true ∨
          s.cores.any (fun p => p.1 != core && p.2.wbuf.any (fun x => !x.seen.isEmpty && meets x)) = true then s
      else
        s.modCore core (fun c =>
          { c with wbuf := c.wbuf.map (fun x =>
              if x.gid = gid ∧ x.aid = aid ∧ x.lane = lane then
                { x with seen := (if die then .die else .booth) :: x.seen }
              else x) })

/-! ## Atomics (R232, R233, R319) -/

/-- The home die of a physical address for atomics (R233). -/
def turnstileDie (pa : Nat) : Nat := (List.range 16).foldl (fun d i => d ^^^ bitsOf pa (13 + 2 * i) (12 + 2 * i)) 0

/-- The new value of an atomic operation on `n`-bit values (R232). -/
def atomValue {n : Nat} (op : AtomOp) (old v cmp : BitVec n) : BitVec n :=
  match op with
  | .add => old + v
  | .and => old &&& v
  | .or => old ||| v
  | .xor => old ^^^ v
  | .min => if old.toInt ≤ v.toInt then old else v
  | .max => if old.toInt ≤ v.toInt then v else old
  | .minn => if old.toNat ≤ v.toNat then old else v
  | .maxn => if old.toNat ≤ v.toNat then v else old
  | .xchg => v
  | .cas => if old = cmp then v else old
  | .fadd =>
    let a := rawVal .f32 old.toNat
    let b := rawVal .f32 v.toNat
    BitVec.ofNat n (xRound .f32 { rm := 0 } (xAdd false a b)).1

/-- The new bytes of a location: `data` holds v, or cmp and then new for `.cas` (R234, R235). -/
def atomBytes (op : AtomOp) (w64 : Bool) (old data : List Byte) : List Byte :=
  let n := if w64 then 8 else 4
  let a := fieldAt data 0 n
  let b := fieldAt data n n
  let v := if op = .cas then b else a
  if w64 then
    natBytes 8 (atomValue op (BitVec.ofNat 64 (bytesNat old)) (BitVec.ofNat 64 v) (BitVec.ofNat 64 a)).toNat
  else natBytes 4 (atomValue op (BitVec.ofNat 32 (bytesNat old)) (BitVec.ofNat 32 v) (BitVec.ofNat 32 a)).toNat

/-- Sectors that a world's share of one turnstile holds: 8 MiB in 64ths (R319, R416). -/
def shareSectors (w : World) : Nat := w.tshare * 2048

/-- The world's sectors in the turnstile of a die. -/
def State.turnSectors (s : State) (w die : Nat) : List Nat :=
  sectorsWhere s.turn (fun k v => v.world == w && turnstileDie (64 * k) == die)

/-- The sector of the world whose last atomic is oldest (R319). -/
def State.oldestTurn (s : State) (w die : Nat) : Option Nat :=
  (s.turnSectors w die).foldl (fun best k =>
    match best with
    | none => some k
    | some b => if (tabGet noSector s.turn k).tag < (tabGet noSector s.turn b).tag then some k else some b) none

/-- May a turnstile's sector leave: its write-back is not held by a BSU or a migration (R244, R413)? -/
def State.turnMayLeave (s : State) (k : Nat) : Bool :=
  match tabFind s.turn k with
  | some v => if s.cachedInL2 v.world (64 * k) then s.l2Room v.world (64 * k) else !s.portBusy (64 * k) true
  | none => false

/-- Is a request of a world for a sector refused at its home (R23, R27): another world's sector is held there, or the
slice port refuses? -/
def State.portRefuses (s : State) (w pa : Nat) : Bool :=
  let pa := s.forwardPa pa
  match tabFind s.turn (sectorOf pa), tabFind s.l2 (sectorOf pa) with
  | some v, _ => v.world != w
  | none, some v => v.world != w
  | none, none => !s.portAccepts w pa

/-- Bring a sector into the turnstile, for cluster port `c` (R20, R294, R319): the L2 keeps no copy; a full share writes its
oldest sector back. None when the sector cannot be read now. -/
def State.turnHave (s : State) (w pa : Nat) (c : Option Nat) : Option State :=
  let pa := s.forwardPa pa
  let k := sectorOf pa
  match tabFind s.turn k with
  | some _ => some s
  | none =>
    let cap := shareSectors (s.world w)
    let die := turnstileDie pa
    let old := if cap ≤ (s.turnSectors w die).length then s.oldestTurn w die else none
    if s.homeBusy w pa (cap == 0) = true ∨ old.any (fun o => !s.turnMayLeave o) = true then none
    else
      let s := match old with
        | some o => s.flushTurn o
        | none => s
      match tabFind s.l2 k with
      | some v => some { s with l2 := tabDel s.l2 k, turn := tabPut s.turn k v }
      | none =>
        match s.portRead w pa with
        | (_, none) => none
        | (s, some (bytes, poison)) =>
          let q := s.sendPacket w 0 pa c
          some { q.1 with turn := tabPut q.1.turn k { world := w, bytes, poison, nonce := q.2 } }

/-- A share of no sector keeps none: the sector of an atomic leaves at once (R319: no atomic fails for want of space;
DEDUCED). -/
def State.turnSpill (s : State) (w k : Nat) : State :=
  if shareSectors (s.world w) = 0 then s.flushTurn k else s

/-- The lane part of an atomic that a queued request stands for, while it still waits (R319). -/
def State.requested (s : State) (r : TurnReq) : Option LaneAcc :=
  ((s.group r.gid).accs.find? (fun a => a.aid = r.aid)).bind (fun a =>
    a.lanes.find? (fun l => l.lane = r.lane && l.stage == .ready))

/-- The first request that waits in a turnstile's queue for a sector (R319). -/
def State.firstRequest (s : State) (k : Nat) : Option TurnReq :=
  s.turnq.find? (fun r => (s.requested r).any (fun l => sectorOf (s.forwardPa l.pa) = k))

/-- Is a lane's atomic behind a request that a turnstile queued before it (R319)? -/
def State.behindRequest (s : State) (gid : Nat) (a : Access) (l : LaneAcc) : Bool :=
  (s.firstRequest (sectorOf (s.forwardPa l.pa))).any (fun r => r.gid != gid || r.aid != a.aid || r.lane != l.lane)

/-- The requests of a world that wait in the queues of the turnstiles (R319). -/
def State.heldRequests (s : State) (w : Nat) : List TurnReq :=
  s.turnq.filter (fun r => s.worldOf r.gid == w && (s.requested r).isSome)

/-- Those of them that wait in the turnstile of a die. -/
def State.requestsAt (s : State) (w die : Nat) : List TurnReq :=
  (s.heldRequests w).filter (fun r => (s.requested r).any (fun l => turnstileDie (s.forwardPa l.pa) == die))

/-- Is the world's share of the queues of a turnstile full (R319)? -/
def State.queueFull (s : State) (w die : Nat) : Bool :=
  decide (Config.requestRoom (s.world w).tshare ≤ ((s.requestsAt w die).filter (fun r => !r.inArea)).length)

/-- Where the world's overflow area takes its next request; none when it is full or unassigned (R319). -/
def State.overflowPa (s : State) (w : Nat) : Option Nat :=
  match tabGet none (s.world w).areas 2 with
  | none => none
  | some area =>
    let out := ((s.heldRequests w).filter TurnReq.inArea).length
    if (out + 1) * Config.requestSize ≤ area.bytes then some (area.base + out * Config.requestSize) else none

/-- Is a lane's atomic one that a turnstile has accepted into its queue? -/
def State.queuedRequest (s : State) (gid aid lane : Nat) : Bool :=
  (s.heldRequests (s.worldOf gid)).any (fun x => x.gid == gid && x.aid == aid && x.lane == lane)

/-- Has a turnstile stopped accepting a world's requests (R319): some wait there, and neither the share of its queues nor the
overflow area has room for another? -/
def State.turnStops (s : State) (w pa : Nat) : Bool :=
  let die := turnstileDie (s.forwardPa pa)
  !(s.requestsAt w die).isEmpty && s.queueFull w die && (s.overflowPa w).isNone

/-- A turnstile takes a request into its queue (R319): within the world's share of it, else in the world's overflow area, once
the home takes the write there; with neither room it does not accept the request, which stays at the fabric. -/
def State.takeRequest (s : State) (gid aid lane : Nat) : State :=
  let r : TurnReq := { gid, aid, lane }
  match (s.group gid).accs.find? (fun a => a.aid = aid), s.requested r with
  | some a, some l =>
    let w := s.worldOf gid
    let put (s : State) (r : TurnReq) : State := { s with turnq := s.turnq.filter (fun r => (s.requested r).isSome) ++ [r] }
    let isAtom := match a.op with
      | .atom _ _ => a.space == .mem
      | _ => false
    if !isAtom || s.queuedRequest gid aid lane then s
    else if !s.queueFull w (turnstileDie (s.forwardPa l.pa)) then put s r
    else
      match s.overflowPa w with
      | none => s
      | some pa => if s.rangeBusy w pa Config.requestSize then s
        else put (s.writeFree w pa Config.requestSize) { r with inArea := true }
  | _, _ => s

/-- One lane's part of an atomic is executed, at its turnstile or in the scratchpad (R233, R236, R294); none when it
cannot be yet. -/
def State.performAtom (s : State) (gid : Nat) (a : Access) (l : LaneAcc) : Option State :=
  match a.op with
  | .atom op w64 =>
    let g := s.group gid
    let w := s.worldOf gid
    let core := s.coreOf gid
    if l.stage ≠ .ready ∨ !g.commonBefore a l then none
    else if a.space = .spad then
      let t := s.troupe g.tid
      let old := t.spadGet l.addr a.size
      let hurt := s.spadHurts gid ((List.range a.size).map (fun i => l.addr + i))
      let s := if hurt = .none then s.modTroupe g.tid (fun t => t.spadPut l.addr (atomBytes op w64 old l.data) false)
        else s
      some ((s.deliver gid a l (wordsOf old) hurt).lanePerformed gid a.aid l.lane)
    else if s.seenBlocks core l.pa a.size = true ∨ s.behindRequest gid a l = true ∨
        (s.turnStops w l.pa && !s.queuedRequest gid a.aid l.lane) = true then none
    else if s.portRefuses w l.pa then
      let r := (s.refuseAt w (s.forwardPa l.pa)).freeBytes a.size
      some ((r.1.deliver gid a l (wordsOf r.2) .none).lanePerformed gid a.aid l.lane)
    else
      match s.turnHave w l.pa (portOf core) with
      | none => none
      | some s =>
        let k := sectorOf (s.forwardPa l.pa)
        let v := tabGet noSector s.turn k
        let off := l.pa % 64
        let old := v.slice off a.size
        let q := s.sendWrite w (s.forwardPa l.pa) (portOf core)
        let r := q.1.arrive 0 (s.forwardPa l.pa) (portOf core)
        let s := r.1
        let hurt := v.hurt off a.size
        let v := if hurt then v else v.merge off (atomBytes op w64 old l.data) q.2.2 true
        let s := { s with turn := tabPut s.turn k { v with tag := s.turnUse + 1, nonce := q.2.1 }, turnUse := s.turnUse + 1 }
        let s := s.turnSpill w k
        some ((s.deliver gid a l (wordsOf old) (hurtOf (hurt || r.2))).lanePerformed gid a.aid l.lane)
  | _ => none

/-! ## Refused services (R304) -/

/-- The refused lane of an access: its address and cause. -/
def Access.refusal (a : Access) : Option (Nat × Nat) :=
  a.lanes.findSome? (fun l =>
    match l.stage with
    | .refused c => some (l.addr, c)
    | _ => none)

/-- An access whose service was refused ends with the protection trap (R304): it leaves, and the trap is pending for
the scalar stream. -/
def State.refuseAccess (s : State) (gid : Nat) (a : Access) (addr cause : Nat) : State :=
  let s := s.unpark gid a.aid
  let s := s.modGroup gid (fun g => g.accOver a.aid)
  s.raiseEngine gid 4 cause (BitVec.ofNat 64 addr) a.path 0

/-- An access of the group that parks, if any. -/
def Group.parkedAccess (g : Group) : Option Access := g.accs.find? (fun a => !a.past && a.lanes.any LaneAcc.isParked)

/-- An access of the group with a refused lane, if any. -/
def Group.refusedAccess (g : Group) : Option Access := g.accs.find? (fun a => !a.past && a.refusal.isSome)

/-- The pending access that writes scalar register `r` of a scalar context (R116), with the group that issued it: its
own, or one that the pair issued before it split. -/
def State.pendingSreg (s : State) (gid r : Nat) : Option (Nat × Access) :=
  let mine := (s.group gid).accs.find? (fun a => !a.past && a.dest == .sreg r)
  let shared := (s.group (partnerOf gid)).accs.find? (fun a => !a.past && a.both && a.dest == .sreg r)
  if r = 0 then none
  else
    match mine with
    | some a => some (gid, a)
    | none => if (s.group gid).twin then shared.map (fun a => (partnerOf gid, a)) else none

/-- The pending access that writes vector register `r` (R159). -/
def Group.pendingVreg (g : Group) (r : Nat) : Option Access :=
  g.accs.find? (fun a => !a.past &&
    (match a.dest with
     | .vreg base n => inRange base n r
     | _ => false))

end Sys2Proof.Machine
end

