-- ==== Sys2Proof/Machine/Operands.lean ====
section
/-! DEFINITION. Operands: the scalar registers that a scalar instruction reads and writes (R116), the 9-bit operand
space of the lane words (spec/02_state.md R40), source modifiers and `Widen` (spec/03_numbers.md R65,
spec/04_encoding.md R90), destination modifiers and `Narrow` (R70, R91). -/

namespace Sys2Proof.Machine

/-! ## Scalar operands -/

/-- The scalar registers that an instruction reads (R116): those its result or its address depends on. -/
def scalarReads : Instr → List SReg
  | .add _ a b => [a, b]
  | .sub _ a b => [a, b]
  | .mul _ a b => [a, b]
  | .mulh _ a b => [a, b]
  | .mulhn _ a b => [a, b]
  | .div _ a b => [a, b]
  | .divn _ a b => [a, b]
  | .rem _ a b => [a, b]
  | .remn _ a b => [a, b]
  | .and _ a b => [a, b]
  | .or _ a b => [a, b]
  | .xor _ a b => [a, b]
  | .andn _ a b => [a, b]
  | .shl _ a b => [a, b]
  | .shr _ a b => [a, b]
  | .sar _ a b => [a, b]
  | .min _ a b => [a, b]
  | .max _ a b => [a, b]
  | .minn _ a b => [a, b]
  | .maxn _ a b => [a, b]
  | .slt _ a b => [a, b]
  | .sltn _ a b => [a, b]
  | .seq _ a b => [a, b]
  | .addi _ a _ => [a]
  | .andi _ a _ => [a]
  | .ori _ a _ => [a]
  | .xori _ a _ => [a]
  | .shli _ a _ => [a]
  | .shri _ a _ => [a]
  | .sari _ a _ => [a]
  | .slti _ a _ => [a]
  | .lea _ a b _ => [a, b]
  | .sld _ a _ => [a]
  | .sst a b _ => [a, b]
  | .sldk _ a _ => [a]
  | .beq a b _ => [a, b]
  | .bne a b _ => [a, b]
  | .blt a b _ => [a, b]
  | .bge a b _ => [a, b]
  | .bltn a b _ => [a, b]
  | .bgen a b _ => [a, b]
  | .ret a => [a]
  | .setexm a _ => [a]
  | .setfmtr a _ => [a]
  | .cpy _ _ d a b => [d, a, b]
  | .cpyw _ _ d a b => [d, a, b, b + 1]
  | .gth _ d a b => [d, a, b]
  | .sct _ d a b => [d, a, b]
  | .coll _ _ d a b => [d, a, b]
  | .bnk _ _ d a b => [d, a, b]
  | .bar _ hr _ a _ => if hr then [a] else []
  | .satom op _ d a b => if op = .cas then [d, a, b] else [a, b]
  | .sprw _ _ a => [a]
  | .brun _ a b => [a, b]
  | .mbxput a => [a]
  | _ => []

/-- The scalar registers that an instruction writes (R116). -/
def scalarWrites : Instr → List SReg
  | .add d _ _ => [d]
  | .sub d _ _ => [d]
  | .mul d _ _ => [d]
  | .mulh d _ _ => [d]
  | .mulhn d _ _ => [d]
  | .div d _ _ => [d]
  | .divn d _ _ => [d]
  | .rem d _ _ => [d]
  | .remn d _ _ => [d]
  | .and d _ _ => [d]
  | .or d _ _ => [d]
  | .xor d _ _ => [d]
  | .andn d _ _ => [d]
  | .shl d _ _ => [d]
  | .shr d _ _ => [d]
  | .sar d _ _ => [d]
  | .min d _ _ => [d]
  | .max d _ _ => [d]
  | .minn d _ _ => [d]
  | .maxn d _ _ => [d]
  | .slt d _ _ => [d]
  | .sltn d _ _ => [d]
  | .seq d _ _ => [d]
  | .addi d _ _ => [d]
  | .andi d _ _ => [d]
  | .ori d _ _ => [d]
  | .xori d _ _ => [d]
  | .shli d _ _ => [d]
  | .shri d _ _ => [d]
  | .sari d _ _ => [d]
  | .slti d _ _ => [d]
  | .lui d _ => [d]
  | .lpc d _ => [d]
  | .lea d _ _ _ => [d]
  | .sld d _ _ => [d]
  | .sldk d _ _ => [d]
  | .call _ => [63#6]
  | .getexm d _ => [d]
  | .getfmt d _ => [d]
  | .satom _ _ d _ _ => [d]
  | .sprr d _ _ => [d]
  | .brun d _ _ => [d]
  | .mbxget d _ => [d, d + 1, d + 2]
  | _ => []

/-! ## The operand space of the lane words (R40) -/

/-- What a lane word reads besides its own fields: the group's half, the run with its scalar values and copied FMT,
the troupe, the core, the world, CLOCK, and the queue entries popped for the word (R88). -/
structure LaneEnv where
  g : Group
  run : Run
  troupe : Troupe
  world : Nat
  clock : Nat
  popped : Tab (Tab Word32) := []

/-- The raw 32-bit value of an operand in a lane (R40, R118, R158). -/
def LaneEnv.raw (e : LaneEnv) (v : BitVec 9) (lane : Nat) : Word32 :=
  let n := v.toNat
  if n < 384 then e.g.vr n lane
  else if n < 448 then (if n = 384 then 0 else (tabGet 0 e.run.svals (n - 384)).setWidth 32)
  else if n < 464 then tabGet 0 (tabGet [] e.popped (n - 448)) lane
  else
    match n - 464 with
    | 0 => BitVec.ofNat 32 lane
    | 1 => e.g.old lane
    | 2 => BitVec.ofNat 32 e.g.grpid
    | 3 => BitVec.ofNat 32 e.g.w
    | 4 => BitVec.ofNat 32 e.troupe.x
    | 5 => BitVec.ofNat 32 e.troupe.y
    | 6 => BitVec.ofNat 32 e.troupe.z
    | 7 => BitVec.ofNat 32 (coreX e.troupe.core)
    | 8 => BitVec.ofNat 32 (coreY e.troupe.core)
    | 9 => BitVec.ofNat 32 e.world
    | 10 => BitVec.ofNat 32 e.clock
    | _ => 0

/-- All 64 bits of the scalar register that an operand names (R190, R194). -/
def LaneEnv.s64 (e : LaneEnv) (v : BitVec 9) : Word64 :=
  if v.toNat = 384 then 0 else tabGet 0 e.run.svals (v.toNat - 384)

/-- The bits of a subfield size code (R90). -/
def szBits (sz : BitVec 2) : Nat :=
  match sz with
  | 0#2 => 32
  | 1#2 => 8
  | 2#2 => 6
  | _ => 4

/-- The subfield that SZ and IX select (R90). -/
def subfield (sz : BitVec 2) (ix : BitVec 3) (w : Word32) : Nat :=
  if sz = 0#2 then w.toNat else bitsOf w.toNat (szBits sz * ix.toNat + szBits sz - 1) (szBits sz * ix.toNat)

/-- `Widen` to i32 of a source with its modifier (R65). -/
def widenI32 (fmt : Word32) (m : SrcMod) (w : Word32) : Word32 :=
  if m.sz = 0#2 then w
  else
    let c := subfield m.sz m.ix w
    match fmtClass fmt m.sz.toNat with
    | .i8 => (BitVec.ofNat 8 c).signExtend 32
    | .i4 => (BitVec.ofNat 4 c).signExtend 32
    | _ => BitVec.ofNat 32 c

/-- `Widen` to f32 of a source with its modifier: its exact value and the NV of a signalling NaN (R65, R69). -/
def widenF32 (fmt : Word32) (m : SrcMod) (w : Word32) : XVal × Word32 :=
  if m.sz = 0#2 then readVal fmt .f32 w.toNat
  else readVal fmt (fmtClass fmt m.sz.toNat) (subfield m.sz m.ix w)

/-- Source A of a word, widened to i32. -/
def LaneEnv.ia (e : LaneEnv) (h : LaneHead) (l : Nat) : Word32 := widenI32 e.run.fmt h.ma (e.raw h.va l)
/-- Source B of a word, widened to i32. -/
def LaneEnv.ib (e : LaneEnv) (h : LaneHead) (l : Nat) : Word32 := widenI32 e.run.fmt h.mb (e.raw h.vb l)
/-- Source C of a word, widened to i32. -/
def LaneEnv.ic (e : LaneEnv) (h : LaneHead) (l : Nat) : Word32 := widenI32 e.run.fmt h.mc (e.raw h.vc l)
/-- Source B of an integer form, which may be an immediate (R162). -/
def LaneEnv.ibi (e : LaneEnv) (h : LaneHead) (imm : Option (BitVec 14)) (l : Nat) : Word32 :=
  match imm with
  | some i => i.signExtend 32
  | none => e.ib h l
/-- Source A of a word, widened to f32. -/
def LaneEnv.fa (e : LaneEnv) (h : LaneHead) (l : Nat) : XVal × Word32 := widenF32 e.run.fmt h.ma (e.raw h.va l)
/-- Source B of a word, widened to f32. -/
def LaneEnv.fb (e : LaneEnv) (h : LaneHead) (l : Nat) : XVal × Word32 := widenF32 e.run.fmt h.mb (e.raw h.vb l)
/-- Source C of a word, widened to f32. -/
def LaneEnv.fc (e : LaneEnv) (h : LaneHead) (l : Nat) : XVal × Word32 := widenF32 e.run.fmt h.mc (e.raw h.vc l)

/-! ## Narrow (R70) -/

/-- A rounding mode, read through DRM when it is 6 (R45). -/
def effRm (fmt : Word32) (rm : BitVec 3) : Nat := if rm = 6#3 then fmtDrm fmt else rm.toNat

/-- The 16 random bits of a lane's stochastic rounding (R68); the high half of a packed pair uses the low bits. -/
def LaneEnv.rb (e : LaneEnv) (high : Bool) (lane : Nat) : Nat :=
  let h := srHash e.g.dither.toNat (if fmtSrsel e.run.fmt = 0 then lane else 0)
  if high then h % 65536 else h / 65536 % 65536

/-- How a word's result rounds in a lane. -/
def LaneEnv.rnd (e : LaneEnv) (h : LaneHead) (high : Bool) (lane : Nat) : Rnd :=
  { rm := effRm e.run.fmt h.md.rm, rb := e.rb high lane, fmt := e.run.fmt }

/-- Replace the subfield that a destination modifier selects. -/
def putSub (m : DstMod) (old : Word32) (code : Nat) : Word32 :=
  let k := szBits m.sz
  let sh := k * m.ix.toNat
  (old &&& ~~~(BitVec.ofNat 32 ((2 ^ k - 1) <<< sh))) ||| BitVec.ofNat 32 ((code % 2 ^ k) <<< sh)

/-- `Narrow` of an FP32 result: the register value and the flags (R70). -/
def narrowF (fmt : Word32) (m : DstMod) (r : Rnd) (old : Word32) (x : XVal) : Word32 × Word32 :=
  if m.sz = 0#2 then
    let v := xRound .f32 r x
    (BitVec.ofNat 32 v.1, v.2)
  else
    let v := xRound (fmtClass fmt m.sz.toNat) r x
    (putSub m old v.1, v.2)

/-- `Narrow` of an integer result, by its exact value (R70). -/
def narrowInt (fmt : Word32) (m : DstMod) (r : Rnd) (old : Word32) (x : Int) : Word32 × Word32 :=
  if m.sz = 0#2 then (BitVec.ofInt 32 x, 0)
  else
    let v := xRound (fmtClass fmt m.sz.toNat) r (xInt x)
    (putSub m old v.1, v.2)

/-- The flags of a clamp alone (R163, R171). -/
def clampFlags (v : Word32 × Word32) : Word32 × Word32 := (v.1, v.2 &&& (flSat ||| flNv))

/-- `Narrow` of the result of an integer form of R162: RM is ignored, and only SAT and NV are set (R163). -/
def narrowI (fmt : Word32) (m : DstMod) (old : Word32) (x : Int) : Word32 × Word32 :=
  clampFlags (narrowInt fmt m { rm := 0, fmt := fmt } old x)

/-- A raw move (R179): no clamp, no flag. -/
def narrowRaw (m : DstMod) (old x : Word32) : Word32 × Word32 :=
  if m.sz = 0#2 then (x, 0) else (putSub m old x.toNat, 0)

/-- `Narrow` of an FP32 encoding that is the result itself: written whole, or narrowed by its value (R169, R172,
R176). -/
def narrowCode (fmt : Word32) (m : DstMod) (r : Rnd) (old code : Word32) : Word32 × Word32 :=
  if m.sz = 0#2 then (code, 0) else narrowF fmt m r old (rawVal .f32 code.toNat)

end Sys2Proof.Machine
end

