-- ==== Sys2Proof/Machine/Flags.lean ====
section
/-! DEFINITION. Floating-point operations of the lane stream with the flags that each sets (spec/03_numbers.md R59, R60,
R67 to R72; spec/07_isa_lane.md R168 to R176, R183): on exact values, before `Narrow`. -/

namespace Sys2Proof.Machine

/-! ## Sources with their flags -/

/-- The format of an operand of a type: of the whole register, or of each half (R99, R167). -/
def tyFmt : FTy → Fmt
  | .f32 => .f32
  | .f16x2 => .f16
  | .bf16x2 => .bf16

/-- One half of a register: the high one or the low one (R167). -/
def halfOf (high : Bool) (w : Word32) : Nat := if high then w.toNat / 65536 else w.toNat % 65536

/-- The register that two halves make. -/
def joinHalves (lo hi : Nat) : Word32 := BitVec.ofNat 32 (lo % 65536 + 65536 * (hi % 65536))

/-- The flags of an operation's operands, with NV when the operation makes a NaN of operands that are none (R69). -/
def madeFlags (xs : List (XVal × Word32)) (x : XVal) : Word32 :=
  xs.foldl (fun f p => f ||| p.2) 0 ||| flagIf (xIsNan x && !xs.any (fun p => xIsNan p.1)) flNv

/-- Does a word's rounding mode read as RDN (R168)? -/
def LaneEnv.rdn (e : LaneEnv) (h : LaneHead) : Bool := effRm e.run.fmt h.md.rm == 2

/-- The three sources of a word at one place: widened for f32, or a half each for a packed type. -/
def LaneEnv.operand (e : LaneEnv) (h : LaneHead) (ty : FTy) (high : Bool) (k l : Nat) : XVal × Word32 :=
  let v := if k = 0 then h.va else if k = 1 then h.vb else h.vc
  let m := if k = 0 then h.ma else if k = 1 then h.mb else h.mc
  match ty with
  | .f32 => widenF32 e.run.fmt m (e.raw v l)
  | _ => readVal e.run.fmt (tyFmt ty) (halfOf high (e.raw v l))

/-! ## Arithmetic (R168) -/

/-- An arithmetic form in one lane: the exact `f` of its first `n` sources, narrowed; the halves of a packed type
independently (R167, R168). -/
def LaneEnv.arith (e : LaneEnv) (h : LaneHead) (ty : FTy) (n : Nat) (f : List XVal → XVal) (l : Nat) (old : Word32) :
    Word32 × Word32 :=
  let one (high : Bool) : XVal × Word32 :=
    let xs := (List.range n).map (fun k => e.operand h ty high k l)
    let x := f (xs.map (·.1))
    (x, madeFlags xs x)
  match ty with
  | .f32 =>
    let x := one false
    let r := narrowF e.run.fmt h.md (e.rnd h false l) old x.1
    (r.1, x.2 ||| r.2)
  | _ =>
    let lo := one false
    let hi := one true
    let rl := xRound (tyFmt ty) (e.rnd h false l) lo.1
    let rh := xRound (tyFmt ty) (e.rnd h true l) hi.1
    (joinHalves rl.1 rh.1, lo.2 ||| hi.2 ||| rl.2 ||| rh.2)

/-- The first of a list of values. -/
def xAt (l : List XVal) (k : Nat) : XVal := l.getD k .nan

/-- A power of two beyond the range of any result stands for every larger one: no FP32 value times 2^2000, and none
times 2^-2000, is finite and non-zero after rounding. -/
def clampExp (n : Int) : Int := max (-2000) (min 2000 n)

/-- The n of `FSCALE` (R168). -/
def LaneEnv.scaleExp (e : LaneEnv) (h : LaneHead) (ty : FTy) (high : Bool) (l : Nat) : Int :=
  match ty with
  | .f32 => (e.ib h l).toInt
  | _ => (BitVec.ofNat 16 (halfOf high (e.raw h.vb l))).toInt

/-- `FSCALE` in one lane (R168). -/
def LaneEnv.fscale (e : LaneEnv) (h : LaneHead) (ty : FTy) (l : Nat) (old : Word32) : Word32 × Word32 :=
  let one (high : Bool) : XVal × Word32 :=
    let a := e.operand h ty high 0 l
    (xScale (clampExp (e.scaleExp h ty high l)) a.1, a.2)
  match ty with
  | .f32 =>
    let x := one false
    let r := narrowF e.run.fmt h.md (e.rnd h false l) old x.1
    (r.1, x.2 ||| r.2)
  | _ =>
    let lo := one false
    let hi := one true
    let rl := xRound (tyFmt ty) (e.rnd h false l) lo.1
    let rh := xRound (tyFmt ty) (e.rnd h true l) hi.1
    (joinHalves rl.1 rh.1, lo.2 ||| hi.2 ||| rl.2 ||| rh.2)

/-! ## Choosing (R169) -/

/-- Less, with −0 below +0 (R169). -/
def chooseLt (a b : XVal) : Bool := xLt a b || (xIsZero a && xIsZero b && xNeg a && !xNeg b)

/-- The operand that `FMIN` (or `FMAX`) chooses of two encodings of a format, as each was read (R169). -/
def chooseCode (f : Fmt) (mx : Bool) (a b : Nat) : Nat :=
  let x := rawVal f a
  let y := rawVal f b
  if xIsNan x && xIsNan y then fmtNanCode f
  else if xIsNan x then b
  else if xIsNan y then a
  else if mx then (if chooseLt x y then b else a)
  else (if chooseLt y x then b else a)

/-- An operand of a choosing form as it was read: its encoding, flushed (R60), in FP32 for a subfield; with its NV. -/
def readCode (fmt : Word32) (m : SrcMod) (w : Word32) : Nat × Word32 :=
  if m.sz = 0#2 then (flushIn fmt .f32 w.toNat, flagIf (isSnan .f32 w.toNat) flNv)
  else
    let x := widenF32 fmt m w
    ((xRound .f32 { rm := 0 } x.1).1, x.2)

/-- A half as it was read. -/
def readHalf (fmt : Word32) (f : Fmt) (c : Nat) : Nat × Word32 := (flushIn fmt f c, flagIf (isSnan f c) flNv)

/-- `FMIN` or `FMAX` in one lane (R169). -/
def LaneEnv.choose (e : LaneEnv) (h : LaneHead) (ty : FTy) (mx : Bool) (l : Nat) (old : Word32) : Word32 × Word32 :=
  let fmt := e.run.fmt
  match ty with
  | .f32 =>
    let a := readCode fmt h.ma (e.raw h.va l)
    let b := readCode fmt h.mb (e.raw h.vb l)
    let r := narrowCode fmt h.md (e.rnd h false l) old (BitVec.ofNat 32 (chooseCode .f32 mx a.1 b.1))
    (r.1, a.2 ||| b.2 ||| r.2)
  | _ =>
    let f := tyFmt ty
    let one (high : Bool) : Nat × Word32 :=
      let a := readHalf fmt f (halfOf high (e.raw h.va l))
      let b := readHalf fmt f (halfOf high (e.raw h.vb l))
      (chooseCode f mx a.1 b.1, a.2 ||| b.2)
    let lo := one false
    let hi := one true
    (joinHalves lo.1 hi.1, lo.2 ||| hi.2)

/-! ## Comparing (R170) -/

/-- A comparison, with the flags it sets beside those of reading (R170). -/
def fcmpVal (c : FCond) (a b : XVal) : Bool × Word32 :=
  let un := xIsNan a || xIsNan b
  match c with
  | .eq => (xEq a b, 0)
  | .ne => (!xEq a b, 0)
  | .lt => (xLt a b, flagIf un flNv)
  | .le => (!un && !xLt b a, flagIf un flNv)
  | .gt => (xLt b a, flagIf un flNv)
  | .ge => (!un && !xLt a b, flagIf un flNv)
  | .un => (un, 0)
  | .or => (!un, 0)

/-- `FCMP` at one place of a lane. -/
def LaneEnv.fcmpAt (e : LaneEnv) (h : LaneHead) (ty : FTy) (c : FCond) (high : Bool) (l : Nat) : Bool × Word32 :=
  let a := e.operand h ty high 0 l
  let b := e.operand h ty high 1 l
  let r := fcmpVal c a.1 b.1
  (r.1, a.2 ||| b.2 ||| r.2)

/-! ## Classing (R171) -/

/-- The bit of the class mask of an encoding, taken as it is stored (R171). -/
def classBit (f : Fmt) (code : Nat) : Nat :=
  match rawVal f code with
  | .nan => if isSnan f code then 8 else 9
  | .inf s => if s then 0 else 7
  | .fin s n _ _ =>
    if n = 0 then (if s then 3 else 4)
    else if isSubnormal f code then (if s then 2 else 5)
    else (if s then 1 else 6)

/-- `FCLASS` in one lane, before its integer `Narrow` (R171). -/
def LaneEnv.fclass (e : LaneEnv) (h : LaneHead) (ty : FTy) (l : Nat) : Nat :=
  let w := e.raw h.va l
  match ty with
  | .f32 =>
    if h.ma.sz = 0#2 then 2 ^ classBit .f32 w.toNat
    else 2 ^ classBit (fmtClass e.run.fmt h.ma.sz.toNat) (subfield h.ma.sz h.ma.ix w)
  | _ => 2 ^ classBit (tyFmt ty) (halfOf false w) + 65536 * 2 ^ classBit (tyFmt ty) (halfOf true w)

/-! ## Rounding to integral values (R172) -/

/-- A value rounded to an integral one, and whether it changed (R172). -/
def integralOf (r : Rnd) : XVal → XVal × Bool
  | .fin s n d e =>
    if n = 0 then (.fin s n d e, false)
    else
      let v := roundQ r s n d e 0
      (.fin s v.1 1 0, v.2)
  | x => (x, false)

/-- `FRND` in one lane (R172). A signalling NaN sets NV with X = 0 too (DESIGN CHOICE, entry 58). -/
def LaneEnv.frnd (e : LaneEnv) (h : LaneHead) (ty : FTy) (x : Bool) (l : Nat) (old : Word32) : Word32 × Word32 :=
  let one (high : Bool) : XVal × Word32 :=
    let a := e.operand h ty high 0 l
    let v := integralOf (e.rnd h high l) a.1
    (v.1, a.2 ||| flagIf (x && v.2) flNx)
  match ty with
  | .f32 =>
    let v := one false
    let r := narrowF e.run.fmt h.md (e.rnd h false l) old v.1
    (r.1, v.2 ||| r.2)
  | _ =>
    let lo := one false
    let hi := one true
    (joinHalves (xRound (tyFmt ty) (e.rnd h false l) lo.1).1 (xRound (tyFmt ty) (e.rnd h true l) hi.1).1, lo.2 ||| hi.2)

/-! ## Conversions (R173 to R175) -/

/-- The source of a `CVT`: its exact value and flags (R173, R174). -/
def cvtSource (fmt : Word32) (m : SrcMod) (src : CvtFmt) (w : Word32) : XVal × Word32 :=
  if m.sz ≠ 0#2 then widenF32 fmt m w
  else
    match src with
    | .f32 => readVal fmt .f32 w.toNat
    | .f16lo => readVal fmt .f16 (halfOf false w)
    | .f16hi => readVal fmt .f16 (halfOf true w)
    | .bf16lo => readVal fmt .bf16 (halfOf false w)
    | .bf16hi => readVal fmt .bf16 (halfOf true w)
    | .i32 => (rawVal .i32 w.toNat, 0)
    | .n32 => (rawVal .n32 w.toNat, 0)

/-- The destination of a `CVT`: the register value and the flags (R173, R174). -/
def cvtDest (fmt : Word32) (m : DstMod) (r : Rnd) (dst : CvtFmt) (old : Word32) (x : XVal) : Word32 × Word32 :=
  if m.sz ≠ 0#2 then narrowF fmt m r old x
  else
    let full (f : Fmt) : Word32 × Word32 :=
      let v := xRound f r x
      (BitVec.ofNat 32 v.1, v.2)
    let half (f : Fmt) (high : Bool) : Word32 × Word32 :=
      let v := xRound f r x
      (if high then joinHalves (halfOf false old) v.1 else joinHalves v.1 (halfOf true old), v.2)
    match dst with
    | .f32 => full .f32
    | .f16lo => half .f16 false
    | .f16hi => half .f16 true
    | .bf16lo => half .bf16 false
    | .bf16hi => half .bf16 true
    | .i32 => full .i32
    | .n32 => full .n32

/-- `CVT` in one lane (R173, R174). -/
def LaneEnv.cvt (e : LaneEnv) (h : LaneHead) (src dst : CvtFmt) (l : Nat) (old : Word32) : Word32 × Word32 :=
  let x := cvtSource e.run.fmt h.ma src (e.raw h.va l)
  let r := cvtDest e.run.fmt h.md (e.rnd h false l) dst old x.1
  (r.1, x.2 ||| r.2)

/-- Lmax of a format (R175). -/
def lmax (f : Fmt) : XVal :=
  if fmtIsFloat f ∨ f = .lg6 then rawVal f (fmtMaxCode f) else xInt (fmtRange f).2

/-- The smallest scale code whose scale is at least a positive value, and SAT when there is none (R175). -/
def scaleCode (n d : Nat) (e : Int) : Nat × Word32 :=
  let k := magLog n d e
  let fits (f : Nat) : Bool := !magLt (4 + f) 1 (k - 2) n d e
  let at4 (j : Nat) : Nat := 4 * (k + 127).toNat + j
  if k + 127 < 0 then (0, 0)
  else
    let c := if fits 0 then at4 0 else if fits 1 then at4 1 else if fits 2 then at4 2 else if fits 3 then at4 3 else at4 4
    if 0x3fb < c then (0x3fb, flSat) else (c, 0)

/-- `BSCALE.enc` of a value for a class (R175). -/
def bscaleEnc (f : Fmt) (x : XVal) : Nat × Word32 :=
  match xDivPos (xAbs x) (lmax f) with
  | .fin _ n d e => if n = 0 then (0x1fc, 0) else scaleCode n d e
  | _ => (0x3fc, 0)

/-- The subfield size code of a `BSCALE.enc` class. -/
def bsSize : BsMode → Nat
  | .enc8 => 1
  | .enc6 => 2
  | .enc4 => 3
  | _ => 0

/-- `BSCALE` in one lane (R175). -/
def LaneEnv.bscale (e : LaneEnv) (h : LaneHead) (mode : BsMode) (l : Nat) (old : Word32) : Word32 × Word32 :=
  let fmt := e.run.fmt
  let a := e.fa h l
  let by_ (f : XVal → XVal → XVal) : Word32 × Word32 :=
    let x :=
      match scaleVal (fmtBs fmt) (e.ib h l).toNat with
      | some sc => f a.1 sc
      | none => .nan
    let r := narrowF fmt h.md (e.rnd h false l) old x
    (r.1, a.2 ||| r.2)
  match mode with
  | .mul => by_ xMul
  | .div => by_ xDivPos
  | _ =>
    let c := bscaleEnc (fmtClass fmt (bsSize mode)) a.1
    let r := narrowInt fmt h.md (e.rnd h false l) old c.1
    (r.1, a.2 ||| c.2 ||| r.2)

/-! ## Special functions (R72, R176) -/

/-- The special functions, in the order of their opcodes (R98). -/
inductive Sf where
  | rcp
  | rsq
  | sqrt
  | exp2
  | log2
  | sinpi
  | cospi
  | tanh
  deriving DecidableEq, Repr

/-- The value and flags of a special function, and whether its FP32 result is the one that rounds correctly (R72). -/
def sfValue (f : Sf) (x : XVal) : SfVal × Bool :=
  match f with
  | .rcp => (sfRcp x, true)
  | .rsq => (sfRsq x, true)
  | .sqrt => (sfSqrt x, true)
  | .exp2 => (sfExp2 x, true)
  | .log2 => (sfLog2 x, true)
  | .sinpi => (sfSinpi x, false)
  | .cospi => (sfCospi x, false)
  | .tanh => sfTanh x

/-- The number of a special function. -/
def sfNum : Sf → Nat
  | .rcp => 0
  | .rsq => 1
  | .sqrt => 2
  | .exp2 => 3
  | .log2 => 4
  | .sinpi => 5
  | .cospi => 6
  | .tanh => 7

/-- The FP32 result of a special function and its flags (R72): where the rule bounds the error by 1 ulp, one of the two
FP32 values beside the true result, which a free value chooses. -/
def sfCode (f : Sf) (fmt : Word32) (x : XVal) : Nat × Word32 :=
  let v := sfValue f x
  let input : Word32 := BitVec.ofNat 32 (xRound .f32 { rm := 0 } x).1
  let rm := if v.2 then 0 else if Config.sfuAbove (sfNum f) input then 9 else 8
  let r := xRound .f32 { rm := rm, fmt := fmt } v.1.1
  (r.1, v.1.2 ||| r.2)

/-- A special function in one lane (R176). -/
def LaneEnv.special (e : LaneEnv) (h : LaneHead) (f : Sf) (l : Nat) (old : Word32) : Word32 × Word32 :=
  let a := e.fa h l
  let c := sfCode f e.run.fmt a.1
  let r := narrowCode e.run.fmt h.md (e.rnd h false l) old (BitVec.ofNat 32 c.1)
  (r.1, a.2 ||| c.2 ||| r.2)

/-! ## Combining (R79, R183, R222) -/

/-- One step of an FP32 sum under RNE (R183): the encoding and its flags. -/
def fadd32 (fmt : Word32) (a b : Nat) : Nat × Word32 :=
  let x := readVal fmt .f32 a
  let y := readVal fmt .f32 b
  let z := xAdd false x.1 y.1
  let r := xRound .f32 { rm := 0, fmt := fmt } z
  (r.1, madeFlags [x, y] z ||| r.2)

/-- One step of an FP32 minimum or maximum (R169, R183). -/
def fchoose32 (fmt : Word32) (mx : Bool) (a b : Nat) : Nat × Word32 :=
  let x := readHalf fmt .f32 a
  let y := readHalf fmt .f32 b
  (chooseCode .f32 mx x.1 y.1, x.2 ||| y.2)

/-- Take the element at a position out of a list. -/
def takeOut {α : Type} (l : List α) (k : Nat) (d : α) : α × List α :=
  let j := k % l.length
  (l.getD j d, l.eraseIdx j)

/-- Combine a list in an order that is not fixed (R79): a free value picks the two that combine next. -/
def combineAny (f : Nat → Nat → Nat × Word32) : Nat → Nat → List Nat → Word32 → Nat × Word32
  | 0, _, l, fl => (l.headD 0, fl)
  | fuel + 1, k, l, fl =>
    if l.length ≤ 1 then (l.headD 0, fl)
    else
      let a := takeOut l (Config.freePick (2 * k)) 0
      let b := takeOut a.2 (Config.freePick (2 * k + 1)) 0
      let r := f a.1 b.1
      combineAny f fuel (k + 1) (r.1 :: b.2) (fl ||| r.2)

/-- Combine a list from left to right. -/
def combineLeft (f : Nat → Nat → Nat × Word32) : Nat → List Nat → Word32 → Nat × Word32
  | acc, [], fl => (acc, fl)
  | acc, x :: l, fl =>
    let r := f acc x
    combineLeft f r.1 l (fl ||| r.2)

/-! ## Stochastic rounding advances DITHER (R49) -/

/-- Does an issued word round with RM = 5 (R49, R91)? The forms whose `Narrow` rounds, in a full destination or only in
a subfield one: a `REDUX` or `SCAN` of floats into a full destination, whose steps round to nearest, does not (DESIGN CHOICE, entry
58). -/
def roundsRm5 (fmt : Word32) (i : Instr) : Bool :=
  let five (h : LaneHead) : Bool := effRm fmt h.md.rm == 5
  let sub (h : LaneHead) : Bool := h.md.sz != 0#2 && five h
  match i with
  | .fadd h _ => five h
  | .fsub h _ => five h
  | .fmul h _ => five h
  | .ffma h _ => five h
  | .frnd h _ _ => five h
  | .fscale h _ => five h
  | .cvt h _ _ => five h
  | .bscale h .mul => five h
  | .bscale h .div => five h
  | .bscale h _ => sub h
  | .fclass h _ => sub h
  | .ptoi h _ => sub h
  | .vote h _ _ _ => sub h
  | .fmin h _ => sub h
  | .fmax h _ => sub h
  | .rcp h => sub h
  | .rsq h => sub h
  | .sqrt h => sub h
  | .exp2 h => sub h
  | .log2 h => sub h
  | .sinpi h => sub h
  | .cospi h => sub h
  | .tanh h => sub h
  | .redux h _ => sub h
  | .scan h _ _ => sub h
  | _ => false

end Sys2Proof.Machine
end

