-- ==== Sys2Proof/WellFormed.lean ====
section
/-! DEFINITION. Which terms of `Instr` are well formed: an instruction word whose fields pass the checks of R103
step 3 (spec/04_encoding.md), or an event or command whose arguments name units that the FX-840 has
(spec/01_machine.md R13 to R25, spec/19_host.md R377). -/

namespace Sys2Proof

/-- A world number, 0 to 63 (R25). -/
def worldOk (w : Nat) : Bool := w < 64
/-- A slice number, 0 to 255 (R17). -/
def sliceOk (s : Nat) : Bool := s < 256
/-- A core key, x + 32 y, for the 32 by 28 grid of 896 cores (R13). -/
def coreKeyOk (c : Nat) : Bool := c < 896
/-- A physical address of the 41-bit space (R407). -/
def physOk (a : Nat) : Bool := a < 2 ^ 41

/-- The arguments of an event or command name units that exist. -/
def argsOk : Instr → Bool
  | .brunComplete slice => sliceOk slice
  | .doorbell w q _ => worldOk w && q < 4
  | .lqcfg w q _ => worldOk w && q < 4
  | .elcfg w _ => worldOk w
  | .fqcfg w _ => worldOk w
  | .freply w _ => worldOk w
  | .counterReadLow w off => worldOk w && off < 2 ^ 16
  | .registerWrite w off _ => worldOk w && off < 2 ^ 16
  | .launchTake w => worldOk w
  | .troupeResident c => coreKeyOk c
  | .runStart c q s => coreKeyOk c && q < 4 && s < 16
  | .quantumExpiry c => coreKeyOk c
  | .faultService w _ => worldOk w
  | .slicePortRead w pa => worldOk w && physOk pa
  | .slicePortWrite w pa => worldOk w && physOk pa
  | .transportPacketReceive w _ _ pa => worldOk w && physOk pa
  | .epochAdvance w => worldOk w
  | .peerFlitReceive port _ _ => port < 12
  | .inboundApertureAccess port num _ _ _ => port < 12 && num < 64
  | .hostCxlMemAccess fn pa _ _ _ => fn < 64 && physOk pa
  | .heartbeatExpiry w => worldOk w
  | .gracePeriodEnd w => worldOk w
  | .getVersion w => worldOk w
  | .getCapabilities w => worldOk w
  | .negotiateAlgorithms w => worldOk w
  | .getDigests w => worldOk w
  | .getCertificate w => worldOk w
  | .challenge w _ => worldOk w
  | .getMeasurements w _ => worldOk w
  | .keyExchange w _ _ => worldOk w
  | .finish w => worldOk w
  | .heartbeat w => worldOk w
  | .keyUpdate w => worldOk w
  | .endSession w => worldOk w
  | .lockInterfaceRequest w => worldOk w
  | .startInterfaceRequest w => worldOk w
  | .stopInterfaceRequest w => worldOk w
  | .secretRelease w _ => worldOk w
  | .matrixFormCompletion c q _ => coreKeyOk c && q < 4
  | .fqhead w _ => worldOk w
  | .scrub s => sliceOk s
  | .rhctl w _ => worldOk w
  | .debugStop w => worldOk w
  | .debugResume w => worldOk w
  | .debugStep w _ => worldOk w
  | .debugSelect w _ => worldOk w
  | _ => true

/-- A well-formed instruction. -/
def Instr.wf (i : Instr) : Bool := fieldOk i && argsOk i

end Sys2Proof
end

