-- ==== Sys2Proof/Decode.lean ====
section
/-! DEFINITION. The decoder of the FX-840's two kinds of instruction word and, after it, an encoder written from the
same tables (spec/04_encoding.md R81 to R105; the field tables of the instruction references). A scalar word is 32
bits, a lane word 96 bits. Decoding is total: a word is an instruction, or it fails R103 step 1 (its OP is
unassigned), or step 3 (a field of it is illegal or reserved); the decoder says which and on which kinds of core
its OP is legal, so that step 2 can be checked before step 3. -/

namespace Sys2Proof

/-- The code of a `ICond` in an instruction word. -/
def ICond.code : ICond → BitVec 4
  | .eq => 0#4
  | .ne => 1#4
  | .lt => 2#4
  | .le => 3#4
  | .gt => 4#4
  | .ge => 5#4
  | .ltn => 6#4
  | .len => 7#4
  | .gtn => 8#4
  | .gen => 9#4

/-- The `ICond` a code names; none for a code without a meaning. -/
def ICond.ofCode (c : BitVec 4) : Option ICond :=
  match c with
  | 0#4 => some .eq
  | 1#4 => some .ne
  | 2#4 => some .lt
  | 3#4 => some .le
  | 4#4 => some .gt
  | 5#4 => some .ge
  | 6#4 => some .ltn
  | 7#4 => some .len
  | 8#4 => some .gtn
  | 9#4 => some .gen
  | _ => none

/-- The code names what it is the code of. -/
@[simp] theorem ICond.ofCode_code (x : ICond) : ICond.ofCode x.code = some x := by cases x <;> rfl

/-- The code of a `FTy` in an instruction word. -/
def FTy.code : FTy → BitVec 2
  | .f32 => 0#2
  | .f16x2 => 1#2
  | .bf16x2 => 2#2

/-- The `FTy` a code names; none for a code without a meaning. -/
def FTy.ofCode (c : BitVec 2) : Option FTy :=
  match c with
  | 0#2 => some .f32
  | 1#2 => some .f16x2
  | 2#2 => some .bf16x2
  | _ => none

/-- The code names what it is the code of. -/
@[simp] theorem FTy.ofCode_code (x : FTy) : FTy.ofCode x.code = some x := by cases x <;> rfl

/-- The code of a `FCond` in an instruction word. -/
def FCond.code : FCond → BitVec 3
  | .eq => 0#3
  | .ne => 1#3
  | .lt => 2#3
  | .le => 3#3
  | .gt => 4#3
  | .ge => 5#3
  | .un => 6#3
  | .or => 7#3

/-- The `FCond` a code names; none for a code without a meaning. -/
def FCond.ofCode (c : BitVec 3) : Option FCond :=
  match c with
  | 0#3 => some .eq
  | 1#3 => some .ne
  | 2#3 => some .lt
  | 3#3 => some .le
  | 4#3 => some .gt
  | 5#3 => some .ge
  | 6#3 => some .un
  | 7#3 => some .or

/-- The code names what it is the code of. -/
@[simp] theorem FCond.ofCode_code (x : FCond) : FCond.ofCode x.code = some x := by cases x <;> rfl

/-- The code of a `CvtFmt` in an instruction word. -/
def CvtFmt.code : CvtFmt → BitVec 4
  | .f32 => 0#4
  | .f16lo => 1#4
  | .f16hi => 2#4
  | .bf16lo => 3#4
  | .bf16hi => 4#4
  | .i32 => 5#4
  | .n32 => 6#4

/-- The `CvtFmt` a code names; none for a code without a meaning. -/
def CvtFmt.ofCode (c : BitVec 4) : Option CvtFmt :=
  match c with
  | 0#4 => some .f32
  | 1#4 => some .f16lo
  | 2#4 => some .f16hi
  | 3#4 => some .bf16lo
  | 4#4 => some .bf16hi
  | 5#4 => some .i32
  | 6#4 => some .n32
  | _ => none

/-- The code names what it is the code of. -/
@[simp] theorem CvtFmt.ofCode_code (x : CvtFmt) : CvtFmt.ofCode x.code = some x := by cases x <;> rfl

/-- The code of a `VoteMode` in an instruction word. -/
def VoteMode.code : VoteMode → BitVec 2
  | .any => 0#2
  | .all => 1#2
  | .ballot => 2#2
  | .count => 3#2

/-- The `VoteMode` a code names; none for a code without a meaning. -/
def VoteMode.ofCode (c : BitVec 2) : Option VoteMode :=
  match c with
  | 0#2 => some .any
  | 1#2 => some .all
  | 2#2 => some .ballot
  | 3#2 => some .count

/-- The code names what it is the code of. -/
@[simp] theorem VoteMode.ofCode_code (x : VoteMode) : VoteMode.ofCode x.code = some x := by cases x <;> rfl

/-- The code of a `ShflMode` in an instruction word. -/
def ShflMode.code : ShflMode → BitVec 2
  | .idx => 0#2
  | .up => 1#2
  | .down => 2#2
  | .xor => 3#2

/-- The `ShflMode` a code names; none for a code without a meaning. -/
def ShflMode.ofCode (c : BitVec 2) : Option ShflMode :=
  match c with
  | 0#2 => some .idx
  | 1#2 => some .up
  | 2#2 => some .down
  | 3#2 => some .xor

/-- The code names what it is the code of. -/
@[simp] theorem ShflMode.ofCode_code (x : ShflMode) : ShflMode.ofCode x.code = some x := by cases x <;> rfl

/-- The code of a `RedOp` in an instruction word. -/
def RedOp.code : RedOp → BitVec 4
  | .iadd => 0#4
  | .imin => 1#4
  | .imax => 2#4
  | .iminn => 3#4
  | .imaxn => 4#4
  | .and => 5#4
  | .or => 6#4
  | .xor => 7#4
  | .fadd => 8#4
  | .fmin => 9#4
  | .fmax => 10#4

/-- The `RedOp` a code names; none for a code without a meaning. -/
def RedOp.ofCode (c : BitVec 4) : Option RedOp :=
  match c with
  | 0#4 => some .iadd
  | 1#4 => some .imin
  | 2#4 => some .imax
  | 3#4 => some .iminn
  | 4#4 => some .imaxn
  | 5#4 => some .and
  | 6#4 => some .or
  | 7#4 => some .xor
  | 8#4 => some .fadd
  | 9#4 => some .fmin
  | 10#4 => some .fmax
  | _ => none

/-- The code names what it is the code of. -/
@[simp] theorem RedOp.ofCode_code (x : RedOp) : RedOp.ofCode x.code = some x := by cases x <;> rfl

/-- The code of a `MSize` in an instruction word. -/
def MSize.code : MSize → BitVec 3
  | .z8 => 0#3
  | .s8 => 1#3
  | .z16 => 2#3
  | .s16 => 3#3
  | .w32 => 4#3
  | .w64 => 5#3
  | .w128 => 6#3

/-- The `MSize` a code names; none for a code without a meaning. -/
def MSize.ofCode (c : BitVec 3) : Option MSize :=
  match c with
  | 0#3 => some .z8
  | 1#3 => some .s8
  | 2#3 => some .z16
  | 3#3 => some .s16
  | 4#3 => some .w32
  | 5#3 => some .w64
  | 6#3 => some .w128
  | _ => none

/-- The code names what it is the code of. -/
@[simp] theorem MSize.ofCode_code (x : MSize) : MSize.ofCode x.code = some x := by cases x <;> rfl

/-- The code of a `Scope` in an instruction word. -/
def Scope.code : Scope → BitVec 3
  | .grp => 0#3
  | .core => 1#3
  | .booth => 2#3
  | .die => 3#3
  | .dev => 4#3
  | .sys => 5#3

/-- The `Scope` a code names; none for a code without a meaning. -/
def Scope.ofCode (c : BitVec 3) : Option Scope :=
  match c with
  | 0#3 => some .grp
  | 1#3 => some .core
  | 2#3 => some .booth
  | 3#3 => some .die
  | 4#3 => some .dev
  | 5#3 => some .sys
  | _ => none

/-- The code names what it is the code of. -/
@[simp] theorem Scope.ofCode_code (x : Scope) : Scope.ofCode x.code = some x := by cases x <;> rfl

/-- The code of a `AtomOp` in an instruction word. -/
def AtomOp.code : AtomOp → BitVec 4
  | .add => 0#4
  | .and => 1#4
  | .or => 2#4
  | .xor => 3#4
  | .min => 4#4
  | .max => 5#4
  | .minn => 6#4
  | .maxn => 7#4
  | .xchg => 8#4
  | .cas => 9#4
  | .fadd => 10#4

/-- The `AtomOp` a code names; none for a code without a meaning. -/
def AtomOp.ofCode (c : BitVec 4) : Option AtomOp :=
  match c with
  | 0#4 => some .add
  | 1#4 => some .and
  | 2#4 => some .or
  | 3#4 => some .xor
  | 4#4 => some .min
  | 5#4 => some .max
  | 6#4 => some .minn
  | 7#4 => some .maxn
  | 8#4 => some .xchg
  | 9#4 => some .cas
  | 10#4 => some .fadd
  | _ => none

/-- The code names what it is the code of. -/
@[simp] theorem AtomOp.ofCode_code (x : AtomOp) : AtomOp.ofCode x.code = some x := by cases x <;> rfl

/-- The code of a `MmaMode` in an instruction word. -/
def MmaMode.code : MmaMode → BitVec 2
  | .f => 0#2
  | .i => 1#2
  | .l => 2#2

/-- The `MmaMode` a code names; none for a code without a meaning. -/
def MmaMode.ofCode (c : BitVec 2) : Option MmaMode :=
  match c with
  | 0#2 => some .f
  | 1#2 => some .i
  | 2#2 => some .l
  | _ => none

/-- The code names what it is the code of. -/
@[simp] theorem MmaMode.ofCode_code (x : MmaMode) : MmaMode.ofCode x.code = some x := by cases x <;> rfl

/-- The code of a `ACls` in an instruction word. -/
def ACls.code : ACls → BitVec 3
  | .a4 => 0#3
  | .a6 => 1#3
  | .a8 => 2#3
  | .af16 => 3#3
  | .abf16 => 4#3

/-- The `ACls` a code names; none for a code without a meaning. -/
def ACls.ofCode (c : BitVec 3) : Option ACls :=
  match c with
  | 0#3 => some .a4
  | 1#3 => some .a6
  | 2#3 => some .a8
  | 3#3 => some .af16
  | 4#3 => some .abf16
  | _ => none

/-- The code names what it is the code of. -/
@[simp] theorem ACls.ofCode_code (x : ACls) : ACls.ofCode x.code = some x := by cases x <;> rfl

/-- The code of a `Path` in an instruction word. -/
def Path.code : Path → BitVec 3
  | .ls => 0#3
  | .const => 1#3
  | .mtx => 2#3
  | .copy => 3#3
  | .gath => 4#3
  | .coll => 5#3
  | .bank => 6#3
  | .atom => 7#3

/-- The `Path` a code names; none for a code without a meaning. -/
def Path.ofCode (c : BitVec 3) : Option Path :=
  match c with
  | 0#3 => some .ls
  | 1#3 => some .const
  | 2#3 => some .mtx
  | 3#3 => some .copy
  | 4#3 => some .gath
  | 5#3 => some .coll
  | 6#3 => some .bank
  | 7#3 => some .atom

/-- The code names what it is the code of. -/
@[simp] theorem Path.ofCode_code (x : Path) : Path.ofCode x.code = some x := by cases x <;> rfl

/-- The code of a `CpyMode` in an instruction word. -/
def CpyMode.code : CpyMode → BitVec 3
  | .ms => 0#3
  | .sm => 1#3
  | .mm => 2#3
  | .ss => 3#3

/-- The `CpyMode` a code names; none for a code without a meaning. -/
def CpyMode.ofCode (c : BitVec 3) : Option CpyMode :=
  match c with
  | 0#3 => some .ms
  | 1#3 => some .sm
  | 2#3 => some .mm
  | 3#3 => some .ss
  | _ => none

/-- The code names what it is the code of. -/
@[simp] theorem CpyMode.ofCode_code (x : CpyMode) : CpyMode.ofCode x.code = some x := by cases x <;> rfl

/-- The code of a `CollMode` in an instruction word. -/
def CollMode.code : CollMode → BitVec 3
  | .allred => 0#3
  | .redscat => 1#3
  | .allgth => 2#3
  | .bcast => 3#3

/-- The `CollMode` a code names; none for a code without a meaning. -/
def CollMode.ofCode (c : BitVec 3) : Option CollMode :=
  match c with
  | 0#3 => some .allred
  | 1#3 => some .redscat
  | 2#3 => some .allgth
  | 3#3 => some .bcast
  | _ => none

/-- The code names what it is the code of. -/
@[simp] theorem CollMode.ofCode_code (x : CollMode) : CollMode.ofCode x.code = some x := by cases x <;> rfl

/-- The code of a `BarKind` in an instruction word. -/
def BarKind.code : BarKind → BitVec 2
  | .sync => 0#2
  | .arrive => 1#2
  | .wait => 2#2

/-- The `BarKind` a code names; none for a code without a meaning. -/
def BarKind.ofCode (c : BitVec 2) : Option BarKind :=
  match c with
  | 0#2 => some .sync
  | 1#2 => some .arrive
  | 2#2 => some .wait
  | _ => none

/-- The code names what it is the code of. -/
@[simp] theorem BarKind.ofCode_code (x : BarKind) : BarKind.ofCode x.code = some x := by cases x <;> rfl

/-- The code of a `FenceKind` in an instruction word. -/
def FenceKind.code : FenceKind → BitVec 2
  | .acq => 0#2
  | .rel => 1#2
  | .ar => 2#2

/-- The `FenceKind` a code names; none for a code without a meaning. -/
def FenceKind.ofCode (c : BitVec 2) : Option FenceKind :=
  match c with
  | 0#2 => some .acq
  | 1#2 => some .rel
  | 2#2 => some .ar
  | _ => none

/-- The code names what it is the code of. -/
@[simp] theorem FenceKind.ofCode_code (x : FenceKind) : FenceKind.ofCode x.code = some x := by cases x <;> rfl

/-- The code of a `BsMode`: MODE in bits [1:0], CLASS in bits [3:2] (R175). -/
def BsMode.code : BsMode → BitVec 4
  | .enc8 => 0#4
  | .enc6 => 4#4
  | .enc4 => 8#4
  | .mul => 1#4
  | .div => 2#4

/-- The `BsMode` a code names; none for MODE = 3, CLASS = 3 with MODE = 0, or a CLASS with another mode. -/
def BsMode.ofCode (c : BitVec 4) : Option BsMode :=
  match c with
  | 0#4 => some .enc8
  | 4#4 => some .enc6
  | 8#4 => some .enc4
  | 1#4 => some .mul
  | 2#4 => some .div
  | _ => none

/-- The code names what it is the code of. -/
@[simp] theorem BsMode.ofCode_code (x : BsMode) : BsMode.ofCode x.code = some x := by cases x <;> rfl


/-! ## Field codecs -/

/-- An immediate B operand: IB in bit 14, the value in [13:0]; with IB = 0 the value bits are reserved (R162). -/
def optImm14 (imm : BitVec 15) : Option (Option (BitVec 14)) :=
  if imm.getLsbD 14 then some (some (imm.extractLsb' 0 14))
  else if imm.extractLsb' 0 14 = 0#14 then some none else none

/-- The bits [14:0] of IMM16 of a form with an optional immediate B operand (R162). -/
def encImm14 : Option (BitVec 14) → BitVec 15
  | some v => 1#1 ++ v
  | none => 0#15

/-- The selector immediate of `SHFL`: IB in bit 14, the value in [13:9], reserved when IB = 0 (R181). -/
def optImm5 (imm : BitVec 15) : Option (Option (BitVec 5)) :=
  if imm.getLsbD 14 then some (some (imm.extractLsb' 9 5))
  else if imm.extractLsb' 9 5 = 0#5 then some none else none

/-- Bits [14:9] of IMM16 of `SHFL` (R181). -/
def encImm5 : Option (BitVec 5) → BitVec 6
  | some v => 1#1 ++ v
  | none => 0#6

/-- A guard field: 0 no guard, 8 + k guard k, 1 to 7 illegal (R86). -/
def optGuard (gf : BitVec 4) : Option (Option (BitVec 3)) :=
  if gf.getLsbD 3 then some (some (gf.extractLsb' 0 3))
  else if gf = 0#4 then some none else none

/-- The guard field of an optional guard (R86). -/
def encGuard : Option (BitVec 3) → BitVec 4
  | some k => 1#1 ++ k
  | none => 0#4

/-- The scope field of `BAR`: 7 names no fence, 6 is illegal (R228). -/
def optScope (c : BitVec 3) : Option (Option Scope) :=
  if c = 7#3 then some none else (Scope.ofCode c).map some

/-- The scope field of `BAR` (R228). -/
def encScope : Option Scope → BitVec 3
  | some s => s.code
  | none => 7#3

/-! ## The lane word -/

/-- The OP field of each lane form (R98). -/
def laneOp : Instr → Option (BitVec 10)
  | .iadd _ _ => some 0x000#10
  | .isub _ _ => some 0x001#10
  | .imul _ _ => some 0x002#10
  | .imulh _ _ => some 0x003#10
  | .imulhn _ _ => some 0x004#10
  | .imad _ _ => some 0x005#10
  | .imin _ _ => some 0x006#10
  | .imax _ _ => some 0x007#10
  | .iminn _ _ => some 0x008#10
  | .imaxn _ _ => some 0x009#10
  | .iabs _ => some 0x00a#10
  | .ineg _ => some 0x00b#10
  | .laneAnd _ _ => some 0x00c#10
  | .laneOr _ _ => some 0x00d#10
  | .laneXor _ _ => some 0x00e#10
  | .inot _ => some 0x00f#10
  | .laneShl _ _ => some 0x010#10
  | .laneShr _ _ => some 0x011#10
  | .laneSar _ _ => some 0x012#10
  | .rotl _ _ => some 0x013#10
  | .bfe _ _ _ _ => some 0x014#10
  | .bfi _ _ _ => some 0x015#10
  | .popc _ => some 0x016#10
  | .clz _ => some 0x017#10
  | .brev _ => some 0x018#10
  | .icmp _ _ _ => some 0x019#10
  | .cadd128 _ _ => some 0x01a#10
  | .fadd _ _ => some 0x040#10
  | .fsub _ _ => some 0x041#10
  | .fmul _ _ => some 0x042#10
  | .ffma _ _ => some 0x043#10
  | .fmin _ _ => some 0x044#10
  | .fmax _ _ => some 0x045#10
  | .fcmp _ _ _ _ => some 0x046#10
  | .fclass _ _ => some 0x047#10
  | .frnd _ _ _ => some 0x048#10
  | .fscale _ _ => some 0x049#10
  | .cvt _ _ _ => some 0x060#10
  | .bscale _ _ => some 0x061#10
  | .rcp _ => some 0x070#10
  | .rsq _ => some 0x071#10
  | .sqrt _ => some 0x072#10
  | .exp2 _ => some 0x073#10
  | .log2 _ => some 0x074#10
  | .sinpi _ => some 0x075#10
  | .cospi _ => some 0x076#10
  | .tanh _ => some 0x077#10
  | .pand _ _ _ _ => some 0x080#10
  | .por _ _ _ _ => some 0x081#10
  | .pxor _ _ _ _ => some 0x082#10
  | .pnot _ _ _ _ => some 0x083#10
  | .pmov _ _ _ _ => some 0x084#10
  | .ptoi _ _ => some 0x085#10
  | .sel _ _ _ => some 0x086#10
  | .mov _ => some 0x087#10
  | .limm _ _ => some 0x088#10
  | .shfl _ _ _ _ => some 0x0a0#10
  | .vote _ _ _ _ => some 0x0a1#10
  | .redux _ _ => some 0x0a2#10
  | .scan _ _ _ => some 0x0a3#10
  | .regroup _ _ _ => some 0x0a4#10
  | .demote _ => some 0x0a5#10
  | .vguard _ _ _ _ _ => some 0x0a6#10
  | .ld _ _ _ _ _ => some 0x0c0#10
  | .st _ _ _ _ _ => some 0x0c1#10
  | .lds _ _ _ _ => some 0x0c2#10
  | .sts _ _ _ _ => some 0x0c3#10
  | .ldc _ _ _ _ => some 0x0c4#10
  | .pref _ _ _ _ => some 0x0c5#10
  | .atom _ _ _ _ _ _ _ => some 0x0d0#10
  | .atoms _ _ _ _ _ _ => some 0x0d1#10
  | .rngx _ _ => some 0x0e0#10
  | .mma _ _ _ _ => some 0x100#10
  | .mmat _ _ _ _ => some 0x101#10
  | .mguide _ _ => some 0x102#10
  | .mzero _ _ => some 0x103#10
  | .bact _ _ => some 0x3c0#10
  | .bpre _ => some 0x3c1#10
  | .brd _ => some 0x3c2#10
  | .bwr _ => some 0x3c3#10
  | .bfma _ _ _ => some 0x3c4#10
  | .bmac _ _ => some 0x3c5#10
  | .badd _ _ _ => some 0x3c6#10
  | .bmul _ _ _ => some 0x3c7#10
  | .bcvt _ _ _ _ => some 0x3c8#10
  | .bred _ _ => some 0x3c9#10
  | .bxch _ _ => some 0x3ca#10
  | .bmov _ _ => some 0x3cb#10
  | .bst _ _ _ _ _ => some 0x3cc#10
  | .bzero _ => some 0x3cd#10
  | .rep _ _ _ _ _ => some 0x1f0#10
  | .laneNop _ => some 0x1f1#10
  | _ => none

/-- Bits [14:0] of IMM16 of each lane form (the function bits of its entry). -/
def laneImm : Instr → BitVec 15
  | .iadd _ imm => encImm14 imm
  | .isub _ imm => encImm14 imm
  | .imul _ imm => encImm14 imm
  | .imulh _ imm => encImm14 imm
  | .imulhn _ imm => encImm14 imm
  | .imad _ imm => encImm14 imm
  | .imin _ imm => encImm14 imm
  | .imax _ imm => encImm14 imm
  | .iminn _ imm => encImm14 imm
  | .imaxn _ imm => encImm14 imm
  | .iabs _ => 0#15
  | .ineg _ => 0#15
  | .laneAnd _ imm => encImm14 imm
  | .laneOr _ imm => encImm14 imm
  | .laneXor _ imm => encImm14 imm
  | .inot _ => 0#15
  | .laneShl _ imm => encImm14 imm
  | .laneShr _ imm => encImm14 imm
  | .laneSar _ imm => encImm14 imm
  | .rotl _ imm => encImm14 imm
  | .bfe _ pos len sgn => 0#3 ++ BitVec.ofBool sgn ++ len ++ pos
  | .bfi _ pos len => 0#4 ++ len ++ pos
  | .popc _ => 0#15
  | .clz _ => 0#15
  | .brev _ => 0#15
  | .icmp _ pd cond => 0#4 ++ cond.code ++ pd
  | .cadd128 _ nb => 0#14 ++ BitVec.ofBool nb
  | .fadd _ ty => 0#13 ++ ty.code
  | .fsub _ ty => 0#13 ++ ty.code
  | .fmul _ ty => 0#13 ++ ty.code
  | .ffma _ ty => 0#13 ++ ty.code
  | .fmin _ ty => 0#13 ++ ty.code
  | .fmax _ ty => 0#13 ++ ty.code
  | .fcmp _ ty pd cond => 0#3 ++ cond.code ++ pd ++ ty.code
  | .fclass _ ty => 0#13 ++ ty.code
  | .frnd _ ty x => 0#12 ++ BitVec.ofBool x ++ ty.code
  | .fscale _ ty => 0#13 ++ ty.code
  | .cvt _ src dst => 0#7 ++ dst.code ++ src.code
  | .bscale _ mode => 0#11 ++ mode.code
  | .rcp _ => 0#15
  | .rsq _ => 0#15
  | .sqrt _ => 0#15
  | .exp2 _ => 0#15
  | .log2 _ => 0#15
  | .sinpi _ => 0#15
  | .cospi _ => 0#15
  | .tanh _ => 0#15
  | .pand _ pd pa na => BitVec.ofBool na ++ pa ++ pd
  | .por _ pd pa na => BitVec.ofBool na ++ pa ++ pd
  | .pxor _ pd pa na => BitVec.ofBool na ++ pa ++ pd
  | .pnot _ pd pa na => BitVec.ofBool na ++ pa ++ pd
  | .pmov _ pd pa na => BitVec.ofBool na ++ pa ++ pd
  | .ptoi _ pa => 0#8 ++ pa
  | .sel _ ps ns => 0#7 ++ BitVec.ofBool ns ++ ps
  | .mov _ => 0#15
  | .limm _ lo => lo
  | .shfl _ mode pv imm => encImm5 imm ++ pv ++ mode.code
  | .vote _ pa na mode => 0#5 ++ mode.code ++ BitVec.ofBool na ++ pa
  | .redux _ op => 0#11 ++ op.code
  | .scan _ op excl => 0#10 ++ BitVec.ofBool excl ++ op.code
  | .regroup _ count pd => pd ++ count
  | .demote _ => 0#15
  | .vguard _ k all pa na => 0#3 ++ BitVec.ofBool na ++ pa ++ BitVec.ofBool all ++ k
  | .ld _ size osx sc disp => disp ++ sc.code ++ BitVec.ofBool osx ++ size.code
  | .st _ size osx sc disp => disp ++ sc.code ++ BitVec.ofBool osx ++ size.code
  | .lds _ size osx disp => disp ++ 0#3 ++ BitVec.ofBool osx ++ size.code
  | .sts _ size osx disp => disp ++ 0#3 ++ BitVec.ofBool osx ++ size.code
  | .ldc _ size osx disp => disp ++ 0#3 ++ BitVec.ofBool osx ++ size.code
  | .pref _ osx l2 disp => disp ++ 0#2 ++ BitVec.ofBool l2 ++ BitVec.ofBool osx ++ 0#3
  | .atom _ op w64 sc nr osx disp => disp ++ BitVec.ofBool osx ++ BitVec.ofBool nr ++ sc.code ++ BitVec.ofBool w64 ++ op.code
  | .atoms _ op w64 nr osx disp => disp ++ BitVec.ofBool osx ++ BitVec.ofBool nr ++ 0#3 ++ BitVec.ofBool w64 ++ op.code
  | .rngx _ unit => 0#14 ++ BitVec.ofBool unit
  | .mma _ mode acls n32 => 0#9 ++ BitVec.ofBool n32 ++ acls.code ++ mode.code
  | .mmat _ mode acls n32 => 0#9 ++ BitVec.ofBool n32 ++ acls.code ++ mode.code
  | .mguide _ cnt => 0#10 ++ cnt
  | .mzero _ cnt => 0#10 ++ cnt
  | .bact _ roff => roff
  | .bpre _ => 0#15
  | .brd _ => 0#15
  | .bwr _ => 0#15
  | .bfma _ hi rm => 0#11 ++ rm ++ BitVec.ofBool hi
  | .bmac _ sl => 0#11 ++ sl
  | .badd _ bf rm => 0#11 ++ rm ++ BitVec.ofBool bf
  | .bmul _ bf rm => 0#11 ++ rm ++ BitVec.ofBool bf
  | .bcvt _ hi tof rm => 0#10 ++ rm ++ BitVec.ofBool tof ++ BitVec.ofBool hi
  | .bred _ sl => 0#11 ++ sl
  | .bxch _ x => 0#11 ++ x
  | .bmov _ rl => 0#11 ++ rl
  | .bst _ sz disp shr dir => BitVec.ofBool dir ++ BitVec.ofBool shr ++ disp ++ sz
  | .bzero _ => 0#15
  | _ => 0#15

/-- The form that OP names, its function bits read (R98 and the entry of each form); none where the function
bits are illegal or a reserved one of them is set. -/
def laneForm (op : BitVec 10) (h : LaneHead) (imm : BitVec 15) : Option Instr :=
  match op with
  | 0x000#10 => (optImm14 imm).map (fun im => .iadd h im)
  | 0x001#10 => (optImm14 imm).map (fun im => .isub h im)
  | 0x002#10 => (optImm14 imm).map (fun im => .imul h im)
  | 0x003#10 => (optImm14 imm).map (fun im => .imulh h im)
  | 0x004#10 => (optImm14 imm).map (fun im => .imulhn h im)
  | 0x005#10 => (optImm14 imm).map (fun im => .imad h im)
  | 0x006#10 => (optImm14 imm).map (fun im => .imin h im)
  | 0x007#10 => (optImm14 imm).map (fun im => .imax h im)
  | 0x008#10 => (optImm14 imm).map (fun im => .iminn h im)
  | 0x009#10 => (optImm14 imm).map (fun im => .imaxn h im)
  | 0x00a#10 => if imm = 0#15 then some (.iabs h) else none
  | 0x00b#10 => if imm = 0#15 then some (.ineg h) else none
  | 0x00c#10 => (optImm14 imm).map (fun im => .laneAnd h im)
  | 0x00d#10 => (optImm14 imm).map (fun im => .laneOr h im)
  | 0x00e#10 => (optImm14 imm).map (fun im => .laneXor h im)
  | 0x00f#10 => if imm = 0#15 then some (.inot h) else none
  | 0x010#10 => (optImm14 imm).map (fun im => .laneShl h im)
  | 0x011#10 => (optImm14 imm).map (fun im => .laneShr h im)
  | 0x012#10 => (optImm14 imm).map (fun im => .laneSar h im)
  | 0x013#10 => (optImm14 imm).map (fun im => .rotl h im)
  | 0x014#10 =>
    if imm &&& 0x7000#15 = 0#15 then (some (.bfe h (imm.extractLsb' 0 5) (imm.extractLsb' 5 6) (imm.getLsbD 11))) else none
  | 0x015#10 => if imm &&& 0x7800#15 = 0#15 then (some (.bfi h (imm.extractLsb' 0 5) (imm.extractLsb' 5 6))) else none
  | 0x016#10 => if imm = 0#15 then some (.popc h) else none
  | 0x017#10 => if imm = 0#15 then some (.clz h) else none
  | 0x018#10 => if imm = 0#15 then some (.brev h) else none
  | 0x019#10 =>
    if imm &&& 0x7800#15 = 0#15 then (match ICond.ofCode (imm.extractLsb' 7 4) with | some cond => some (.icmp h (imm.extractLsb' 0 7) cond) | _ => none) else none
  | 0x01a#10 => if imm &&& 0x7ffe#15 = 0#15 then (some (.cadd128 h (imm.getLsbD 0))) else none
  | 0x040#10 =>
    if imm &&& 0x7ffc#15 = 0#15 then (match FTy.ofCode (imm.extractLsb' 0 2) with | some ty => some (.fadd h ty) | _ => none) else none
  | 0x041#10 =>
    if imm &&& 0x7ffc#15 = 0#15 then (match FTy.ofCode (imm.extractLsb' 0 2) with | some ty => some (.fsub h ty) | _ => none) else none
  | 0x042#10 =>
    if imm &&& 0x7ffc#15 = 0#15 then (match FTy.ofCode (imm.extractLsb' 0 2) with | some ty => some (.fmul h ty) | _ => none) else none
  | 0x043#10 =>
    if imm &&& 0x7ffc#15 = 0#15 then (match FTy.ofCode (imm.extractLsb' 0 2) with | some ty => some (.ffma h ty) | _ => none) else none
  | 0x044#10 =>
    if imm &&& 0x7ffc#15 = 0#15 then (match FTy.ofCode (imm.extractLsb' 0 2) with | some ty => some (.fmin h ty) | _ => none) else none
  | 0x045#10 =>
    if imm &&& 0x7ffc#15 = 0#15 then (match FTy.ofCode (imm.extractLsb' 0 2) with | some ty => some (.fmax h ty) | _ => none) else none
  | 0x046#10 =>
    if imm &&& 0x7000#15 = 0#15 then (match FTy.ofCode (imm.extractLsb' 0 2), FCond.ofCode (imm.extractLsb' 9 3) with | some ty, some cond => some (.fcmp h ty (imm.extractLsb' 2 7) cond) | _, _ => none) else none
  | 0x047#10 =>
    if imm &&& 0x7ffc#15 = 0#15 then (match FTy.ofCode (imm.extractLsb' 0 2) with | some ty => some (.fclass h ty) | _ => none) else none
  | 0x048#10 =>
    if imm &&& 0x7ff8#15 = 0#15 then (match FTy.ofCode (imm.extractLsb' 0 2) with | some ty => some (.frnd h ty (imm.getLsbD 2)) | _ => none) else none
  | 0x049#10 =>
    if imm &&& 0x7ffc#15 = 0#15 then (match FTy.ofCode (imm.extractLsb' 0 2) with | some ty => some (.fscale h ty) | _ => none) else none
  | 0x060#10 =>
    if imm &&& 0x7f00#15 = 0#15 then (match CvtFmt.ofCode (imm.extractLsb' 0 4), CvtFmt.ofCode (imm.extractLsb' 4 4) with | some src, some dst => some (.cvt h src dst) | _, _ => none) else none
  | 0x061#10 =>
    if imm &&& 0x7ff0#15 = 0#15 then (match BsMode.ofCode (imm.extractLsb' 0 4) with | some mode => some (.bscale h mode) | _ => none) else none
  | 0x070#10 => if imm = 0#15 then some (.rcp h) else none
  | 0x071#10 => if imm = 0#15 then some (.rsq h) else none
  | 0x072#10 => if imm = 0#15 then some (.sqrt h) else none
  | 0x073#10 => if imm = 0#15 then some (.exp2 h) else none
  | 0x074#10 => if imm = 0#15 then some (.log2 h) else none
  | 0x075#10 => if imm = 0#15 then some (.sinpi h) else none
  | 0x076#10 => if imm = 0#15 then some (.cospi h) else none
  | 0x077#10 => if imm = 0#15 then some (.tanh h) else none
  | 0x080#10 => some (.pand h (imm.extractLsb' 0 7) (imm.extractLsb' 7 7) (imm.getLsbD 14))
  | 0x081#10 => some (.por h (imm.extractLsb' 0 7) (imm.extractLsb' 7 7) (imm.getLsbD 14))
  | 0x082#10 => some (.pxor h (imm.extractLsb' 0 7) (imm.extractLsb' 7 7) (imm.getLsbD 14))
  | 0x083#10 => some (.pnot h (imm.extractLsb' 0 7) (imm.extractLsb' 7 7) (imm.getLsbD 14))
  | 0x084#10 => some (.pmov h (imm.extractLsb' 0 7) (imm.extractLsb' 7 7) (imm.getLsbD 14))
  | 0x085#10 => if imm &&& 0x7f80#15 = 0#15 then (some (.ptoi h (imm.extractLsb' 0 7))) else none
  | 0x086#10 => if imm &&& 0x7f00#15 = 0#15 then (some (.sel h (imm.extractLsb' 0 7) (imm.getLsbD 7))) else none
  | 0x087#10 => if imm = 0#15 then some (.mov h) else none
  | 0x088#10 => some (.limm h (imm.extractLsb' 0 15))
  | 0x0a0#10 =>
    match ShflMode.ofCode (imm.extractLsb' 0 2), optImm5 imm with | some mode, some im => some (.shfl h mode (imm.extractLsb' 2 7) im) | _, _ => none
  | 0x0a1#10 =>
    if imm &&& 0x7c00#15 = 0#15 then (match VoteMode.ofCode (imm.extractLsb' 8 2) with | some mode => some (.vote h (imm.extractLsb' 0 7) (imm.getLsbD 7) mode) | _ => none) else none
  | 0x0a2#10 =>
    if imm &&& 0x7ff0#15 = 0#15 then (match RedOp.ofCode (imm.extractLsb' 0 4) with | some op => some (.redux h op) | _ => none) else none
  | 0x0a3#10 =>
    if imm &&& 0x7fe0#15 = 0#15 then (match RedOp.ofCode (imm.extractLsb' 0 4) with | some op => some (.scan h op (imm.getLsbD 4)) | _ => none) else none
  | 0x0a4#10 => some (.regroup h (imm.extractLsb' 0 9) (imm.extractLsb' 9 6))
  | 0x0a5#10 => if imm = 0#15 then some (.demote h) else none
  | 0x0a6#10 =>
    if imm &&& 0x7000#15 = 0#15 then (some (.vguard h (imm.extractLsb' 0 3) (imm.getLsbD 3) (imm.extractLsb' 4 7) (imm.getLsbD 11))) else none
  | 0x0c0#10 =>
    match MSize.ofCode (imm.extractLsb' 0 3), Scope.ofCode (imm.extractLsb' 4 3) with | some size, some sc => some (.ld h size (imm.getLsbD 3) sc (imm.extractLsb' 7 8)) | _, _ => none
  | 0x0c1#10 =>
    match MSize.ofCode (imm.extractLsb' 0 3), Scope.ofCode (imm.extractLsb' 4 3) with | some size, some sc => some (.st h size (imm.getLsbD 3) sc (imm.extractLsb' 7 8)) | _, _ => none
  | 0x0c2#10 =>
    if imm &&& 0x70#15 = 0#15 then (match MSize.ofCode (imm.extractLsb' 0 3) with | some size => some (.lds h size (imm.getLsbD 3) (imm.extractLsb' 7 8)) | _ => none) else none
  | 0x0c3#10 =>
    if imm &&& 0x70#15 = 0#15 then (match MSize.ofCode (imm.extractLsb' 0 3) with | some size => some (.sts h size (imm.getLsbD 3) (imm.extractLsb' 7 8)) | _ => none) else none
  | 0x0c4#10 =>
    if imm &&& 0x70#15 = 0#15 then (match MSize.ofCode (imm.extractLsb' 0 3) with | some size => some (.ldc h size (imm.getLsbD 3) (imm.extractLsb' 7 8)) | _ => none) else none
  | 0x0c5#10 =>
    if imm &&& 0x67#15 = 0#15 then (some (.pref h (imm.getLsbD 3) (imm.getLsbD 4) (imm.extractLsb' 7 8))) else none
  | 0x0d0#10 =>
    match AtomOp.ofCode (imm.extractLsb' 0 4), Scope.ofCode (imm.extractLsb' 5 3) with | some op, some sc => some (.atom h op (imm.getLsbD 4) sc (imm.getLsbD 8) (imm.getLsbD 9) (imm.extractLsb' 10 5)) | _, _ => none
  | 0x0d1#10 =>
    if imm &&& 0xe0#15 = 0#15 then (match AtomOp.ofCode (imm.extractLsb' 0 4) with | some op => some (.atoms h op (imm.getLsbD 4) (imm.getLsbD 8) (imm.getLsbD 9) (imm.extractLsb' 10 5)) | _ => none) else none
  | 0x0e0#10 => if imm &&& 0x7ffe#15 = 0#15 then (some (.rngx h (imm.getLsbD 0))) else none
  | 0x100#10 =>
    if imm &&& 0x7fc0#15 = 0#15 then (match MmaMode.ofCode (imm.extractLsb' 0 2), ACls.ofCode (imm.extractLsb' 2 3) with | some mode, some acls => some (.mma h mode acls (imm.getLsbD 5)) | _, _ => none) else none
  | 0x101#10 =>
    if imm &&& 0x7fc0#15 = 0#15 then (match MmaMode.ofCode (imm.extractLsb' 0 2), ACls.ofCode (imm.extractLsb' 2 3) with | some mode, some acls => some (.mmat h mode acls (imm.getLsbD 5)) | _, _ => none) else none
  | 0x102#10 => if imm &&& 0x7fe0#15 = 0#15 then (some (.mguide h (imm.extractLsb' 0 5))) else none
  | 0x103#10 => if imm &&& 0x7fe0#15 = 0#15 then (some (.mzero h (imm.extractLsb' 0 5))) else none
  | 0x3c0#10 => some (.bact h (imm.extractLsb' 0 15))
  | 0x3c1#10 => if imm = 0#15 then some (.bpre h) else none
  | 0x3c2#10 => if imm = 0#15 then some (.brd h) else none
  | 0x3c3#10 => if imm = 0#15 then some (.bwr h) else none
  | 0x3c4#10 => if imm &&& 0x7ff0#15 = 0#15 then (some (.bfma h (imm.getLsbD 0) (imm.extractLsb' 1 3))) else none
  | 0x3c5#10 => if imm &&& 0x7ff0#15 = 0#15 then (some (.bmac h (imm.extractLsb' 0 4))) else none
  | 0x3c6#10 => if imm &&& 0x7ff0#15 = 0#15 then (some (.badd h (imm.getLsbD 0) (imm.extractLsb' 1 3))) else none
  | 0x3c7#10 => if imm &&& 0x7ff0#15 = 0#15 then (some (.bmul h (imm.getLsbD 0) (imm.extractLsb' 1 3))) else none
  | 0x3c8#10 =>
    if imm &&& 0x7fe0#15 = 0#15 then (some (.bcvt h (imm.getLsbD 0) (imm.getLsbD 1) (imm.extractLsb' 2 3))) else none
  | 0x3c9#10 => if imm &&& 0x7ff0#15 = 0#15 then (some (.bred h (imm.extractLsb' 0 4))) else none
  | 0x3ca#10 => if imm &&& 0x7ff0#15 = 0#15 then (some (.bxch h (imm.extractLsb' 0 4))) else none
  | 0x3cb#10 => if imm &&& 0x7ff0#15 = 0#15 then (some (.bmov h (imm.extractLsb' 0 4))) else none
  | 0x3cc#10 => some (.bst h (imm.extractLsb' 0 4) (imm.extractLsb' 4 9) (imm.getLsbD 13) (imm.getLsbD 14))
  | 0x3cd#10 => if imm = 0#15 then some (.bzero h) else none
  | _ => none

/-- The lane opcodes that R98 assigns, REP and NOP among them. -/
def laneAssigned (op : BitVec 10) : Bool :=
  match op with
  | 0x000#10 | 0x001#10 | 0x002#10 | 0x003#10 | 0x004#10 | 0x005#10 | 0x006#10 | 0x007#10 | 0x008#10 | 0x009#10 =>
    true
  | 0x00a#10 | 0x00b#10 | 0x00c#10 | 0x00d#10 | 0x00e#10 | 0x00f#10 | 0x010#10 | 0x011#10 | 0x012#10 | 0x013#10 =>
    true
  | 0x014#10 | 0x015#10 | 0x016#10 | 0x017#10 | 0x018#10 | 0x019#10 | 0x01a#10 | 0x040#10 | 0x041#10 | 0x042#10 =>
    true
  | 0x043#10 | 0x044#10 | 0x045#10 | 0x046#10 | 0x047#10 | 0x048#10 | 0x049#10 | 0x060#10 | 0x061#10 | 0x070#10 =>
    true
  | 0x071#10 | 0x072#10 | 0x073#10 | 0x074#10 | 0x075#10 | 0x076#10 | 0x077#10 | 0x080#10 | 0x081#10 | 0x082#10 =>
    true
  | 0x083#10 | 0x084#10 | 0x085#10 | 0x086#10 | 0x087#10 | 0x088#10 | 0x0a0#10 | 0x0a1#10 | 0x0a2#10 | 0x0a3#10 =>
    true
  | 0x0a4#10 | 0x0a5#10 | 0x0a6#10 | 0x0c0#10 | 0x0c1#10 | 0x0c2#10 | 0x0c3#10 | 0x0c4#10 | 0x0c5#10 | 0x0d0#10 =>
    true
  | 0x0d1#10 | 0x0e0#10 | 0x100#10 | 0x101#10 | 0x102#10 | 0x103#10 | 0x1f0#10 | 0x1f1#10 | 0x3c0#10 | 0x3c1#10 =>
    true
  | 0x3c2#10 | 0x3c3#10 | 0x3c4#10 | 0x3c5#10 | 0x3c6#10 | 0x3c7#10 | 0x3c8#10 | 0x3c9#10 | 0x3ca#10 | 0x3cb#10 =>
    true
  | 0x3cc#10 | 0x3cd#10 => true
  | _ => false


/-- The fields of a lane word beside OP and IMM16 (R87). -/
def laneFields (w : BitVec 96) : LaneHead :=
  { vd := w.extractLsb' 77 9, va := w.extractLsb' 68 9, vb := w.extractLsb' 59 9, vc := w.extractLsb' 50 9,
    ma := ⟨w.extractLsb' 48 2, w.extractLsb' 45 3⟩, mb := ⟨w.extractLsb' 43 2, w.extractLsb' 40 3⟩,
    mc := ⟨w.extractLsb' 38 2, w.extractLsb' 35 3⟩,
    md := ⟨w.extractLsb' 33 2, w.extractLsb' 30 3, w.extractLsb' 27 3⟩,
    pr := w.extractLsb' 20 7, pn := w.getLsbD 19, u := w.getLsbD 18, e := w.getLsbD 17, k := w.getLsbD 16,
    alw := w.getLsbD 15 }

/-- A lane word from OP, its fields and bits [14:0] of IMM16 (R87). -/
def lanePack (op : BitVec 10) (h : LaneHead) (imm : BitVec 15) : BitVec 96 :=
  op ++ h.vd ++ h.va ++ h.vb ++ h.vc ++ h.ma.sz ++ h.ma.ix ++ h.mb.sz ++ h.mb.ix ++ h.mc.sz ++ h.mc.ix ++
    h.md.sz ++ h.md.ix ++ h.md.rm ++ h.pr ++ BitVec.ofBool h.pn ++ BitVec.ofBool h.u ++ BitVec.ofBool h.e ++
    BitVec.ofBool h.k ++ BitVec.ofBool h.alw ++ imm

/-- What a word at issue is (R103 steps 1 to 3): an instruction; a word whose OP is unassigned; or a word with an
assigned OP and an illegal field, with the kinds of core on which its OP is legal. -/
inductive Decoded where
  | ok (i : Instr)
  | unassigned
  | bad (compute base : Bool)
  deriving DecidableEq, Repr

/-- The kinds of core on which a lane opcode is legal: compute, base (R100). -/
def laneKinds (op : BitVec 10) : Bool × Bool :=
  if op = 0x1f1#10 then (true, true) else if 0x3c0 ≤ op.toNat then (false, true) else (true, false)

/-- The lane word of REP (R93): bits [49:16] and IMM16[15:6] are reserved. -/
def decodeRep (w : BitVec 96) : Option Instr :=
  if w.extractLsb' 6 44 = 0#44 then
    some (.rep (w.extractLsb' 77 9) (w.extractLsb' 68 9) (w.extractLsb' 59 9) (w.extractLsb' 50 9) (w.extractLsb' 0 6))
  else none

/-- The lane NOP uses only E (R99). -/
def decodeLaneNop (w : BitVec 96) : Option Instr :=
  if w.extractLsb' 18 68 = 0#68 ∧ w.extractLsb' 0 17 = 0#17 then some (.laneNop (w.getLsbD 17)) else none

/-- The lane form of a word whose OP is assigned, with the checks of R103 step 3. -/
def decodeLaneForm (w : BitVec 96) : Option Instr :=
  match laneForm (w.extractLsb' 86 10) (laneFields w) (w.extractLsb' 0 15) with
  | some i => if fieldOk i then some i else none
  | none => none

/-- Decode a lane word (R103 steps 1 and 3). -/
def decodeLane (w : BitVec 96) : Decoded :=
  let op : BitVec 10 := w.extractLsb' 86 10
  if laneAssigned op then
    match (if op = 0x1f0#10 then decodeRep w else if op = 0x1f1#10 then decodeLaneNop w else decodeLaneForm w) with
    | some i => .ok i
    | none => .bad (laneKinds op).1 (laneKinds op).2
  else .unassigned

/-- The 96 bits of a lane instruction; none for what is no lane instruction. -/
def encodeLane (i : Instr) : Option (BitVec 96) :=
  match i with
  | .rep d a b c n => some (0x1f0#10 ++ d ++ a ++ b ++ c ++ 0#44 ++ n)
  | .laneNop e => some (0x1f1#10 ++ 0#68 ++ BitVec.ofBool e ++ 0#17)
  | _ =>
    match laneOp i, laneHead i with
    | some op, some h => some (lanePack op h (laneImm i))
    | _, _ => none

/-! ## The scalar word -/

/-- The kinds of core on which a scalar opcode is legal, compute and base (R96); none when OP is unassigned
(R95). -/
def scalarKinds (op : BitVec 7) : Option (Bool × Bool) :=
  match op with
  | 0x00#7 => some (true, true)
  | 0x01#7 => some (true, true)
  | 0x02#7 => some (true, true)
  | 0x03#7 => some (true, true)
  | 0x04#7 => some (true, true)
  | 0x05#7 => some (true, true)
  | 0x06#7 => some (true, true)
  | 0x07#7 => some (true, true)
  | 0x08#7 => some (true, true)
  | 0x09#7 => some (true, true)
  | 0x0a#7 => some (true, true)
  | 0x0b#7 => some (true, true)
  | 0x0c#7 => some (true, true)
  | 0x10#7 => some (true, true)
  | 0x11#7 => some (true, true)
  | 0x12#7 => some (true, true)
  | 0x18#7 => some (true, true)
  | 0x19#7 => some (true, true)
  | 0x1a#7 => some (true, true)
  | 0x1b#7 => some (true, true)
  | 0x1c#7 => some (true, true)
  | 0x1d#7 => some (true, true)
  | 0x1e#7 => some (true, true)
  | 0x1f#7 => some (true, true)
  | 0x20#7 => some (true, true)
  | 0x21#7 => some (true, true)
  | 0x24#7 => some (true, false)
  | 0x25#7 => some (true, false)
  | 0x26#7 => some (true, false)
  | 0x27#7 => some (true, false)
  | 0x28#7 => some (true, false)
  | 0x29#7 => some (true, false)
  | 0x2a#7 => some (true, false)
  | 0x2b#7 => some (true, false)
  | 0x2c#7 => some (true, false)
  | 0x30#7 => some (true, false)
  | 0x31#7 => some (true, false)
  | 0x32#7 => some (true, false)
  | 0x33#7 => some (true, false)
  | 0x34#7 => some (true, true)
  | 0x35#7 => some (true, true)
  | 0x36#7 => some (true, true)
  | 0x38#7 => some (true, false)
  | 0x39#7 => some (true, false)
  | 0x3a#7 => some (true, false)
  | 0x3b#7 => some (true, false)
  | 0x3c#7 => some (true, false)
  | 0x3d#7 => some (true, false)
  | 0x40#7 => some (true, false)
  | 0x41#7 => some (true, true)
  | 0x42#7 => some (true, false)
  | 0x43#7 => some (true, false)
  | 0x44#7 => some (true, false)
  | 0x48#7 => some (true, true)
  | 0x49#7 => some (true, true)
  | 0x4a#7 => some (true, true)
  | 0x4b#7 => some (true, true)
  | 0x4c#7 => some (true, true)
  | 0x4d#7 => some (true, true)
  | 0x50#7 => some (false, true)
  | 0x51#7 => some (false, true)
  | 0x52#7 => some (false, true)
  | _ => none

/-- The ALU form that FN names (R97). -/
def aluForm (fn : BitVec 7) (d a b : SReg) : Option Instr :=
  match fn with
  | 0#7 => some (.add d a b)
  | 1#7 => some (.sub d a b)
  | 2#7 => some (.mul d a b)
  | 3#7 => some (.mulh d a b)
  | 4#7 => some (.mulhn d a b)
  | 5#7 => some (.div d a b)
  | 6#7 => some (.divn d a b)
  | 7#7 => some (.rem d a b)
  | 8#7 => some (.remn d a b)
  | 9#7 => some (.and d a b)
  | 10#7 => some (.or d a b)
  | 11#7 => some (.xor d a b)
  | 12#7 => some (.andn d a b)
  | 13#7 => some (.shl d a b)
  | 14#7 => some (.shr d a b)
  | 15#7 => some (.sar d a b)
  | 16#7 => some (.min d a b)
  | 17#7 => some (.max d a b)
  | 18#7 => some (.minn d a b)
  | 19#7 => some (.maxn d a b)
  | 20#7 => some (.slt d a b)
  | 21#7 => some (.sltn d a b)
  | 22#7 => some (.seq d a b)
  | _ => none

/-- The form of a scalar word whose OP is assigned: its fields read as its format lays them out (R84, R96 and the
form's entry), reserved bits zero and field values legal; none otherwise. -/
def scalarForm (w : BitVec 32) : Option Instr :=
  let rd : SReg := w.extractLsb' 19 6          -- SD of SR, SI and SU; SA of SB
  let ra : SReg := w.extractLsb' 13 6          -- SA of SR and SI; SB of SB
  let rb : SReg := w.extractLsb' 7 6           -- SB of SR
  let fn : BitVec 7 := w.extractLsb' 0 7       -- FN of SR
  let i13 : BitVec 13 := w.extractLsb' 0 13    -- IMM13 of SI, OFF13 of SB
  let i19 : BitVec 19 := w.extractLsb' 0 19    -- IMM19 of SU
  let gf : BitVec 4 := w.extractLsb' 21 4      -- GF of SJ
  let off : BitVec 21 := w.extractLsb' 0 21    -- OFF21 of SJ
  let psel : BitVec 7 := w.extractLsb' 18 7    -- PSEL of R138
  let off17 : BitVec 17 := w.extractLsb' 0 17  -- OFF17 of R138
  let neg : Bool := w.getLsbD 17               -- PNEG of R138
  let eg := optGuard (w.extractLsb' 3 4)       -- the guard of an engine command (R86)
  let emode : BitVec 3 := w.extractLsb' 0 3    -- the mode of an engine command (R216)
  let sub : BitVec 13 := w.extractLsb' 0 13    -- SB and FN together
  match (w.extractLsb' 25 7 : BitVec 7) with
  | 0x00#7 => if w.extractLsb' 0 25 = 0#25 then some .nop else none
  | 0x01#7 => aluForm fn rd ra rb
  | 0x02#7 => some (.addi rd ra i13)
  | 0x03#7 => some (.andi rd ra i13)
  | 0x04#7 => some (.ori rd ra i13)
  | 0x05#7 => some (.xori rd ra i13)
  | 0x06#7 => if w.extractLsb' 6 7 = 0#7 then some (.shli rd ra (w.extractLsb' 0 6)) else none
  | 0x07#7 => if w.extractLsb' 6 7 = 0#7 then some (.shri rd ra (w.extractLsb' 0 6)) else none
  | 0x08#7 => if w.extractLsb' 6 7 = 0#7 then some (.sari rd ra (w.extractLsb' 0 6)) else none
  | 0x09#7 => some (.slti rd ra i13)
  | 0x0a#7 => some (.lui rd i19)
  | 0x0b#7 => some (.lpc rd i19)
  | 0x0c#7 => if w.extractLsb' 3 4 = 0#4 then some (.lea rd ra rb (w.extractLsb' 0 3)) else none
  | 0x10#7 => some (.sld rd ra i13)
  | 0x11#7 => some (.sst rd ra i13)
  | 0x12#7 => some (.sldk rd ra i13)
  | 0x18#7 => some (.beq rd ra i13)
  | 0x19#7 => some (.bne rd ra i13)
  | 0x1a#7 => some (.blt rd ra i13)
  | 0x1b#7 => some (.bge rd ra i13)
  | 0x1c#7 => some (.bltn rd ra i13)
  | 0x1d#7 => some (.bgen rd ra i13)
  | 0x1e#7 => if gf = 0#4 then some (.jmp off) else none
  | 0x1f#7 => if gf = 0#4 then some (.call off) else none
  | 0x20#7 => if rd = 0#6 ∧ sub = 0#13 then some (.ret ra) else none
  | 0x21#7 => if w.extractLsb' 0 25 = 0#25 then some .exit else none
  | 0x24#7 => if gf = 0#4 then some (.setjoin off) else none
  | 0x25#7 => some (.divergence psel neg off17)
  | 0x26#7 => if w.extractLsb' 0 25 = 0#25 then some .join else none
  | 0x27#7 => some (.bany psel neg off17)
  | 0x28#7 => some (.ball psel neg off17)
  | 0x29#7 => some (.bnone psel neg off17)
  | 0x2a#7 => if rd = 0#6 ∧ w.extractLsb' 2 11 = 0#11 then some (.setexm ra (w.extractLsb' 0 2)) else none
  | 0x2b#7 => if w.extractLsb' 1 18 = 0#18 then some (.getexm rd (w.getLsbD 0)) else none
  | 0x2c#7 => if w.extractLsb' 0 25 = 0#25 then some .twjoin else none
  | 0x30#7 => (optGuard gf).map (fun g => .run g off)
  | 0x31#7 => if gf.getLsbD 3 ∧ off = 0#21 then some (.gclr (w.extractLsb' 21 3)) else none
  | 0x32#7 => if gf.getLsbD 3 ∧ off = 0#21 then some (.grd (w.extractLsb' 21 3)) else none
  | 0x33#7 => if gf.getLsbD 3 then some (.bg (w.extractLsb' 21 3) off) else none
  | 0x34#7 => if rd = 0#6 ∧ w.extractLsb' 14 5 = 0#5 then some (.setfmt (w.extractLsb' 0 14)) else none
  | 0x35#7 => if rd = 0#6 ∧ w.extractLsb' 2 11 = 0#11 then some (.setfmtr ra (w.extractLsb' 0 2)) else none
  | 0x36#7 => if w.extractLsb' 1 18 = 0#18 then some (.getfmt rd (w.getLsbD 0)) else none
  | 0x38#7 => match eg, CpyMode.ofCode emode with
    | some g, some mode => some (.cpy g mode rd ra rb)
    | _, _ => none
  | 0x39#7 => match eg, CpyMode.ofCode emode with
    | some g, some mode => some (.cpyw g mode rd ra rb)
    | _, _ => none
  | 0x3a#7 => if emode = 0#3 then eg.map (fun g => .gth g rd ra rb) else none
  | 0x3b#7 => if emode = 0#3 then eg.map (fun g => .sct g rd ra rb) else none
  | 0x3c#7 => match eg, CollMode.ofCode emode with
    | some g, some mode => some (.coll g mode rd ra rb)
    | _, _ => none
  | 0x3d#7 => if emode.extractLsb' 1 2 = 0#2 then eg.map (fun g => .bnk g (emode.getLsbD 0) rd ra rb) else none
  | 0x40#7 =>
    if rd = 0#6 ∧ w.extractLsb' 11 2 = 0#2 then
      match BarKind.ofCode (w.extractLsb' 5 2), optScope (w.extractLsb' 8 3) with
      | some kind, some sc => some (.bar kind (w.getLsbD 7) (w.extractLsb' 0 5) ra sc)
      | _, _ => none
    else none
  | 0x41#7 =>
    if rd = 0#6 ∧ ra = 0#6 ∧ w.extractLsb' 5 8 = 0#8 then
      match FenceKind.ofCode (w.extractLsb' 0 2), Scope.ofCode (w.extractLsb' 2 3) with
      | some kind, some sc => some (.fence kind sc)
      | _, _ => none
    else none
  | 0x42#7 =>
    if rd = 0#6 ∧ ra = 0#6 ∧ w.extractLsb' 9 4 = 0#4 then
      match Path.ofCode (w.extractLsb' 0 3), Path.ofCode (w.extractLsb' 3 3), Scope.ofCode (w.extractLsb' 6 3) with
      | some a, some b, some sc => some (.pfence a b sc)
      | _, _, _ => none
    else none
  | 0x43#7 =>
    if rd = 0#6 ∧ ra = 0#6 ∧ w.extractLsb' 9 4 = 0#4 then
      (Path.ofCode (w.extractLsb' 0 3)).map (fun p => .waitp p (w.extractLsb' 3 6))
    else none
  | 0x44#7 =>
    match AtomOp.ofCode (w.extractLsb' 0 4), Scope.ofCode (w.extractLsb' 4 3) with
    | some op, some sc => some (.satom op sc rd ra rb)
    | _, _ => none
  | 0x48#7 => if rd = 0#6 then some (.trap i19) else none
  | 0x49#7 => if w.extractLsb' 0 25 = 0#25 then some .rte else none
  | 0x4a#7 => if ra = 0#6 ∧ w.extractLsb' 8 5 = 0#5 then some (.sprr rd fn (w.getLsbD 7)) else none
  | 0x4b#7 => if rd = 0#6 ∧ w.extractLsb' 8 5 = 0#5 then some (.sprw fn (w.getLsbD 7) ra) else none
  | 0x4c#7 => if w.extractLsb' 0 25 = 0#25 then some .yield else none
  | 0x4d#7 => if rd = 0#6 then some (.brk i19) else none
  | 0x50#7 => if fn = 0#7 then some (.brun rd ra rb) else none
  | 0x51#7 => if w.extractLsb' 1 18 = 0#18 then some (.mbxget rd (w.getLsbD 0)) else none
  | 0x52#7 => if rd = 0#6 ∧ sub = 0#13 then some (.mbxput ra) else none
  | _ => none

/-- Decode a scalar word (R103 steps 1 and 3). -/
def decodeScalar (w : BitVec 32) : Decoded :=
  match scalarKinds (w.extractLsb' 25 7) with
  | none => .unassigned
  | some (c, b) =>
    match scalarForm w with
    | some i => if fieldOk i then .ok i else .bad c b
    | none => .bad c b

/-- Format SR (R84). -/
def packSR (op : BitVec 7) (d a b : SReg) (fn : BitVec 7) : BitVec 32 := op ++ d ++ a ++ b ++ fn
/-- Formats SI and SB (R84). -/
def packSI (op : BitVec 7) (d a : SReg) (imm : BitVec 13) : BitVec 32 := op ++ d ++ a ++ imm
/-- Format SU (R84). -/
def packSU (op : BitVec 7) (d : SReg) (imm : BitVec 19) : BitVec 32 := op ++ d ++ imm
/-- Format SJ (R84). -/
def packSJ (op : BitVec 7) (gf : BitVec 4) (off : BitVec 21) : BitVec 32 := op ++ gf ++ off
/-- The layout of the divergence forms (R138). -/
def packSP (op : BitVec 7) (p : BitVec 7) (neg : Bool) (off : BitVec 17) : BitVec 32 :=
  op ++ p ++ BitVec.ofBool neg ++ off
/-- The layout of an engine command: the guard in FN[6:3], the mode in FN[2:0] (R86, R216). -/
def packEngine (op : BitVec 7) (d a b : SReg) (g : Option (BitVec 3)) (mode : BitVec 3) : BitVec 32 :=
  op ++ d ++ a ++ b ++ encGuard g ++ mode

/-- The 32 bits of a scalar instruction; none for what is no scalar instruction. -/
def encodeScalar : Instr → Option (BitVec 32)
  | .nop => some (packSR 0x00#7 0#6 0#6 0#6 0#7)
  | .add d a b => some (packSR 0x01#7 d a b 0#7)
  | .sub d a b => some (packSR 0x01#7 d a b 1#7)
  | .mul d a b => some (packSR 0x01#7 d a b 2#7)
  | .mulh d a b => some (packSR 0x01#7 d a b 3#7)
  | .mulhn d a b => some (packSR 0x01#7 d a b 4#7)
  | .div d a b => some (packSR 0x01#7 d a b 5#7)
  | .divn d a b => some (packSR 0x01#7 d a b 6#7)
  | .rem d a b => some (packSR 0x01#7 d a b 7#7)
  | .remn d a b => some (packSR 0x01#7 d a b 8#7)
  | .and d a b => some (packSR 0x01#7 d a b 9#7)
  | .or d a b => some (packSR 0x01#7 d a b 10#7)
  | .xor d a b => some (packSR 0x01#7 d a b 11#7)
  | .andn d a b => some (packSR 0x01#7 d a b 12#7)
  | .shl d a b => some (packSR 0x01#7 d a b 13#7)
  | .shr d a b => some (packSR 0x01#7 d a b 14#7)
  | .sar d a b => some (packSR 0x01#7 d a b 15#7)
  | .min d a b => some (packSR 0x01#7 d a b 16#7)
  | .max d a b => some (packSR 0x01#7 d a b 17#7)
  | .minn d a b => some (packSR 0x01#7 d a b 18#7)
  | .maxn d a b => some (packSR 0x01#7 d a b 19#7)
  | .slt d a b => some (packSR 0x01#7 d a b 20#7)
  | .sltn d a b => some (packSR 0x01#7 d a b 21#7)
  | .seq d a b => some (packSR 0x01#7 d a b 22#7)
  | .addi d a imm => some (packSI 0x02#7 d a imm)
  | .andi d a imm => some (packSI 0x03#7 d a imm)
  | .ori d a imm => some (packSI 0x04#7 d a imm)
  | .xori d a imm => some (packSI 0x05#7 d a imm)
  | .slti d a imm => some (packSI 0x09#7 d a imm)
  | .shli d a sh => some (packSI 0x06#7 d a (0#7 ++ sh))
  | .shri d a sh => some (packSI 0x07#7 d a (0#7 ++ sh))
  | .sari d a sh => some (packSI 0x08#7 d a (0#7 ++ sh))
  | .lui d imm => some (packSU 0x0a#7 d imm)
  | .lpc d imm => some (packSU 0x0b#7 d imm)
  | .lea d a b sh => some (packSR 0x0c#7 d a b (0#4 ++ sh))
  | .sld d a disp => some (packSI 0x10#7 d a disp)
  | .sst a b disp => some (packSI 0x11#7 a b disp)
  | .sldk d a disp => some (packSI 0x12#7 d a disp)
  | .beq a b off => some (packSI 0x18#7 a b off)
  | .bne a b off => some (packSI 0x19#7 a b off)
  | .blt a b off => some (packSI 0x1a#7 a b off)
  | .bge a b off => some (packSI 0x1b#7 a b off)
  | .bltn a b off => some (packSI 0x1c#7 a b off)
  | .bgen a b off => some (packSI 0x1d#7 a b off)
  | .jmp off => some (packSJ 0x1e#7 0#4 off)
  | .call off => some (packSJ 0x1f#7 0#4 off)
  | .ret a => some (packSR 0x20#7 0#6 a 0#6 0#7)
  | .exit => some (packSR 0x21#7 0#6 0#6 0#6 0#7)
  | .setjoin off => some (packSJ 0x24#7 0#4 off)
  | .divergence p neg off => some (packSP 0x25#7 p neg off)
  | .join => some (packSR 0x26#7 0#6 0#6 0#6 0#7)
  | .bany p neg off => some (packSP 0x27#7 p neg off)
  | .ball p neg off => some (packSP 0x28#7 p neg off)
  | .bnone p neg off => some (packSP 0x29#7 p neg off)
  | .setexm a sel => some (packSR 0x2a#7 0#6 a 0#6 (0#5 ++ sel))
  | .getexm d hsel => some (packSR 0x2b#7 d 0#6 0#6 (0#6 ++ BitVec.ofBool hsel))
  | .twjoin => some (packSR 0x2c#7 0#6 0#6 0#6 0#7)
  | .run g idx => some (packSJ 0x30#7 (encGuard g) idx)
  | .gclr k => some (packSJ 0x31#7 (1#1 ++ k) 0#21)
  | .grd k => some (packSJ 0x32#7 (1#1 ++ k) 0#21)
  | .bg k off => some (packSJ 0x33#7 (1#1 ++ k) off)
  | .setfmt v => some (packSU 0x34#7 0#6 (0#5 ++ v))
  | .setfmtr a sel => some (packSR 0x35#7 0#6 a 0#6 (0#5 ++ sel))
  | .getfmt d hsel => some (packSR 0x36#7 d 0#6 0#6 (0#6 ++ BitVec.ofBool hsel))
  | .cpy g mode d a b => some (packEngine 0x38#7 d a b g mode.code)
  | .cpyw g mode d a b => some (packEngine 0x39#7 d a b g mode.code)
  | .gth g d a b => some (packEngine 0x3a#7 d a b g 0#3)
  | .sct g d a b => some (packEngine 0x3b#7 d a b g 0#3)
  | .coll g mode d a b => some (packEngine 0x3c#7 d a b g mode.code)
  | .bnk g done d a b => some (packEngine 0x3d#7 d a b g (0#2 ++ BitVec.ofBool done))
  | .bar kind hr handle a sc =>
    some (packSI 0x40#7 0#6 a (0#2 ++ encScope sc ++ BitVec.ofBool hr ++ kind.code ++ handle))
  | .fence kind sc => some (packSI 0x41#7 0#6 0#6 (0#8 ++ sc.code ++ kind.code))
  | .pfence a b sc => some (packSI 0x42#7 0#6 0#6 (0#4 ++ sc.code ++ b.code ++ a.code))
  | .waitp p n => some (packSI 0x43#7 0#6 0#6 (0#4 ++ n ++ p.code))
  | .satom op sc d a b => some (packSR 0x44#7 d a b (sc.code ++ op.code))
  | .trap imm => some (packSU 0x48#7 0#6 imm)
  | .rte => some (packSR 0x49#7 0#6 0#6 0#6 0#7)
  | .sprr d n hsel => some (packSI 0x4a#7 d 0#6 (0#5 ++ BitVec.ofBool hsel ++ n))
  | .sprw n hsel a => some (packSI 0x4b#7 0#6 a (0#5 ++ BitVec.ofBool hsel ++ n))
  | .yield => some (packSR 0x4c#7 0#6 0#6 0#6 0#7)
  | .brk imm => some (packSU 0x4d#7 0#6 imm)
  | .brun d a b => some (packSR 0x50#7 d a b 0#7)
  | .mbxget d nb => some (packSR 0x51#7 d 0#6 0#6 (0#6 ++ BitVec.ofBool nb))
  | .mbxput a => some (packSR 0x52#7 0#6 a 0#6 0#7)
  | _ => none

/-- The OP of a scalar instruction (R95). -/
def scalarOp (i : Instr) : Option (BitVec 7) := (encodeScalar i).map (fun w => w.extractLsb' 25 7)

/-! ## Both kinds of word -/

/-- The words of an instruction: how many bits, and the bits, bit 0 the least significant bit of its first stored
word; none for an event, which has no encoding. -/
def encode (i : Instr) : Option (Nat × Nat) :=
  match encodeScalar i, encodeLane i with
  | some w, _ => some (32, w.toNat)
  | none, some w => some (96, w.toNat)
  | none, none => none

/-- Is the instruction legal on a kind of core (R96, R100)? An event is no word, so the question does not arise. -/
def coreOk (k : CoreKind) (i : Instr) : Bool :=
  let pick (p : Bool × Bool) : Bool := match k with | .compute => p.1 | .base => p.2
  match scalarOp i with
  | some op => match scalarKinds op with
    | some p => pick p
    | none => false
  | none =>
    match i with
    | .rep _ _ _ _ _ => pick (laneKinds 0x1f0#10)
    | .laneNop _ => pick (laneKinds 0x1f1#10)
    | _ => match laneOp i with
      | some op => pick (laneKinds op)
      | none => true

/-- The instruction that a decoded word is, if it is one. -/
def Decoded.toOption : Decoded → Option Instr
  | .ok i => some i
  | _ => none

/-- The four bytes of a stored 32-bit word, the one at the lowest address first (R81). -/
def bytes32 (w : BitVec 32) : List Byte :=
  [w.extractLsb' 0 8, w.extractLsb' 8 8, w.extractLsb' 16 8, w.extractLsb' 24 8]

/-- The twelve bytes of a lane word (R82). -/
def bytes96 (w : BitVec 96) : List Byte :=
  bytes32 (w.extractLsb' 0 32) ++ bytes32 (w.extractLsb' 32 32) ++ bytes32 (w.extractLsb' 64 32)

/-- A little-endian value of a list of bytes (R6). -/
def leNat : List Byte → Nat
  | [] => 0
  | b :: l => b.toNat + 256 * leNat l

/-- Decode the bytes of a scalar word. -/
def decodeScalarBytes (l : List Byte) : Decoded := decodeScalar (BitVec.ofNat 32 (leNat (l.take 4)))

/-- Decode the bytes of a lane word. -/
def decodeLaneBytes (l : List Byte) : Decoded := decodeLane (BitVec.ofNat 96 (leNat (l.take 12)))

/-- What the decoder reads from an instruction of the opcode table: `nbits` is 32 for a scalar word and 96 for a
lane word, `w` its bits with bit 0 the least significant bit of the first stored word. The words are laid out as
the hardware stores them and decoded from those bytes. -/
def decodeTableWord (nbits w : Nat) : Option Instr :=
  if nbits = 32 then (decodeScalarBytes (bytes32 (BitVec.ofNat 32 w))).toOption
  else if nbits = 96 then (decodeLaneBytes (bytes96 (BitVec.ofNat 96 w))).toOption
  else none

end Sys2Proof
end

