-- ==== Sys2Proof/Machine/Issue.lean ====
section
/-! DEFINITION. How a scalar instruction issues (spec/06_isa_scalar.md R116 to R122): the stream that runs it, the
checks of R103 that its term can still fail, the scoreboard of pending registers, and poisoned registers
(spec/13_faults.md R340). Each meaning of a scalar instruction is `scalarWord` with its own effect. -/

namespace Sys2Proof.Machine

/-- The kinds of core that run a form (R96). -/
inductive Kinds where
  | both
  | computeOnly
  | baseOnly
  deriving DecidableEq, Repr

/-- May a stream of this kind of core run a form (R96)? -/
def Kinds.allow (k : Kinds) (a : Agent) : Bool :=
  match k, agentKind a with
  | .both, _ => true
  | .computeOnly, .compute => true
  | .baseOnly, .base => true
  | _, _ => false

/-- The stream that is executing, if it exists: the scalar context of a converged pair is its lead's (R55). -/
def State.running (s : State) : Option Agent :=
  match s.cur with
  | .none => none
  | .group gid => if s.live gid then some (.group (s.ctxOf gid)) else none
  | .bdc sl => if (s.bdc sl).lid.isSome then some (.bdc sl) else none

/-- TVAL of an illegal scalar word: the word itself (R104). -/
def scalarTval (i : Instr) : Word64 := ((encodeScalar i).map (fun w => w.setWidth 64)).getD 0

/-- The access that a scalar instruction of a group must wait for: one that will write a register that the
instruction names (R116), with the group that issued it. -/
def State.scalarPending (s : State) (gid : Nat) (i : Instr) : Option (Nat × Access) :=
  (scalarReads i ++ scalarWrites i).findSome? (fun r => s.pendingSreg gid r.toNat)

/-- A poisoned scalar register that the instruction reads (R340). -/
def Group.scalarPoison (g : Group) (i : Instr) : Option Nat :=
  (g.poison.find? (fun m => m.file == 1 && (scalarReads i).any (fun r => r.toNat == m.num))).map (·.num)

/-- What keeps a scalar instruction of group `gid` from taking its effect now: a pending register, whose access may
have been refused its service (R304), or poison in a register it reads (R340). None when nothing does. -/
def State.scalarHeld (s : State) (gid : Nat) (i : Instr) : Option State :=
  let g := s.group gid
  match s.scalarPending gid i with
  | some (k, a) =>
    match a.refusal with
    | some (addr, cause) => some ((s.refuseAccess k a addr cause).deliverDeferred gid)
    | none => some (s.waits (.group gid) (.operand k a.aid))
  | none =>
    match g.scalarPoison i with
    | some r =>
      some (if s.takesOn gid then s.trap (.group gid) 10 2 (BitVec.ofNat 64 r)
        else s.trap (.group gid) 11 0 (BitVec.ofNat 64 r))
    | none => none

/-- Issue of a scalar instruction (R103, R116, R122): the form must be legal on this kind of core, its fields legal,
its registers arrived and unpoisoned; then `body` takes effect. -/
def scalarWord (k : Kinds) (i : Instr) (body : Agent → State → State) (s : State) : Out :=
  match s.running with
  | none => .fault .noStream
  | some a =>
    if !k.allow a then .next (s.trap a 1 1 (scalarTval i))
    else if !fieldOk i then .next (s.trap a 1 0 (scalarTval i))
    else
      match a with
      | .group gid =>
        match s.scalarHeld gid i with
        | some t => .next t
        | none => .next (body a s)
      | _ => .next (body a s)

/-- The trap of a scalar instruction of a class for which no rule names TVAL (R326): its value is left free. -/
def State.trapOpen (s : State) (a : Agent) (cls cause : Nat) : State :=
  s.bumpFree.trap a cls cause (Config.freeTval s.free)

/-- The same for a lane word. -/
def State.raiseLaneOpen (s : State) (gid : Nat) (once : Bool) (cls cause : Nat) : State :=
  s.bumpFree.raiseLane gid once { cls, cause, tval := Config.freeTval s.free }

/-- Raise the counter of a path if there is room, and else wait (R53). -/
def State.withRoom (s : State) (gid : Nat) (p : Path) (f : State → State) : State :=
  if (s.group gid).count p < 63 then f s else s.waits (.group gid) (.counter p 62)

end Sys2Proof.Machine
end

