-- ==== Sys2Proof/Machine/Fetch.lean ====
section
/-! DEFINITION. Fetching the words of a stream (spec/04_encoding.md R81, R82, R94; spec/11_memory.md R303, R309):
through translation and the core's instruction cache on a compute core, from the code store on a base-die core. -/

namespace Sys2Proof.Machine

/-- How a fetch ends: the bytes; a protection trap with its cause and address; poisoned bytes; parked on a
replayable fault (R303); or not now, because a BSU holds the bank (R244). -/
inductive Fetched where
  | bytes (l : List Byte)
  | trap (cause addr : Nat)
  | poison (addr : Nat)
  | parked
  | busy
  deriving DecidableEq, Repr

/-- Join the bytes of two pieces of a word. -/
def Fetched.join (a b : Fetched) : Fetched :=
  match a, b with
  | .bytes x, .bytes y => .bytes (x ++ y)
  | .bytes _, b => b
  | a, _ => a

/-- A line of 64 bytes of code, in the core's instruction cache, filled from its home on a miss (R309). Memory of a
peer device gives bytes that this model leaves free. -/
def State.codeLine (s : State) (core w pa : Nat) : State × Option Sector :=
  match tabFind (s.core core).icache (sectorOf pa) with
  | some v => (s, some v)
  | none =>
    let base := pa / 64 * 64
    if s.homeBusy w base false then (s, none)
    else
      let r : State × List Byte × Bool :=
        if deviceBytes ≤ base then
          let f := s.freeBytes 64
          (f.1, f.2, false)
        else s.homeReadAll w base 64 (portOf core)
      let v : Sector :=
        { world := w, bytes := (indexed r.2.1).foldl (fun t p => tabSet 0 t p.1 p.2) [],
          poison := if !r.2.2 then 0 else if r.1.homeMarks base = 0 then fullMask else r.1.homeMarks base }
      (r.1.modCore core (fun c => { c with icache := tabPut c.icache (sectorOf pa) v }), some v)

/-- Fetch bytes within one line. -/
def State.fetchPiece (s : State) (core w va n : Nat) (who : Faulter) : State × Fetched :=
  match s.xlate core w va .fetch with
  | (s, .trap c) => (s, .trap c va)
  | (s, .fault) => ((s.park w va .fetch who).1, .parked)
  | (s, .busy) => (s, .busy)
  | (s, .ok pa _ _) =>
    match s.codeLine core w pa with
    | (s, none) => (s, .busy)
    | (s, some v) =>
      if v.hurt (pa % 64) n then (s, .poison va) else (s, .bytes (v.slice (pa % 64) n))

/-- Fetch the `n` bytes of a word. -/
def State.fetchVa (s : State) (core w va n : Nat) (who : Faulter) : State × Fetched :=
  (chunks n va n).foldl (fun (r : State × Fetched) c =>
    match r.2 with
    | .bytes _ =>
      let q := r.1.fetchPiece core w c.1 c.2 who
      (q.1, r.2.join q.2)
    | _ => r) (s, .bytes [])

/-- Fetch the scalar word at a group's PC: outside `.scode` is the protection trap (R94, R122). -/
def State.fetchScalar (s : State) (gid : Nat) : State × Fetched :=
  let l := s.launchOf gid
  let pc := (s.group gid).pc
  let base := l.scodeBase
  if pc < base ∨ base + (s.headerOf gid).scodeSize < pc + 4 then (s, .trap 5 pc)
  else s.fetchVa (s.coreOf gid) l.world pc 4 (.fetch gid false)

/-- Fetch the lane word at the head of a group's lane queue: beyond `.lcode` is the protection trap (R94). -/
def State.fetchLane (s : State) (gid : Nat) (r : Run) : State × Fetched :=
  let va := s.laneAddr gid r
  if (s.headerOf gid).lcodeSize < 12 * r.next + 12 then (s, .trap 5 va)
  else s.fetchVa (s.coreOf gid) (s.worldOf gid) va 12 (.fetch gid true)

/-- Does a word carry E? -/
def wordEnds : Instr → Bool
  | .laneNop e => e
  | i => ((laneHead i).map (·.e)).getD false

/-- Do the bytes of a lane word carry E (R87), be they an instruction or not? -/
def bytesEnd (l : List Byte) : Bool :=
  match decodeLaneBytes l with
  | .ok i => wordEnds i
  | _ => (leNat (l.take 12)).testBit 17

/-- Does the word at the head of a group's lane queue carry E (R94), as the bytes at its address say? -/
def State.headEnds (s : State) (gid : Nat) (r : Run) : Bool :=
  match (s.fetchLane gid r).2 with
  | .bytes l => bytesEnd l
  | _ => false

/-- Has the word at the head of a group's lane queue the OP code of `MMAT` or of `MGUIDE`, be it an instruction or not, so
that it issues once for a converged pair (R87, R209, R210)? -/
def State.headOnce (s : State) (gid : Nat) : Bool :=
  match (s.group gid).laneq with
  | [] => false
  | r :: _ =>
    match (s.fetchLane gid r).2 with
    | .bytes l => leNat (l.take 12) / 2 ^ 86 == 0x101 || leNat (l.take 12) / 2 ^ 86 == 0x102
    | _ => false

/-- A word that is no instruction (R103, R104), in the scalar or the lane stream of the stream that is executing: it
raises its trap and has no other effect: once for a converged pair where it is an illegal `MMAT` or `MGUIDE` (R205, R215). -/
def execNotAnInstruction (cls cause : Nat) (lane : Bool) (tval : Word64) (s : State) : Out :=
  match s.running with
  | none => .fault .noStream
  | some a =>
    match a with
    | .group gid =>
      if lane then
        match s.cur with
        | .group h => .next (s.raiseLane h (decide (cls = 1) && s.headOnce h) { cls, cause, tval })
        | _ => .next s
      else .next (s.trap (.group gid) cls cause tval)
    | .bdc sl =>
      if lane then
        .next (s.modBdc sl (fun c =>
          { c with brun := c.brun.map (fun b =>
              { b with ended := true, trap := some { cls, cause, tval, laneWord := true } }) }))
      else .next (s.trap a cls cause tval)
    | .none => .next s

/-- Fetch the scalar word at a base-die core's PC, from its code store (R240). -/
def Bdc.fetchScalar (c : Bdc) : Fetched :=
  if c.pc < c.scodeBase ∨ c.scodeBase + c.scodeSize < c.pc + 4 then .trap 5 c.pc
  else .bytes ((List.range 4).map (fun i => tabGet 0 c.scode (c.pc - c.scodeBase + i)))

/-- The address of a lane word of a microkernel (R82). -/
def Bdc.laneAddr (c : Bdc) (n : Nat) : Nat := (c.lcodeBase + 12 * n) % 2 ^ 64

/-- Fetch lane word `n` of a microkernel, from its code store (R240, R247). -/
def Bdc.fetchLane (c : Bdc) (n : Nat) : Fetched :=
  if c.lcodeSize < 12 * n + 12 then .trap 5 (c.laneAddr n)
  else .bytes ((List.range 12).map (fun i => tabGet 0 c.lcode (12 * n + i)))

end Sys2Proof.Machine
end

