-- ==== Sys2Proof/Machine/Control.lean ====
section
/-! DEFINITION. Control flow of the scalar stream (spec/06_isa_scalar.md R132 to R153): branches, the reconvergence
stack (spec/02_state.md R50 to R52), the lane queue and guards, FMT, special registers (R46, R47), trap forms; the
splitting and rejoining of twin pairs (spec/08_isa_matrix_engines.md R211 to R215). -/

namespace Sys2Proof.Machine

/-! ## Waits on the lane queue -/

/-- Has every run that the group queued issued its last word or been discarded (R227)? Frozen entries are absent
(R331). -/
def State.lanesIssued (s : State) (gid : Nat) : Bool :=
  (s.group (s.ctxOf gid)).trapMode || (s.halvesOf gid).all (fun k => (s.group k).laneq.isEmpty)

/-- A matrix form of the group is in a term array (R206). -/
def State.inArray (s : State) (gid : Nat) : Bool :=
  (s.core (s.coreOf gid)).arrays.any (fun p =>
    match p.2 with
    | some f => f.gid == gid || f.other == some gid
    | none => false)

/-- Has every run that the group queued completed (R47): issued, its loads returned, its matrix forms written? -/
def State.lanesCompleted (s : State) (gid : Nat) : Bool :=
  s.lanesIssued gid && (s.halvesOf gid).all (fun k =>
    !s.inArray k && (s.group k).accs.all (fun a => a.past || !a.laneWord || a.op == .store))

/-- A refused access of the group or of either half of a converged pair (R304). -/
def State.refusedOf (s : State) (gid : Nat) : Option (Nat × Access) :=
  (s.halvesOf gid).findSome? (fun k => (s.group k).refusedAccess.map (fun a => (k, a)))

/-- A wait that includes parked accesses meets a refused one: the protection trap is raised there (R304). Otherwise
the instruction waits. -/
def State.waitsOrRefused (s : State) (gid : Nat) (w : WaitOn) : State :=
  match s.refusedOf gid with
  | some (k, a) =>
    match a.refusal with
    | some (addr, cause) => (s.refuseAccess k a addr cause).deliverDeferred gid
    | none => s.waits (.group gid) w
  | none => s.waits (.group gid) w

/-- What follows once every earlier run has issued (R227). -/
def State.afterIssued (s : State) (gid : Nat) (f : State → State) : State :=
  if s.lanesIssued gid then f s else s.waits (.group gid) .issued

/-- What follows once every earlier run has issued and so made its predicate writes (R139). -/
def State.afterPredicates (s : State) (gid : Nat) (f : State → State) : State :=
  if s.lanesIssued gid then f s else s.waits (.group gid) .predicates

/-- What follows once every earlier run has completed (R47); a base-die core has no runs. -/
def State.afterCompleted (s : State) (a : Agent) (f : State → State) : State :=
  match a with
  | .group gid => if s.lanesCompleted gid then f s else s.waitsOrRefused gid .completed
  | _ => f s

/-! ## Branches, calls, exit (R132 to R135) -/

/-- A branch on two scalar registers (R132). -/
def scalarBranch (i : Instr) (a b : SReg) (off : BitVec 13) (f : Word64 → Word64 → Bool) (s : State) : Out :=
  scalarWord .both i (fun g s =>
    if f (s.sreg g a.toNat) (s.sreg g b.toNat) then s.setPc g (pcPlus (s.pcOf g) off) else s.advance g) s

/-- BEQ (R132). -/
def execBeq (a b : SReg) (off : BitVec 13) (s : State) : Out := scalarBranch (.beq a b off) a b off (fun x y => x == y) s
/-- BNE (R132). -/
def execBne (a b : SReg) (off : BitVec 13) (s : State) : Out := scalarBranch (.bne a b off) a b off (fun x y => x != y) s
/-- BLT (R132). -/
def execBlt (a b : SReg) (off : BitVec 13) (s : State) : Out :=
  scalarBranch (.blt a b off) a b off (fun x y => x.slt y) s
/-- BGE (R132). -/
def execBge (a b : SReg) (off : BitVec 13) (s : State) : Out :=
  scalarBranch (.bge a b off) a b off (fun x y => !x.slt y) s
/-- BLTN (R132). -/
def execBltn (a b : SReg) (off : BitVec 13) (s : State) : Out :=
  scalarBranch (.bltn a b off) a b off (fun x y => x.ult y) s
/-- BGEN (R132). -/
def execBgen (a b : SReg) (off : BitVec 13) (s : State) : Out :=
  scalarBranch (.bgen a b off) a b off (fun x y => !x.ult y) s

/-- JMP (R133). -/
def execJmp (off : BitVec 21) (s : State) : Out :=
  scalarWord .both (.jmp off) (fun g s => s.setPc g (pcPlus (s.pcOf g) off)) s

/-- CALL (R133). -/
def execCall (off : BitVec 21) (s : State) : Out :=
  scalarWord .both (.call off) (fun g s =>
    (s.setSreg g 63 (BitVec.ofNat 64 (pcNext (s.pcOf g)))).setPc g (pcPlus (s.pcOf g) off)) s

/-- RET (R134). -/
def execRet (a : SReg) (s : State) : Out :=
  scalarWord .both (.ret a) (fun g s =>
    let t := s.sreg g a.toNat
    if t.toNat % 4 ≠ 0 then s.trap g 3 1 t else s.setPc g t.toNat) s

/-- EXIT (R135, R241): a group waits for the conditions of its retirement, which `GROUP_RETIRE` finishes; a
microkernel ends. -/
def execExit (s : State) : Out :=
  scalarWord .both .exit (fun g s =>
    match g with
    | .group _ => s.waits g .retire
    | .bdc sl => s.endMicro sl 0 0
    | .none => s) s

/-! ## The reconvergence stack (R50 to R52, R136 to R142) -/

/-- The physical address of entry `n` of a group's spill slot (R51, R417). Which of the 64 slots of the spill region a group
slot has is left open: slot 16 · quarter + slot number (DESIGN CHOICE, entry 58). -/
def State.spillPa (s : State) (gid n : Nat) : Option Nat :=
  (s.areaPart (s.worldOf gid) 0 (s.coreOf gid)).map (fun p =>
    p.1 + 4096 + 8192 * (16 * (s.group gid).quarter + (s.group gid).slot) + 32 * n)

/-- The 32 bytes of an entry (R50). -/
def StackEntry.bytes (e : StackEntry) : List Byte :=
  natBytes 32 (packBits [(e.pc % 2 ^ 64, 0), (e.mask.toNat, 64), (e.fmt.toNat, 128), (if e.isElse then 1 else 0, 160)])

/-- An entry read back from the spill slot (R50). -/
def stackEntryOf (l : List Byte) : StackEntry :=
  let v := bytesNat l
  { isElse := bitOf v 160, fmt := BitVec.ofNat 32 (v >>> 128), mask := BitVec.ofNat 64 (v >>> 64), pc := v % 2 ^ 64 }

/-- Entries held on chip (R51). -/
def stackHeld : Nat := 32
/-- Depth of the stack (R52). -/
def stackMax : Nat := 256

/-- Push an entry; onto 32 held ones, the oldest held one is spilled (R51). -/
def State.pushStack (s : State) (gid : Nat) (e : StackEntry) : State :=
  let st := (s.group gid).stack
  let s :=
    match st[stackHeld - 1]?, s.spillPa gid (st.length - stackHeld) with
    | some old, some pa => s.homeWriteAll (s.worldOf gid) pa old.bytes false (portOf (s.coreOf gid))
    | _, _ => s
  s.modGroup gid (fun g => { g with stack := e :: g.stack })

/-- Pop the top entry; the newest spilled one is refilled when fewer than 32 are held (R51). -/
def State.popStack (s : State) (gid : Nat) : State :=
  let rest := (s.group gid).stack.tail
  if stackHeld ≤ rest.length then
    match s.spillPa gid (rest.length - stackHeld) with
    | some pa =>
      let r := s.homeReadAll (s.worldOf gid) pa 32 (portOf (s.coreOf gid))
      r.1.modGroup gid (fun g => { g with stack := rest.set (stackHeld - 1) (stackEntryOf r.2.1) })
    | none => s.modGroup gid (fun g => { g with stack := rest })
  else s.modGroup gid (fun g => { g with stack := rest })

/-- Must the group's stack wait before an entry is pushed onto, or popped down to, one of `depths`, because a BSU holds
the bank of the entry that the spill or refill reaches (R51, R244)? -/
def State.spillBusy (s : State) (gid : Nat) (depths : List Nat) : Bool :=
  depths.any (fun n => decide (stackHeld ≤ n) &&
    (match s.spillPa gid (n - stackHeld) with
     | some pa => s.homeBusy (s.worldOf gid) pa true
     | none => false))

/-- Must a pop of the group's stack wait? -/
def State.popBusy (s : State) (gid : Nat) : Bool := s.spillBusy gid [(s.group gid).stack.length - 1]

/-- The next PCs of a pair's halves, or of a group: halves that differ split the pair (R211). -/
def State.goTo (s : State) (gid : Nat) (next : Nat → Nat) : State :=
  if (s.group gid).converged then
    let l := leadOf gid
    if next l = next (l + 1) then s.setPc (.group l) (next l)
    else ((s.splitPair l).setPc (.group l) (next l)).setPc (.group (l + 1)) (next (l + 1))
  else s.setPc (.group gid) (next gid)

/-- Predicate values with the sign of the form: pv (R139). -/
def Group.pv (g : Group) (p : BitVec 7) (neg : Bool) : Mask :=
  if neg then ~~~g.pr p.toNat else g.pr p.toNat

/-- SETJOIN (R137). -/
def execSetjoin (off : BitVec 21) (s : State) : Out :=
  scalarWord .computeOnly (.setjoin off) (fun a s =>
    match a with
    | .group gid =>
      let t := pcPlus (s.pcOf a) off
      ((s.halvesOf gid).foldl (fun s k => s.modGroup k (fun g => { g with joinpc := t, jv := true })) s).advance a
    | _ => s) s

/-- Entries that `DIV` pushes in one half (R140). -/
def Group.divPushes (g : Group) (pv : Mask) : Nat := if g.active &&& pv = 0 ∨ g.active &&& ~~~pv = 0 then 1 else 2

/-- The check of `DIV` in one half (R140): the class and cause of its trap. -/
def Group.divTrap (g : Group) (pv : Mask) : Option (Nat × Nat) :=
  if !g.jv then some (1, 2)
  else if stackMax < g.stack.length + g.divPushes pv then some (9, 0)
  else none

/-- Must the pushes of `DIV` in one half wait? -/
def State.pushBusy (s : State) (gid : Nat) (pv : Mask) : Bool :=
  s.spillBusy gid ((List.range ((s.group gid).divPushes pv)).map ((s.group gid).stack.length + ·))

/-- `DIV` in one half, without its PC (R140). -/
def State.divHalf (s : State) (gid : Nat) (pv : Mask) (target : Nat) : State :=
  let g := s.group gid
  let m := g.active
  let t := m &&& pv
  let f := m &&& ~~~pv
  let s := s.pushStack gid { isElse := false, fmt := g.fmt, mask := m, pc := g.joinpc }
  let s := s.modGroup gid (fun g => { g with jv := false })
  if f = 0 ∨ t = 0 then s
  else
    (s.pushStack gid { isElse := true, fmt := g.fmt, mask := f, pc := target }).modGroup gid (fun g => { g with exm := t })

/-- Where `DIV` goes in one half (R140). -/
def Group.divNext (g : Group) (pv : Mask) (target next : Nat) : Nat :=
  if g.active &&& ~~~pv = 0 then next else if g.active &&& pv = 0 then target else next

/-- A predicate number of a divergence form must be one of the kernel's (R138). -/
def State.predTrap (s : State) (gid : Nat) (p : BitVec 7) : Bool := decide ((s.group gid).p ≤ p.toNat)

/-- DIV (R138 to R140, R211). -/
def execDivergence (p : BitVec 7) (neg : Bool) (off : BitVec 17) (s : State) : Out :=
  let i := Instr.divergence p neg off
  scalarWord .computeOnly i (fun a s =>
    match a with
    | .group gid =>
      if s.predTrap gid p then s.trap a 2 1 (scalarTval i)
      else
        s.afterPredicates gid (fun s =>
          let hs := s.halvesOf gid
          let target := pcPlus (s.pcOf a) off
          let next := pcNext (s.pcOf a)
          match hs.findSome? (fun k => (s.group k).divTrap ((s.group k).pv p neg)) with
          | some (cls, cause) => if cls = 1 then s.trap a cls cause (scalarTval i) else s.trapOpen a cls cause
          | none =>
            if hs.any (fun k => s.pushBusy k ((s.group k).pv p neg)) then s.waits a .completed
            else
              let t := hs.foldl (fun t k => t.divHalf k ((s.group k).pv p neg) target) s
              t.goTo gid (fun k => (s.group k).divNext ((s.group k).pv p neg) target next))
    | _ => s) s

/-- JOIN (R141, R211). -/
def execJoin (s : State) : Out :=
  scalarWord .computeOnly .join (fun a s =>
    match a with
    | .group gid =>
      let hs := s.halvesOf gid
      if hs.any (fun k => (s.group k).stack.isEmpty) then s.trapOpen a 9 1
      else if hs.any s.popBusy then s.waits a .completed
      else
        let top (k : Nat) : StackEntry := (s.group k).stack.headD { isElse := false, fmt := 0, mask := 0, pc := 0 }
        let t := hs.foldl (fun t k =>
          (t.popStack k).modGroup k (fun g => { (g.setExm (top k).mask) with fmt := (top k).fmt })) s
        t.goTo gid (fun k => (top k).pc)
    | _ => s) s

/-- A uniform branch on a predicate over ACTIVE(G) without helpers (R142). -/
def predBranch (i : Instr) (p : BitVec 7) (neg : Bool) (off : BitVec 17) (f : Mask → Mask → Bool) (s : State) : Out :=
  scalarWord .computeOnly i (fun a s =>
    match a with
    | .group gid =>
      if s.predTrap gid p then s.trap a 2 1 (scalarTval i)
      else
        s.afterPredicates gid (fun s =>
          let target := pcPlus (s.pcOf a) off
          let next := pcNext (s.pcOf a)
          s.goTo gid (fun k =>
            let g := s.group k
            if f (g.active &&& ~~~g.helpm) (g.pv p neg) then target else next))
    | _ => s) s

/-- BANY (R142). -/
def execBany (p : BitVec 7) (neg : Bool) (off : BitVec 17) (s : State) : Out :=
  predBranch (.bany p neg off) p neg off (fun set pv => set &&& pv != 0) s
/-- BALL (R142). -/
def execBall (p : BitVec 7) (neg : Bool) (off : BitVec 17) (s : State) : Out :=
  predBranch (.ball p neg off) p neg off (fun set pv => set &&& ~~~pv == 0) s
/-- BNONE (R142). -/
def execBnone (p : BitVec 7) (neg : Bool) (off : BitVec 17) (s : State) : Out :=
  predBranch (.bnone p neg off) p neg off (fun set pv => set &&& pv == 0) s

/-! ## The execution mask (R143) and `TWJOIN` (R144, R214) -/

/-- The halves that a write select names (R143, R149). -/
def State.selHalves (s : State) (gid : Nat) (sel : BitVec 2) : List Nat :=
  if (s.group gid).converged then
    (if sel = 0#2 then [leadOf gid, leadOf gid + 1] else if sel = 1#2 then [leadOf gid] else [leadOf gid + 1])
  else [gid]

/-- SETEXM (R143). -/
def execSetexm (a : SReg) (sel : BitVec 2) (s : State) : Out :=
  scalarWord .computeOnly (.setexm a sel) (fun ag s =>
    match ag with
    | .group gid =>
      let v := s.sreg ag a.toNat
      ((s.selHalves gid sel).foldl (fun s k => s.modGroup k (fun g => g.setExm v)) s).advance ag
    | _ => s) s

/-- GETEXM (R143). -/
def execGetexm (d : SReg) (hsel : Bool) (s : State) : Out :=
  scalarWord .computeOnly (.getexm d hsel) (fun ag s =>
    match ag with
    | .group gid =>
      s.afterCompleted ag (fun s => (s.setSreg ag d.toNat (s.group (s.hselOf gid hsel)).active).advance ag)
    | _ => s) s

/-- A waiting `MGUIDE` of a half whose partner cannot meet it any more traps (R213). -/
def State.breakGuide (s : State) (gid cause : Nat) : State :=
  match (s.group gid).rdv with
  | some r =>
    if r.partner = none then
      (s.modGroup gid Group.leaveRdv).raiseLane gid false { cls := 6, cause, tval := BitVec.ofNat 64 r.addr }
    else s
  | none => s

/-- Is an engine command of the group held under a pending guard (R214, R217)? -/
def State.guardedCmd (s : State) (gid : Nat) : Bool :=
  (s.group gid).engq.any (fun c => !c.past && !c.started &&
    (match c.guard with
     | some k => decide ((s.guard gid k).st = .pending)
     | none => false))

/-- The guards of a group's queued commands that are resolved are read (R217), so that no count of theirs is left (R214): a
command is held no more, or is discarded. -/
def State.readGuards (s : State) (gid : Nat) : State :=
  ((s.group gid).engq.filter (fun c => !c.past && !c.started)).foldl (fun s c =>
    match c.guard with
    | none => s
    | some k =>
      match (s.guard gid k).st with
      | .pending => s
      | .resolvedTrue => (s.dropGuard gid c.guard).modGroup gid (fun g =>
          g.modCmd c.path c.seq (fun c => { c with guard := none }))
      | .resolvedFalse => (s.dropGuard gid c.guard).modGroup gid (fun g => g.cmdOver c.path c.seq)) s

/-- The value of a scalar load or atomic of a context that is discarded goes nowhere (R55, R144). -/
def Access.discard (a : Access) : Access :=
  match a.dest with
  | .sreg _ => { a with dest := .none }
  | _ => a

/-- The pair rejoins (R144): it continues converged from the lead's scalar context at the word after the lead's
`TWJOIN`; the double's context is discarded. Deferred traps of the double that are still pending stay pending, for the
pair (DESIGN CHOICE, entry 57). A double that comes here in its trap handler keeps its trap mode and its frozen entries (DESIGN
CHOICE, entry 58). -/
def State.rejoin (s : State) (gid : Nat) : State :=
  let l := leadOf gid
  let s := s.readGuards (l + 1)
  let rest := (s.group (l + 1)).deferred
  let s := s.modGroup (l + 1) (fun g =>
    { g with split := false, jwait := false, wait := none, sregs := [], guards := [], deferred := [], pc := 0,
             accs := g.accs.map Access.discard,
             poison := g.poison.filter (fun m => m.file != 1) })
  let s := s.modGroup l (fun g => { g with split := false, jwait := false, deferred := g.deferred ++ rest })
  s.advance (.group l)

/-- TWJOIN (R144, R214). -/
def execTwjoin (s : State) : Out :=
  scalarWord .computeOnly .twjoin (fun a s =>
    match a with
    | .group gid =>
      let g := s.group gid
      if !(g.twin && g.split) || !s.live (partnerOf gid) then s.advance a
      else if !s.lanesIssued gid then s.waits a .issued
      else if !s.lanesCompleted gid then s.waitsOrRefused gid .drained
      else if s.guardedCmd gid then s.waits a .rejoin
      else
        let s := (s.modGroup gid (fun g => { g with jwait := true })).breakGuide (partnerOf gid) 1
        s.waits a .rejoin
    | _ => s) s

/-! ## The lane queue and guards (R145 to R148) -/

/-- Runs that a lane queue holds (R145). -/
def laneRoom : Nat := 8
/-- The largest count of a guard (R38). -/
def guardMax : Nat := 15

/-- The byte offset in `.scode` of a group's PC. -/
def State.scodeOffset (s : State) (gid : Nat) : Nat :=
  ((s.group (s.ctxOf gid)).pc + 2 ^ 64 - (s.launchOf gid).scodeBase) % 2 ^ 64

/-- Does a rehearsal run the group's launch, and does its PC lie outside the range (R428)? -/
def State.outsideRange (s : State) (gid : Nat) : Bool :=
  let d := (s.world (s.worldOf gid)).dbg
  let o := s.scodeOffset gid
  d.rhEn && decide ((s.launchOf gid).seq % 2 ^ 32 = d.launch) && !(decide (d.rhLo.toNat ≤ o) && decide (o < d.rhHi.toNat))

/-- The cycles that a rehearsal adds to an instruction outside the range: none without a rehearsal (R428). -/
def State.rehearsalDelay (s : State) (gid : Nat) : Nat :=
  let d := (s.world (s.worldOf gid)).dbg
  if d.rhEn && decide ((s.launchOf gid).seq % 2 ^ 32 = d.launch) then d.rhD else 0

/-- INSERTED counts the cycles that a rehearsal adds (R429). -/
def State.noteDelay (s : State) (gid : Nat) : State :=
  s.modWorld (s.worldOf gid) (fun w =>
    { w with dbg := { w.dbg with inserted := w.dbg.inserted + BitVec.ofNat 64 (s.rehearsalDelay gid) } })

/-- The run that `RUN` queues in one half (R42, R118, R145). -/
def State.newRun (s : State) (gid half : Nat) (g : Option Nat) (idx : Nat) : Run :=
  let c := s.group (s.ctxOf gid)
  let h := s.group half
  { id := h.runsQueued, next := idx, exm := h.exm, fmt := h.fmt, svals := c.sregs, guard := g, outside := s.outsideRange gid,
    spend := (List.range 64).filterMap (fun r =>
      (s.pendingSreg (s.ctxOf gid) r).map (fun a => (r, accKey a.1 a.2.aid)))
    hurt := (c.poison.filter (fun m => m.file == 1)).map (·.num) }

/-- RUN (R145). -/
def execRun (g : Option (BitVec 3)) (idx : BitVec 21) (s : State) : Out :=
  let i := Instr.run g idx
  scalarWord .computeOnly i (fun a s =>
    match a with
    | .group gid =>
      let hs := s.halvesOf gid
      let k := g.map BitVec.toNat
      let full : Bool := (k.map (fun k => decide (guardMax < (s.guard gid k).count + hs.length))).getD false
      if (s.group gid).trapMode then s.trap a 1 8 (scalarTval i)
      else if hs.any (fun h => laneRoom ≤ (s.group h).laneq.length) then s.waits a .laneRoom
      else if full then s.waits a (.guardRoom (k.getD 0) hs.length)
      else
        let t := hs.foldl (fun t h =>
          t.modGroup h (fun v =>
            { v with laneq := v.laneq ++ [s.newRun gid h k idx.toNat], runsQueued := v.runsQueued + 1 })) s
        let t :=
          match k with
          | some k => t.modGuard gid k (fun v => { v with count := v.count + hs.length })
          | none => t
        t.advance a
    | _ => s) s

/-- GCLR (R147). -/
def execGclr (k : BitVec 3) (s : State) : Out :=
  let i := Instr.gclr k
  scalarWord .computeOnly i (fun a s =>
    match a with
    | .group gid =>
      if 0 < (s.guard gid k.toNat).count then s.trap a 1 3 (scalarTval i)
      else (s.modGuard gid k.toNat (fun v => { v with st := .pending })).advance a
    | _ => s) s

/-- GRD (R148). -/
def execGrd (k : BitVec 3) (s : State) : Out :=
  scalarWord .computeOnly (.grd k) (fun a s =>
    match a with
    | .group gid =>
      if (s.guard gid k.toNat).st = .pending then s.waits a (.guardResolved k.toNat) else s.advance a
    | _ => s) s

/-- BG (R148). -/
def execBg (k : BitVec 3) (off : BitVec 21) (s : State) : Out :=
  scalarWord .computeOnly (.bg k off) (fun a s =>
    match a with
    | .group gid =>
      match (s.guard gid k.toNat).st with
      | .pending => s.waits a (.guardResolved k.toNat)
      | .resolvedTrue => s.setPc a (pcPlus (s.pcOf a) off)
      | .resolvedFalse => s.advance a
    | _ => s) s

/-! ## FMT (R149) -/

/-- Write FMT of a stream: of the selected halves of a pair (R149). -/
def State.setFmt (s : State) (a : Agent) (sel : BitVec 2) (v : Nat) : State :=
  match a with
  | .group gid => (s.selHalves gid sel).foldl (fun s k => s.modGroup k (fun g => { g with fmt := BitVec.ofNat 32 v })) s
  | .bdc sl => s.modBdc sl (fun c => { c with fmt := BitVec.ofNat 32 v })
  | .none => s

/-- SETFMT (R149). -/
def execSetfmt (v : BitVec 14) (s : State) : Out :=
  let i := Instr.setfmt v
  scalarWord .both i (fun a s =>
    if !fmtLegal v.toNat then s.trap a 2 4 (scalarTval i) else (s.setFmt a 0#2 v.toNat).advance a) s

/-- SETFMTR (R149). -/
def execSetfmtr (r : SReg) (sel : BitVec 2) (s : State) : Out :=
  let i := Instr.setfmtr r sel
  scalarWord .both i (fun a s =>
    let v := (s.sreg a r.toNat).toNat
    if 2 ^ 14 ≤ v ∨ fmtLegal v = false then s.trap a 2 4 (scalarTval i) else (s.setFmt a sel v).advance a) s

/-- FMT of a stream, of the half that HSEL names. -/
def State.fmtOf (s : State) (a : Agent) (hsel : Bool) : Word32 :=
  match a with
  | .group gid => (s.group (s.hselOf gid hsel)).fmt
  | .bdc sl => (s.bdc sl).fmt
  | .none => 0

/-- GETFMT (R149). -/
def execGetfmt (d : SReg) (hsel : Bool) (s : State) : Out :=
  scalarWord .both (.getfmt d hsel) (fun a s =>
    (s.setSreg a d.toNat ((s.fmtOf a hsel).setWidth 64)).advance a) s

/-! ## Special registers (R46, R47, R150, R239) -/

/-- The code of a guard's state in GSTATE (R46). -/
def guardCode : GuardSt → Nat
  | .pending => 0
  | .resolvedTrue => 1
  | .resolvedFalse => 2

/-- Is a special-register number assigned on the stream's kind of core (R46, R239)? -/
def sprOk (a : Agent) (n : Nat) : Bool :=
  match agentKind a with
  | .compute => decide (n ≤ 0x0c) || (decide (0x10 ≤ n) && decide (n ≤ 0x14)) || (decide (0x18 ≤ n) && decide (n ≤ 0x1a))
  | .base => n == 0 || n == 1 || n == 0x0c || (decide (0x18 ≤ n) && decide (n ≤ 0x1a)) ||
      (decide (0x20 ≤ n) && decide (n ≤ 0x22))

/-- Does an `SPRR` of this number wait for the runs before it (R47)? -/
def sprReadWaits (n : Nat) : Bool :=
  n == 0 || n == 2 || n == 3 || n == 4 || n == 5 || n == 9 || (decide (0x10 ≤ n) && decide (n ≤ 0x14))

/-- Does an `SPRW` of this number wait (R47)? -/
def sprWriteWaits (n : Nat) : Bool := n == 0 || n == 1 || n == 5

/-- TWINST of a half (R55). -/
def Group.twinst (g : Group) : Nat :=
  packBits [(if g.twin then 1 else 0, 0), (if g.isDouble then 1 else 0, 1), (if g.split then 1 else 0, 2),
    (if g.jwait then 1 else 0, 3)]

/-- A special register of a group (R46): `half` holds the registers that are per half, the trap registers among them (R121), and
`gid` is the scalar context. A trap of a converged pair writes those of the lead alone (DESIGN CHOICE, entry 58). -/
def State.sprGroup (s : State) (gid half n : Nat) : Nat :=
  let g := s.group half
  let core := s.core (s.coreOf gid)
  if n = 0x00 then g.fflags.toNat
  else if n = 0x01 then g.fmt.toNat
  else if n = 0x02 then g.exm.toNat
  else if n = 0x03 then g.deadm.toNat
  else if n = 0x04 then g.helpm.toNat
  else if n = 0x05 then g.dither.toNat
  else if n = 0x06 then g.stack.length
  else if n = 0x07 then packBits ((List.range 8).map (fun k => (guardCode (s.guard gid k).st, 2 * k)))
  else if n = 0x08 then packBits ((List.range 8).map (fun p => (tabGet 0 g.ifc p % 64, 6 * p)))
  else if n = 0x09 then (match g.latch with
    | some l => 512 + l.base
    | none => 0)
  else if n = 0x0a then g.twinst
  else if n = 0x0b then g.laneq.length
  else if n = 0x0c then (s.now - core.clockBase) % 2 ^ 64
  else if 0x10 ≤ n ∧ n ≤ 0x14 then (tabGet 0 core.terms (5 * g.quarter + (n - 0x10))).toNat
  else if n = 0x18 then g.tcause.toNat
  else if n = 0x19 then g.tepc
  else if n = 0x1a then g.tval.toNat
  else 0

/-- CLOCK of a base-die core: BSU cycles, at half the rate of the core clock (R3, R238). -/
def State.bsuClock (s : State) (sl : Nat) : Nat := ((s.now - (s.bdc sl).clockBase) / 2) % 2 ^ 64

/-- A special register of a base-die core (R239). -/
def State.sprBdc (s : State) (sl n : Nat) : Nat :=
  let c := s.bdc sl
  if n = 0x00 then c.fflags.toNat
  else if n = 0x01 then c.fmt.toNat
  else if n = 0x0c then s.bsuClock sl
  else if n = 0x18 then c.tcause.toNat
  else if n = 0x19 then c.tepc
  else if n = 0x1a then c.tval.toNat
  else if n = 0x20 then c.mbx.length
  else if n = 0x21 then c.opened.length
  else if n = 0x22 then
    ((s.world ((s.slice sl).owner.getD 0)).slices.findIdx (· == sl)) % 256 + 256 * (sl % 256)
  else 0

/-- A special register of a stream. -/
def State.spr (s : State) (a : Agent) (hsel : Bool) (n : Nat) : Nat :=
  match a with
  | .group gid => s.sprGroup gid (s.hselOf gid hsel) n
  | .bdc sl => s.sprBdc sl n
  | .none => 0

/-- SPRR (R150, R46, R47). -/
def execSprr (d : SReg) (n : BitVec 7) (hsel : Bool) (s : State) : Out :=
  let i := Instr.sprr d n hsel
  scalarWord .both i (fun a s =>
    if !sprOk a n.toNat then s.trap a 2 5 (scalarTval i)
    else
      let body (s : State) : State := (s.setSreg a d.toNat (BitVec.ofNat 64 (s.spr a hsel n.toNat))).advance a
      if sprReadWaits n.toNat then s.afterCompleted a body else body s) s

/-- The bits of FFLAGS that are not reserved (R48). -/
def fflagsMask : Word32 := 0x3f

/-- Write a special register of a group (R46, R150): a read-only one ignores the write. The trap registers of either half of a
converged pair are written while the pair is in trap mode (DESIGN CHOICE, entry 58). -/
def State.setSprGroup (s : State) (gid half n : Nat) (v : Word64) : State :=
  let w : Word32 := v.setWidth 32
  if n = 0x00 then s.modGroup half (fun g => { g with fflags := w &&& fflagsMask })
  else if n = 0x01 then s.modGroup half (fun g => { g with fmt := (v.setWidth 14).setWidth 32 })
  else if n = 0x02 then s.modGroup half (fun g => g.setExm v)
  else if n = 0x05 then s.modGroup half (fun g => { g with dither := w })
  else if 0x10 ≤ n ∧ n ≤ 0x14 then
    s.modCore (s.coreOf gid) (fun c =>
      { c with terms := tabSet 0 c.terms (5 * (s.group half).quarter + (n - 0x10)) v })
  else if (s.group gid).trapMode then
    if n = 0x18 then s.modGroup half (fun g => { g with tcause := w })
    else if n = 0x19 then s.modGroup half (fun g => { g with tepc := v.toNat })
    else if n = 0x1a then s.modGroup half (fun g => { g with tval := v })
    else s
  else s

/-- Write a special register of a base-die core (R239): it has no trap mode (R328). -/
def State.setSprBdc (s : State) (sl n : Nat) (v : Word64) : State :=
  if n = 0x00 then s.modBdc sl (fun c => { c with fflags := v.setWidth 32 &&& fflagsMask })
  else if n = 0x01 then s.modBdc sl (fun c => { c with fmt := (v.setWidth 14).setWidth 32 })
  else s

/-- SPRW (R150, R46, R47). -/
def execSprw (n : BitVec 7) (hsel : Bool) (r : SReg) (s : State) : Out :=
  let i := Instr.sprw n hsel r
  scalarWord .both i (fun a s =>
    let v := s.sreg a r.toNat
    if !sprOk a n.toNat then s.trap a 2 5 (scalarTval i)
    else if n = 1#7 ∧ fmtLegal (v.toNat % 2 ^ 14) = false then s.trap a 2 4 (scalarTval i)
    else
      let body (s : State) : State :=
        (match a with
         | .group gid => s.setSprGroup gid (s.hselOf gid hsel) n.toNat v
         | .bdc sl => s.setSprBdc sl n.toNat v
         | .none => s).advance a
      if sprWriteWaits n.toNat then s.afterCompleted a body else body s) s

/-! ## Trap forms, YIELD, NOP (R151 to R153) -/

/-- TRAP (R151). -/
def execTrap (imm : BitVec 19) (s : State) : Out :=
  scalarWord .both (.trap imm) (fun a s => s.trapAfter a 12 (imm.setWidth 64)) s

/-- BRK (R151). -/
def execBrk (imm : BitVec 19) (s : State) : Out :=
  scalarWord .both (.brk imm) (fun a s => s.trapAfter a 13 (imm.setWidth 64)) s

/-- The trapping run resumes past its word or repetition (R331). -/
def State.skipWord (s : State) (gid : Nat) : State :=
  match (s.group gid).laneq with
  | r :: _ => s.laneDoneBoth gid (s.headEnds gid r)
  | [] => s

/-- RTE (R152, R331). -/
def execRte (s : State) : Out :=
  scalarWord .both .rte (fun a s =>
    match a with
    | .group gid =>
      let g := s.group gid
      if !g.trapMode then s.trap a 1 4 (scalarTval .rte)
      else if g.tepc % 4 ≠ 0 then s.trap a 3 1 (BitVec.ofNat 64 g.tepc)
      else s.returnFromTrap gid State.skipWord
    | _ => s.trap a 1 4 (scalarTval .rte)) s

/-- YIELD (R153, R239): the group's next run loses its age lead once; no effect on a base-die core. -/
def execYield (s : State) : Out :=
  scalarWord .both .yield (fun a s =>
    match a with
    | .group gid => (s.modGroup gid (fun g => { g with yielded := true })).advance a
    | _ => s.advance a) s

/-- NOP (R153). -/
def execNop (s : State) : Out := scalarWord .both .nop (fun a s => s.advance a) s

end Sys2Proof.Machine
end

