-- ==== Sys2Proof/Machine/Stream.lean ====
section
/-! DEFINITION. What a stream issues next (spec/04_encoding.md R103, spec/06_isa_scalar.md R116, R120,
spec/13_faults.md R327, R331, R332, R333): when it may issue, the word it fetches, and the instruction that the word
is, or the trap of a word that is none. -/

namespace Sys2Proof.Machine

/-- What a stream does next: an instruction, or nothing more than what the state already shows. -/
inductive Next where
  | run (i : Instr)
  | idle
  deriving DecidableEq, Repr

/-- Is a take due at a completed barrier phase: has TKC reached TAKEN (R336)? -/
def Troupe.takeDue (t : Troupe) (h : Header) : Bool := t.takesOn && h.taken != 0 && t.tkc == h.taken

/-- May a group run at all: its troupe is resident and not halting or held, its launch not frozen, and no take is due
(R333, R336, R406, R419, R422)? -/
def State.mayRun (s : State) (gid : Nat) : Bool :=
  let g := s.group gid
  let t := s.troupe g.tid
  let l := s.launch t.lid
  s.live gid && t.resident && t.halting.isNone && !t.held && !s.frozenRing l && !g.halted &&
    !t.takeDue (l.hdr.getD noHeader)

/-- May a group issue: no second take stands before its next boundary (R337)? -/
def State.mayIssue (s : State) (gid : Nat) : Bool :=
  s.mayRun gid && !(s.halvesOf gid).any (fun k => (s.troupe (s.group gid).tid).secondTakes.contains k)

/-- Does a wait end by an event of its own, so that its stream does not look again before? -/
def WaitOn.passive : WaitOn → Bool
  | .trans _ => true
  | .fetch => true
  | .retire => true
  | .barrier _ _ => true
  | .rejoin => true
  | .meeting => true
  | .brun => true
  | _ => false

/-- Is the stream held by such a wait? -/
def heldBy (w : Option WaitOn) : Bool := (w.map WaitOn.passive).getD false

/-- A deferred trap is delivered while the instruction at PC waits (R332); an access whose translation it waits for
is taken back, and the instruction issues again after `RTE`. -/
def State.deliverWaiting (s : State) (gid : Nat) : State :=
  match (s.group gid).wait with
  | some (.trans aid) => ((s.unpark gid aid).cancelAccess gid aid).deliverDeferred gid
  | _ => s.deliverDeferred gid

/-- The next scalar instruction of a group's context. -/
def State.nextScalar (s : State) (gid : Nat) : State × Next :=
  let g := s.group gid
  if !s.mayIssue gid || decide (0 < g.delay) then (s, .idle)
  else if !g.trapMode && !g.deferred.isEmpty then (s.deliverWaiting gid, .idle)
  else if heldBy g.wait then (s, .idle)
  else
    match s.fetchScalar gid with
    | (s, .bytes l) =>
      match decodeScalarBytes l with
      | .ok i => (s, .run i)
      | .unassigned => (s, .run (.notAnInstruction 1 0 false (BitVec.ofNat 64 (leNat l))))
      | .bad c _ => (s, .run (.notAnInstruction 1 (if c then 0 else 1) false (BitVec.ofNat 64 (leNat l))))
    | (s, .trap c a) => (s, .run (.notAnInstruction 4 c false (BitVec.ofNat 64 a)))
    | (s, .poison a) => (s, .run (.notAnInstruction 11 0 false (BitVec.ofNat 64 a)))
    | (s, .parked) => (s.waits (.group gid) .fetch, .idle)
    | (s, .busy) => (s, .idle)

/-- The half of a converged pair that issues the current lane word: the lead first, then the double (R160). -/
def State.laneHalf (s : State) (gid : Nat) : Nat :=
  if (s.group gid).converged then
    match (s.group (leadOf gid)).laneq with
    | r :: _ => if r.leadDone then leadOf gid + 1 else leadOf gid
    | [] => leadOf gid
  else gid

/-- A field of a repeated word on repetition i (R93): none when it leaves the field's range. -/
def repField (v : BitVec 9) (step : Int) (i : Nat) : Option (BitVec 9) :=
  let x : Int := v.toNat + step * i
  if 0 ≤ x ∧ x < 512 then some (BitVec.ofInt 9 x) else none

/-- The repeated word on its current repetition (R93). -/
def repeated (q : RepState) (i : Instr) : Option Instr :=
  match laneHead i with
  | none => some i
  | some h =>
    match repField h.vd q.d q.done, repField h.va q.a q.done, repField h.vb q.b q.done, repField h.vc q.c q.done with
    | some d, some a, some b, some c => some (withHead { h with vd := d, va := a, vb := b, vc := c } i)
    | _, _, _, _ => none

/-- The instruction that the bytes of a lane word are, for a run on a kind of core: a word that is none raises its
trap with the word's address (R103, R104). -/
def laneInstr (compute : Bool) (rep : Option RepState) (addr : Nat) (l : List Byte) : Instr :=
  let bad (cls cause : Nat) : Instr := .notAnInstruction cls cause true (BitVec.ofNat 64 addr)
  match decodeLaneBytes l with
  | .ok i =>
    match rep with
    | none => i
    | some q => (repeated q i).getD (bad 2 0)
  | .unassigned => bad 1 0
  | .bad c b => bad 1 (if (if compute then c else b) then 0 else 1)

/-- Has a run begun to issue (R422)? -/
def Run.begun (r : Run) : Bool := decide (0 < r.counted) || r.rep.isSome || r.leadDone

/-- May a group that is asked to stop for the debugger still go on, to the end of the run that it is in (R422): for 3 µs,
or until a matrix form has completed? -/
def State.finishing (s : State) (gid : Nat) : Bool :=
  let g := s.group gid
  let t := s.troupe g.tid
  let l := s.launch t.lid
  s.live gid && t.resident && t.halting == some .debug && !s.frozenRing l && !g.halted &&
    (match g.laneq with
     | r :: _ => r.begun && !r.matrixLast
     | [] => false) &&
    decide (s.now < (s.world l.world).dbg.stopAt + 3600)

/-- May the lane stream of a group issue: its head run holds a slice (R268), the queue is not frozen (R331), and no
trap of a lane word, or of a refused service that one met (R304), is pending? -/
def State.laneMayIssue (s : State) (gid : Nat) : Bool :=
  let c := s.group (s.ctxOf gid)
  let g := s.group gid
  let stops (t : TrapInfo) : Bool := t.laneWord || (t.engine && (t.path ≤ 1 || t.path == 7))
  (s.mayIssue gid || s.finishing gid) && decide (g.ldelay = 0) && !c.trapMode && !c.deferred.any stops && !g.deferred.any stops && !heldBy g.lwait

/-- The next lane word of a group, or of the half of a converged pair whose turn it is. A half that had issued the
word before its pair split goes on (R160, R215). -/
def State.nextLane (s : State) (gid : Nat) : State × Next :=
  let h := s.laneHalf gid
  if !s.laneMayIssue h then (s, .idle)
  else
    match (s.group h).laneq with
    | [] => (s, .idle)
    | r :: l =>
      if r.slice.isNone then (s, .idle)
      else if r.leadDone && !(s.group h).converged then
        match r.enterRep with
        | some r' => (s.modGroup h (fun g => { g with laneq := r' :: l, lwait := none }), .idle)
        | none => ((s.settleVote h).laneDone h (s.headEnds h r), .idle)
      else
        let s := { s with cur := .group h }
        let a := s.laneAddr h r
        match s.fetchLane h r with
        | (s, .bytes l) => (s, .run (laneInstr true r.rep a l))
        | (s, .trap c x) => (s, .run (.notAnInstruction 4 c true (BitVec.ofNat 64 x)))
        | (s, .poison x) => (s, .run (.notAnInstruction 11 1 true (BitVec.ofNat 64 x)))
        | (s, .parked) => (s.laneWaits h .fetch, .idle)
        | (s, .busy) => (s, .idle)

/-- The next scalar instruction of a base-die core: none while a bank run is in progress (R246). -/
def State.nextBdc (s : State) (sl : Nat) : State × Next :=
  let c := s.bdc sl
  if c.lid.isNone || c.halted || c.brun.isSome then (s, .idle)
  else
    match c.fetchScalar with
    | .bytes l =>
      match decodeScalarBytes l with
      | .ok i => (s, .run i)
      | .unassigned => (s, .run (.notAnInstruction 1 0 false (BitVec.ofNat 64 (leNat l))))
      | .bad _ b => (s, .run (.notAnInstruction 1 (if b then 0 else 1) false (BitVec.ofNat 64 (leNat l))))
    | .trap k a => (s, .run (.notAnInstruction 4 k false (BitVec.ofNat 64 a)))
    | _ => (s, .idle)

/-- The next word of a bank run in progress (R246, R247). -/
def State.nextBank (s : State) (sl : Nat) : State × Next :=
  let c := s.bdc sl
  match c.brun with
  | none => (s, .idle)
  | some b =>
    if b.ended then (s, .idle)
    else
      match c.fetchLane b.next with
      | .bytes l => (s, .run (laneInstr false none (c.laneAddr b.next) l))
      | .trap k a => (s, .run (.notAnInstruction 4 k true (BitVec.ofNat 64 a)))
      | _ => (s, .idle)

/-- What the stream that is executing does next. -/
def State.nextOf (s : State) (a : Agent) (lane : Bool) : State × Next :=
  match a, lane with
  | .none, _ => (s, .idle)
  | .group gid, false => s.nextScalar (s.ctxOf gid)
  | .group gid, true => s.nextLane gid
  | .bdc sl, false => s.nextBdc sl
  | .bdc sl, true => s.nextBank sl

end Sys2Proof.Machine
end

