-- ==== Sys2Proof/Machine/Lane.lean ====
section
/-! DEFINITION. How a lane word issues (spec/07_isa_lane.md R154 to R161, spec/04_encoding.md R93, R94, R103 to R105):
its checks, the participating set, the scoreboard, queues (spec/12_sync.md R317, R318), poison (spec/13_faults.md R339,
R340), and the writing of its results. Each meaning of a lane word is one of the shared frames here with its own
effect. -/

namespace Sys2Proof.Machine

/-! ## Sources and destinations -/

/-- The operand values that a word reads, each with the number of consecutive registers (R88, R166, R191, R194, R200,
R235). -/
def laneSources (i : Instr) : List (BitVec 9 × Nat) :=
  match i with
  | .cadd128 h nb => [(h.va, 4), (h.vb, if nb then 1 else 4)]
  | .rngx h _ => [(h.va, 4), (h.vb, if isScalar h.vb then 1 else 2)]
  | .st h size _ _ _ => [(h.va, 1), (h.vb, 1), (h.vc, sizeWords size)]
  | .sts h size _ _ => [(h.va, 1), (h.vb, 1), (h.vc, sizeWords size)]
  | .atom h op w64 _ _ _ _ => [(h.va, 1), (h.vb, 1), (h.vc, atomWords op w64)]
  | .atoms h op w64 _ _ _ => [(h.va, 1), (h.vb, 1), (h.vc, atomWords op w64)]
  | .mma h _ acls n32 => [(h.va, aRegs acls + 1), (h.vb, 1), (h.vc, 1), (h.vd, if n32 then 32 else 16)]
  | .mmat h _ acls n32 => [(h.va, aRegs acls + 1), (h.vb, 1), (h.vc, 1), (h.vd, if n32 then 32 else 16)]
  | .mguide h cnt => [(h.va, cnt.toNat + 1), (h.vb, cnt.toNat + 1), (h.vc, 1)]
  | .regroup h _ _ => [(h.vb, 1)]
  | _ =>
    match laneUse i, laneHead i with
    | some u, some h =>
      (if u.a = .operand then [(h.va, 1)] else []) ++ (if u.b = .operand ∧ !vbUnread i then [(h.vb, 1)] else []) ++
        (if u.c = .operand then [(h.vc, 1)] else [])
    | _, _ => []

/-- The destination of a word with the number of consecutive registers it writes, for a group of `ww` lanes. -/
def laneDests (ww : Nat) (i : Instr) : List (BitVec 9 × Nat) :=
  match i with
  | .cadd128 h _ => [(h.vd, 4)]
  | .rngx h _ => [(h.vd, 4)]
  | .ld h size _ _ _ => [(h.vd, sizeWords size)]
  | .lds h size _ _ => [(h.vd, sizeWords size)]
  | .ldc h size _ _ => [(h.vd, sizeWords size)]
  | .atom h _ w64 _ nr _ _ => if nr then [] else [(h.vd, if w64 then 2 else 1)]
  | .atoms h _ w64 nr _ _ => if nr then [] else [(h.vd, if w64 then 2 else 1)]
  | .vote h _ _ mode => [(h.vd, if mode = .ballot ∧ ww = 64 then 2 else 1)]
  | .mma h _ _ n32 => [(h.vd, if n32 then 32 else 16)]
  | .mmat h _ _ n32 => [(h.vd, if n32 then 32 else 16)]
  | .mguide h cnt => [(h.vd, cnt.toNat + 1)]
  | .mzero h cnt => [(h.vd, cnt.toNat + 1)]
  | _ =>
    match laneUse i, laneHead i with
    | some u, some h => if u.d = .operand then [(h.vd, 1)] else []
    | _, _ => []

/-- The predicates that a word reads in its own lanes, beside its selecting one (R177 to R179, R182, R185). -/
def lanePreds (pp : Nat) (i : Instr) : List Nat :=
  match i with
  | .pand _ pd pa _ => [pd.toNat, pa.toNat]
  | .por _ pd pa _ => [pd.toNat, pa.toNat]
  | .pxor _ pd pa _ => [pd.toNat, pa.toNat]
  | .pnot _ _ pa _ => [pa.toNat]
  | .pmov _ _ pa _ => [pa.toNat]
  | .ptoi _ pa => ((List.range 32).map (fun k => pa.toNat + k)).filter (fun k => decide (k < pp))
  | .sel _ ps _ => [ps.toNat]
  | .vote _ pa _ _ => [pa.toNat]
  | .vguard _ _ _ pa _ => [pa.toNat]
  | _ => []

/-- The queues that a word pops, each once (R88). -/
def queueSources (i : Instr) : List Nat :=
  ((laneSources i).filterMap (fun p => if isQueue p.1 then some (p.1.toNat - 448) else none)).eraseDups

/-- The queue that a word pushes (R158). -/
def queueDest (i : Instr) : Option Nat :=
  (laneDests 16 i).findSome? (fun p => if isQueue p.1 then some (p.1.toNat - 448) else none)

/-! ## Participation (R42, R89, R154, R156) -/

/-- The run at the head of a group's lane queue; a word placed without one runs with the group's own masks. -/
def Group.headRun (g : Group) : Run := g.laneq.headD { next := 0, exm := g.exm, fmt := g.fmt, svals := g.sregs }

/-- ACTIVE(G) of a word: the EXM that its run copied, without the dead lanes (R42). -/
def Group.runActive (g : Group) : Mask := g.activeWith g.headRun.exm

/-- PS of a word (R154): its predicate selects among ACTIVE(G). -/
def Group.pset (g : Group) (h : LaneHead) : Mask :=
  if h.pr = 127#7 then g.runActive else g.runActive &&& g.pv h.pr h.pn

/-- Does a word execute (R154)? -/
def Group.executes (g : Group) (h : LaneHead) : Bool :=
  if h.u then g.runActive != 0 || h.alw else g.pset h != 0

/-- The lanes that a word acts on: PS, or ACTIVE(G) of a uniform word (R154, R156). -/
def Group.laneSet (g : Group) (h : LaneHead) : Mask := if h.u then g.runActive else g.pset h

/-! ## Scoreboard (R159) -/

/-- Do two spans of registers meet? -/
def spansMeet (a : BitVec 9 × Nat) (base n : Nat) : Bool :=
  decide (a.1.toNat < 384) && decide (a.1.toNat < base + n) && decide (base < a.1.toNat + a.2)

/-- The pending access of a group that writes a register the word names. -/
def Group.vregPending (g : Group) (i : Instr) : Option Access :=
  g.accs.find? (fun a => !a.past &&
    (match a.dest with
     | .vreg base n => (laneSources i ++ laneDests g.w i).any (fun p => spansMeet p base n)
     | _ => false))

/-- Will a matrix form in a term array write a register of the group that the word names (R206)? -/
def State.arrayPending (s : State) (gid : Nat) (i : Instr) : Bool :=
  let g := s.group gid
  (s.core (s.coreOf gid)).arrays.any (fun p =>
    match p.2 with
    | some f => (f.gid == gid || f.other == some gid) &&
        (laneSources i ++ laneDests g.w i).any (fun q => spansMeet q f.vd f.n)
    | none => false)

/-- The access that a key of a run's scalar values names, if it is outstanding. -/
def State.keyAccess (s : State) (gid key : Nat) : Option (Nat × Access) :=
  let k := gid - gid % 2 + key % 2
  ((s.group k).acc (key / 2)).map (fun a => (k, a))

/-- The access whose value a scalar operand of the word waits for (R118). -/
def State.svalPending (s : State) (gid : Nat) (i : Instr) : Option (Nat × Access) :=
  let r := (s.group gid).headRun
  (laneSources i).findSome? (fun p =>
    if isScalar p.1 then
      (r.spend.find? (fun q => q.1 == p.1.toNat - 384)).bind (fun q => s.keyAccess gid q.2)
    else none)

/-- The lane word waits on an access, or meets one whose service was refused (R159, R304). -/
def State.laneMeets (s : State) (gid owner : Nat) (a : Access) : State :=
  match a.refusal with
  | some (addr, cause) => (s.refuseAccess owner a addr cause).laneWaits gid (.operand owner a.aid)
  | none => s.laneWaits gid (.operand owner a.aid)

/-- What keeps a lane word from issuing now, by the scoreboard (R159); none when nothing does. -/
def State.laneHeld (s : State) (gid : Nat) (i : Instr) : Option State :=
  match (s.group gid).vregPending i with
  | some a => some (s.laneMeets gid gid a)
  | none =>
    match s.svalPending gid i with
    | some (k, a) => some (s.laneMeets gid k a)
    | none => if s.arrayPending gid i then some (s.laneWaits gid .array) else none

/-! ## Queues (R317, R318) -/

/-- Have all groups of a troupe that a mask names retired? -/
def State.allRetired (s : State) (tid mask : Nat) : Bool :=
  (List.range 16).all (fun k => !bitOf mask k || !s.live (16 * tid + k))

/-- Pushes to a queue that have issued and not come to it yet. -/
def State.pushesDue (s : State) (tid q : Nat) : Nat :=
  ((s.groupsOf tid).map (fun k =>
    ((s.group k).accs.filter (fun a => !a.past && a.space == .queue q)).length)).foldl (· + ·) 0

/-- The cause of the queue-misuse trap for the queues that a word names (R317, R329): an unused queue, a group that has
not the role, an empty queue without producers, a full one without consumers. -/
def State.queueMisuse (s : State) (gid : Nat) (i : Instr) (pushes : Bool) : Option Nat :=
  let h := s.headerOf gid
  let tid := (s.group gid).tid
  let t := s.troupe tid
  let me := gid % 16
  let size (q : Nat) : Nat := (tabGet [] t.queues q).length
  let unused (q : Nat) : Bool := tabGet 0 h.qprod q == 0 && tabGet 0 h.qcons q == 0
  let pop (q : Nat) : Option Nat :=
    if unused q then some 2
    else if !bitOf (tabGet 0 h.qcons q) me then some 0
    else if size q = 0 ∧ s.pushesDue tid q = 0 ∧ s.allRetired tid (tabGet 0 h.qprod q) = true then some 3
    else none
  let push (q : Nat) : Option Nat :=
    let after := size q + s.pushesDue tid q - (if (queueSources i).contains q then 1 else 0)
    if unused q then some 2
    else if !bitOf (tabGet 0 h.qprod q) me then some 1
    else if pushes = true ∧ 8 ≤ after ∧ s.allRetired tid (tabGet 0 h.qcons q) = true then some 4
    else none
  match (queueSources i).findSome? pop with
  | some c => some c
  | none => (queueDest i).bind push

/-- Does a word of another group, whose translation has not ended, stand to pop the oldest entry of a queue (R327)? -/
def State.popDue (s : State) (gid q : Nat) : Bool :=
  (s.groupsOf (s.group gid).tid).any (fun k => k != gid && (s.group k).accs.any (fun a => !a.past && a.pops.contains q))

/-- What a word that names a queue has to wait for: an empty one that it pops, or one that it pushes and that is full,
counting the pushes that have issued (R318); for a pop, the group's LS loads before it (R288). -/
def State.queueWait (s : State) (gid : Nat) (i : Instr) (pushes : Bool) : Option WaitOn :=
  let g := s.group gid
  let t := s.troupe g.tid
  let size (q : Nat) : Nat := (tabGet [] t.queues q).length
  match (queueSources i).find? (fun q => size q == 0 || s.popDue gid q), g.loadBefore g.nextAid with
  | some q, _ => some (.queue q false)
  | none, l =>
    match (if (queueSources i).isEmpty then none else l) with
    | some a => some (.operand gid a.aid)
    | none =>
      match queueDest i with
      | some q =>
        if pushes = true ∧ 8 ≤ size q + s.pushesDue g.tid q - (if (queueSources i).contains q then 1 else 0) then
          some (.queue q true)
        else none
      | none => none

/-- The oldest entry of each queue that a word pops (R318). -/
def State.peekQueues (s : State) (gid : Nat) (i : Instr) : Tab (Tab Word32) :=
  let t := s.troupe (s.group gid).tid
  (queueSources i).foldl (fun m q => tabPut m q ((tabGet [] t.queues q).headD [])) []

/-- Pop the queues of a word: the oldest entry of each leaves (R318). -/
def State.popQueues (s : State) (gid : Nat) (i : Instr) : State := s.popAll gid (queueSources i)

/-- Push an entry (R158, R288, R318): the push enters the group's store queue in the order of its stores, and comes to the
queue when it leaves that. Pushes keep the number of their issue as an address. -/
def State.pushQueue (s : State) (gid q : Nat) (entry : Tab Word32) (pc : Nat) : State :=
  s.bumpFree.openAccess gid
    { aid := (s.group gid).nextAid, path := .ls, op := .store, space := .queue q, size := 4, scope := .core,
      lanes := [{ lane := 64, addr := s.free, stage := .ready, entry }], dest := .none, pc, laneWord := true,
      silent := true }

/-! ## Poison (R339, R340) -/

/-- A poisoned register that a word reads in a lane, by its operand value. -/
def Group.hurtIn (g : Group) (i : Instr) (lane : Nat) : Option Nat :=
  let srcs := laneSources i
  let vec := srcs.findSome? (fun p =>
    if p.1.toNat < 384 then
      (g.poison.find? (fun m => m.file == 0 && m.lane == lane && decide (p.1.toNat ≤ m.num) &&
        decide (m.num < p.1.toNat + p.2))).map (·.num)
    else if isScalar p.1 then
      (if g.headRun.hurt.contains (p.1.toNat - 384) then some p.1.toNat else none)
    else none)
  let pr := match laneHead i with
    | some h => if h.pr = 127#7 then [] else [h.pr.toNat]
    | none => []
  match vec with
  | some v => some v
  | none =>
    (g.poison.find? (fun m => m.file == 2 && m.lane == lane && (pr ++ lanePreds g.p i).contains m.num)).map (·.num)

/-- A pipeline error that a lane word meets (R338, R340): a troupe that rolls back does so at once, and the third time it is
raised with cause 4. `once`: the word issued once for a converged pair (R215). -/
def State.lanePipeline (s : State) (gid cause : Nat) (tval : Nat) (once : Bool := false) : State :=
  if s.rollsBack gid then s.askHalt (s.group gid).tid .rollback
  else s.raiseLane gid once { cls := 10, cause := if s.takesOn gid then 4 else cause, tval := BitVec.ofNat 64 tval }

/-- Poison in a register that the word reads (R340): the word traps, which ends it; or lanes of it die, by lane and register.
`extra` names further lanes that consume a poisoned value from another lane, with the register. -/
def State.consume (s : State) (gid : Nat) (i : Instr) (h : LaneHead) (extra : List (Nat × Nat)) :
    Option State × List (Nat × Nat) :=
  let g := s.group gid
  let addr := s.laneAddr gid g.headRun
  let found (l : Nat) : Option Nat :=
    match g.hurtIn i l with
    | some r => some r
    | none => (extra.find? (fun p => p.1 == l)).map (·.2)
  let hit (ls : List Nat) : List (Nat × Nat) := ls.filterMap (fun l => (found l).map (fun r => (l, r)))
  let hits := if h.u then hit [lowestLane g.w g.runActive] else hit (lanesOf g.w (g.pset h))
  match hits with
  | [] => (none, [])
  | (_, r) :: _ =>
    if s.takesOn gid then (some (s.lanePipeline gid (if h.u then 3 else 0) addr), [])
    else if h.u then (some (s.raiseLane gid false { cls := 11, cause := 1, tval := BitVec.ofNat 64 r }), [])
    else (none, hits)

/-! ## Issue -/

/-- The address of the word at the head of the group's lane queue. -/
def State.headAddr (s : State) (gid : Nat) : Nat := s.laneAddr gid (s.group gid).headRun

/-- A trap of the word at the head, found by R103 or later: precise, without an effect (R161). `once`: the word issues
once for a converged pair (R215). -/
def State.laneTrap (s : State) (gid : Nat) (once : Bool) (cls cause : Nat) : State :=
  s.raiseLane gid once { cls, cause, tval := BitVec.ofNat 64 (s.headAddr gid) }

/-- A bank run ends at a word that is none of its own (R100, R247): the trap that `BRUN` raises. -/
def State.bankTrap (s : State) (sl cls cause : Nat) : State :=
  s.modBdc sl (fun c =>
    { c with brun := c.brun.map (fun b =>
        { b with ended := true, trap := some { cls, cause, tval := BitVec.ofNat 64 (c.laneAddr b.next), laneWord := true } }) })

/-- The longest run (R94). -/
def runMax : Nat := 24

/-- Issue of a compute lane word (R94, R103 to R105): in the group, or the half of a converged pair, that is executing.
`pre` is a check of the form's own that comes before those of the operands, with the cause of its illegal-instruction
trap; `once`, the word issues once for a converged pair. When the checks pass, `body` takes effect. -/
def laneWordPre (i : Instr) (e once : Bool) (pre : Group → Option Nat) (body : Nat → State → State) (s : State) : Out :=
  match s.cur with
  | .none => .fault .noStream
  | .bdc sl => if (s.bdc sl).lid.isSome then .next (s.bankTrap sl 1 1) else .fault .noStream
  | .group gid =>
    if !s.live gid then .fault .noStream
    else
      let g := s.group gid
      let run := g.headRun
      if !fieldOk i then .next (s.laneTrap gid once 1 0)
      else if runMax ≤ run.counted + 1 ∧ !e ∧ run.rep.isNone then .next (s.laneTrap gid once 1 5)
      else
        match pre g, operandFault g.r g.p g.w i with
        | some c, _ => .next (s.laneTrap gid once 1 c)
        | none, some c => .next (s.laneTrap gid once 2 c)
        | none, none => .next (body gid s)

/-- Issue of a lane word without a check of its own before those of the operands. -/
def laneWord (i : Instr) (e once : Bool) (body : Nat → State → State) (s : State) : Out :=
  laneWordPre i e once (fun _ => none) body s

/-- A word ready to take effect on some lanes, with those that are to die of poison in a register; or one that does not:
it has ended, waits or has trapped. -/
inductive Ready where
  | stop (s : State)
  | go (s : State) (e : LaneEnv) (lanes : Mask) (dies : List (Nat × Nat))

/-- What a lane word reads, for a group's half with popped queue entries. -/
def State.laneEnv (s : State) (gid : Nat) (popped : Tab (Tab Word32)) : LaneEnv :=
  let g := s.group gid
  { g, run := g.headRun, troupe := s.troupe g.tid, world := s.worldOf gid,
    clock := (s.now - (s.core (s.coreOf gid)).clockBase) % 2 ^ 64, popped }

/-- Does a word that names a queue as its destination push an entry (R158)? -/
def Group.pushes (g : Group) (h : LaneHead) : Bool := h.u || (g.pset h &&& ~~~g.helpm) != 0

/-- A word that has passed its checks comes to its effect (R154, R158, R159, R317, R340): unless it does not execute,
traps on a queue, waits, or stops on poison. `extra` as in `State.consume`. Its queues are read and not yet popped, and
the lanes that die still live: what the word reads is as if they had died. -/
def State.laneLook (s : State) (gid : Nat) (i : Instr) (h : LaneHead) (extra : LaneEnv → List (Nat × Nat)) : Ready :=
  let g := s.group gid
  if !g.executes h then .stop (s.laneDone gid h.e)
  else
    let pushes := g.pushes h
    match s.queueMisuse gid i pushes with
    | some c => .stop (s.raiseLaneOpen gid false 7 c)
    | none =>
      match s.laneHeld gid i with
      | some t => .stop t
      | none =>
        match s.queueWait gid i pushes with
        | some w => .stop (s.laneWaits gid w)
        | none =>
          let popped := s.peekQueues gid i
          match s.consume gid i h (extra (s.laneEnv gid popped)) with
          | (some t, _) => .stop t
          | (none, dies) =>
            let t := s.modGroup gid (fun g => dies.foldl (fun g p => g.kill p.1) g)
            .go s (t.laneEnv gid popped) ((t.group gid).laneSet h) dies

/-- The same, with its queues popped (R158) and its lanes dead (R340). -/
def State.laneReady (s : State) (gid : Nat) (i : Instr) (h : LaneHead) (extra : LaneEnv → List (Nat × Nat)) : Ready :=
  match s.laneLook gid i h extra with
  | .stop t => .stop t
  | .go t e lanes dies => .go ((t.killLanes gid (t.headAddr gid) dies).popQueues gid i) e lanes []

/-- No lane reads another lane's registers. -/
def noExtra (_ : LaneEnv) : List (Nat × Nat) := []

/-! ## Results -/

/-- The lane that a word's sources are read from, for a destination lane (R155, R156). R156 names the lane of a uniform
word for vector sources; the lane number that its special sources read, when it has one at all, is the same lane's, and
lane 0's when no lane is active (DESIGN CHOICE, entry 57). -/
def srcLane (ww : Nat) (h : LaneHead) (lanes : Mask) (l : Nat) : Nat := if h.u then lowestLane ww lanes else l

/-- The flags of a word, and DITHER's advance (R48, R49). -/
def Group.laneFlags (g : Group) (run : Run) (fl : Word32) (rounds : Bool) : Group :=
  let g := g.orFlags fl
  if rounds && fmtSrsel run.fmt != 2 then { g with dither := g.dither + 1 } else g

/-- The lanes whose flags a word sets: each lane it acts on, or the one from which a uniform word reads (R156). -/
def flagLanes (ww : Nat) (h : LaneHead) (lanes : Mask) : List Nat :=
  if h.u then [lowestLane ww lanes] else lanesOf ww lanes

/-- Write the results of a word (R155, R156, R158): `f` gives the value for a source lane and the old value of the
destination, with the flags. LANEID in the RB of R68 (RM = 5, SRSEL = 0) is the source lane's number, for a uniform word the
lowest active lane's (DESIGN CHOICE, entry 57). -/
def State.laneWrite (s : State) (gid : Nat) (i : Instr) (h : LaneHead) (e : LaneEnv) (lanes : Mask)
    (f : Nat → Word32 → Word32 × Word32) : State :=
  let ww := e.g.w
  let fl := (flagLanes ww h lanes).foldl (fun acc l => acc ||| (f l (e.g.vr h.vd.toNat l)).2) 0
  let s :=
    match queueDest i with
    | some q =>
      let put := if h.u then lanes else lanes &&& ~~~e.g.helpm
      let old := Config.freeWord s.free
      let entry : Tab Word32 := (lanesOf ww put).foldl (fun t l => tabSet 0 t l (f (srcLane ww h lanes l) old).1) []
      if h.u || put != 0 then s.bumpFree.pushQueue gid q entry (s.headAddr gid) else s
    | none =>
      s.modGroup gid (fun g =>
        (lanesOf ww lanes).foldl (fun g l =>
          g.setV h.vd.toNat l (f (srcLane ww h lanes l) (e.g.vr h.vd.toNat l)).1) g)
  s.modGroup gid (fun g => g.laneFlags e.run fl (roundsRm5 e.run.fmt i))

/-- A form that writes one 32-bit value a lane: `f` gives it for a source lane and the destination's old value. -/
def laneValue (i : Instr) (h : LaneHead) (f : LaneEnv → Nat → Word32 → Word32 × Word32) (s : State) : Out :=
  laneWord i h.e false (fun gid s =>
    match s.laneReady gid i h noExtra with
    | .stop t => t
    | .go t e lanes _ => (t.laneWrite gid i h e lanes (f e)).laneDone gid h.e) s

/-- The mask of the lanes of a set whose source lane satisfies a test. -/
def laneBits (ww : Nat) (h : LaneHead) (lanes : Mask) (f : Nat → Bool) : Mask :=
  maskWhere ww (fun l => lanes.getLsbD l && f (srcLane ww h lanes l))

/-- A form that writes predicates: each of a list, by a test of the source lane with its flags. -/
def lanePred (i : Instr) (h : LaneHead) (outs : LaneEnv → List (Nat × (Nat → Bool × Word32))) (s : State) : Out :=
  laneWord i h.e false (fun gid s =>
    match s.laneReady gid i h noExtra with
    | .stop t => t
    | .go t e lanes _ =>
      let ww := e.g.w
      let fl := (flagLanes ww h lanes).foldl (fun acc l => (outs e).foldl (fun acc o => acc ||| (o.2 l).2) acc) 0
      let t := t.modGroup gid (fun g =>
        ((outs e).foldl (fun g o => g.setP o.1 lanes (laneBits ww h lanes (fun l => (o.2 l).1))) g).orFlags fl)
      t.laneDone gid h.e) s

/-- A form that writes several registers a lane, in full. -/
def laneWords (i : Instr) (h : LaneHead) (f : LaneEnv → Nat → List Word32) (s : State) : Out :=
  laneWord i h.e false (fun gid s =>
    match s.laneReady gid i h noExtra with
    | .stop t => t
    | .go t e lanes _ =>
      (t.modGroup gid (fun g =>
        (lanesOf e.g.w lanes).foldl (fun g l => g.setVs h.vd.toNat l (f e (srcLane e.g.w h lanes l))) g)).laneDone
        gid h.e) s

end Sys2Proof.Machine
end

