-- ==== Sys2Proof/Machine/Scalar.lean ====
section
/-! DEFINITION. The arithmetic of the scalar stream (spec/06_isa_scalar.md R123 to R127) and its loads and stores
(R128 to R131; on a base-die core spec/09_isa_bank.md R239). -/

namespace Sys2Proof.Machine

/-! ## Shapes -/

/-- A scalar instruction that writes `sd` and goes on. -/
def scalarResult (i : Instr) (d : SReg) (f : Agent → State → Word64) (s : State) : Out :=
  scalarWord .both i (fun a s => (s.setSreg a d.toNat (f a s)).advance a) s

/-- An ALU form of two registers (R123). -/
def aluRR (i : Instr) (d a b : SReg) (f : Word64 → Word64 → Word64) (s : State) : Out :=
  scalarResult i d (fun g s => f (s.sreg g a.toNat) (s.sreg g b.toNat)) s

/-- An ALU form of a register and an immediate (R125). -/
def aluRI (i : Instr) (d a : SReg) (f : Word64 → Word64) (s : State) : Out :=
  scalarResult i d (fun g s => f (s.sreg g a.toNat)) s

/-! ## R123, R124 -/

/-- Bits [127:64] of the product of two integers. -/
def highHalf (x y : Int) : Word64 := BitVec.ofInt 64 (x * y / 2 ^ 64)

/-- DIV with the edge cases of R124. -/
def divSigned (a b : Word64) : Word64 := if b = 0 then -1 else a.sdiv b
/-- DIVN with the edge case of R124. -/
def divUnsigned (a b : Word64) : Word64 := if b = 0 then -1 else a / b
/-- REM with the edge cases of R124. -/
def remSigned (a b : Word64) : Word64 := if b = 0 then a else a.srem b
/-- REMN with the edge case of R124. -/
def remUnsigned (a b : Word64) : Word64 := if b = 0 then a else a % b
/-- The shift amount of SHL, SHR and SAR: b[5:0] (R124). -/
def shAmount (b : Word64) : Nat := b.toNat % 64
/-- 1 or 0. -/
def bool64 (c : Bool) : Word64 := if c then 1 else 0

/-- ADD (R123). -/
def execAdd (d a b : SReg) (s : State) : Out := aluRR (.add d a b) d a b (fun x y => x + y) s
/-- SUB (R123). -/
def execSub (d a b : SReg) (s : State) : Out := aluRR (.sub d a b) d a b (fun x y => x - y) s
/-- MUL (R123). -/
def execMul (d a b : SReg) (s : State) : Out := aluRR (.mul d a b) d a b (fun x y => x * y) s
/-- MULH (R123). -/
def execMulh (d a b : SReg) (s : State) : Out :=
  aluRR (.mulh d a b) d a b (fun x y => highHalf x.toInt y.toInt) s
/-- MULHN (R123). -/
def execMulhn (d a b : SReg) (s : State) : Out :=
  aluRR (.mulhn d a b) d a b (fun x y => highHalf x.toNat y.toNat) s
/-- DIV (R123, R124). -/
def execDiv (d a b : SReg) (s : State) : Out := aluRR (.div d a b) d a b divSigned s
/-- DIVN (R123, R124). -/
def execDivn (d a b : SReg) (s : State) : Out := aluRR (.divn d a b) d a b divUnsigned s
/-- REM (R123, R124). -/
def execRem (d a b : SReg) (s : State) : Out := aluRR (.rem d a b) d a b remSigned s
/-- REMN (R123, R124). -/
def execRemn (d a b : SReg) (s : State) : Out := aluRR (.remn d a b) d a b remUnsigned s
/-- AND (R123). -/
def execAnd (d a b : SReg) (s : State) : Out := aluRR (.and d a b) d a b (fun x y => x &&& y) s
/-- OR (R123). -/
def execOr (d a b : SReg) (s : State) : Out := aluRR (.or d a b) d a b (fun x y => x ||| y) s
/-- XOR (R123). -/
def execXor (d a b : SReg) (s : State) : Out := aluRR (.xor d a b) d a b (fun x y => x ^^^ y) s
/-- ANDN (R123). -/
def execAndn (d a b : SReg) (s : State) : Out := aluRR (.andn d a b) d a b (fun x y => x &&& ~~~y) s
/-- SHL (R123, R124). -/
def execShl (d a b : SReg) (s : State) : Out := aluRR (.shl d a b) d a b (fun x y => x <<< shAmount y) s
/-- SHR (R123, R124). -/
def execShr (d a b : SReg) (s : State) : Out := aluRR (.shr d a b) d a b (fun x y => x >>> shAmount y) s
/-- SAR (R123, R124). -/
def execSar (d a b : SReg) (s : State) : Out := aluRR (.sar d a b) d a b (fun x y => x.sshiftRight (shAmount y)) s
/-- MIN (R123). -/
def execMin (d a b : SReg) (s : State) : Out := aluRR (.min d a b) d a b (fun x y => if x.slt y then x else y) s
/-- MAX (R123). -/
def execMax (d a b : SReg) (s : State) : Out := aluRR (.max d a b) d a b (fun x y => if x.slt y then y else x) s
/-- MINN (R123). -/
def execMinn (d a b : SReg) (s : State) : Out := aluRR (.minn d a b) d a b (fun x y => if x.ult y then x else y) s
/-- MAXN (R123). -/
def execMaxn (d a b : SReg) (s : State) : Out := aluRR (.maxn d a b) d a b (fun x y => if x.ult y then y else x) s
/-- SLT (R123). -/
def execSlt (d a b : SReg) (s : State) : Out := aluRR (.slt d a b) d a b (fun x y => bool64 (x.slt y)) s
/-- SLTN (R123). -/
def execSltn (d a b : SReg) (s : State) : Out := aluRR (.sltn d a b) d a b (fun x y => bool64 (x.ult y)) s
/-- SEQ (R123). -/
def execSeq (d a b : SReg) (s : State) : Out := aluRR (.seq d a b) d a b (fun x y => bool64 (x == y)) s

/-! ## R125 to R127 -/

/-- ADDI (R125). -/
def execAddi (d a : SReg) (imm : BitVec 13) (s : State) : Out := aluRI (.addi d a imm) d a (fun x => x + sx64 imm) s
/-- ANDI (R125). -/
def execAndi (d a : SReg) (imm : BitVec 13) (s : State) : Out := aluRI (.andi d a imm) d a (fun x => x &&& sx64 imm) s
/-- ORI (R125). -/
def execOri (d a : SReg) (imm : BitVec 13) (s : State) : Out := aluRI (.ori d a imm) d a (fun x => x ||| sx64 imm) s
/-- XORI (R125). -/
def execXori (d a : SReg) (imm : BitVec 13) (s : State) : Out := aluRI (.xori d a imm) d a (fun x => x ^^^ sx64 imm) s
/-- SHLI (R125). -/
def execShli (d a : SReg) (sh : BitVec 6) (s : State) : Out := aluRI (.shli d a sh) d a (fun x => x <<< sh.toNat) s
/-- SHRI (R125). -/
def execShri (d a : SReg) (sh : BitVec 6) (s : State) : Out := aluRI (.shri d a sh) d a (fun x => x >>> sh.toNat) s
/-- SARI (R125). -/
def execSari (d a : SReg) (sh : BitVec 6) (s : State) : Out :=
  aluRI (.sari d a sh) d a (fun x => x.sshiftRight sh.toNat) s
/-- SLTI (R125). -/
def execSlti (d a : SReg) (imm : BitVec 13) (s : State) : Out :=
  aluRI (.slti d a imm) d a (fun x => bool64 (x.slt (sx64 imm))) s
/-- LUI (R126). -/
def execLui (d : SReg) (imm : BitVec 19) (s : State) : Out :=
  scalarResult (.lui d imm) d (fun _ _ => sx64 imm <<< 13) s
/-- LPC (R126). -/
def execLpc (d : SReg) (imm : BitVec 19) (s : State) : Out :=
  scalarResult (.lpc d imm) d (fun a s => BitVec.ofNat 64 (pcPlus (s.pcOf a) imm)) s
/-- LEA (R127). -/
def execLea (d a b : SReg) (sh : BitVec 3) (s : State) : Out :=
  aluRR (.lea d a b sh) d a b (fun x y => x + y <<< sh.toNat) s

/-! ## Loads and stores (R128 to R131) -/

/-- The address that base and displacement form: S[SA] + 8 * sx13 (R128, R129). -/
def scalarAddr (s : State) (g : Agent) (a : SReg) (disp : BitVec 13) : Word64 :=
  s.sreg g a.toNat + sx64 disp <<< 3

/-- Bytes of the local store of a base-die core (R238). -/
def localBytes : Nat := 65536

/-- Bytes of the local store from an offset on. -/
def Bdc.storeGet (c : Bdc) (o n : Nat) : List Byte := (List.range n).map (fun i => tabGet 0 c.store (o + i))

/-- Write bytes of the local store. -/
def Bdc.storePut (c : Bdc) (o : Nat) (bytes : List Byte) : Bdc :=
  { c with store := (indexed bytes).foldl (fun t p => tabSet 0 t (o + p.1) p.2) c.store }

/-- Issue the access of a scalar load of a group on the CONST path (R130, R131). -/
def State.scalarLoad (s : State) (gid : Nat) (space : Space) (d : SReg) (addr : Nat) : State :=
  s.withRoom gid .const (fun s =>
    s.issueAccess gid
      { aid := (s.group gid).nextAid, path := .const, op := .load false, space, size := 8, scope := .dev,
        lanes := [{ lane := 64, addr }], dest := .sreg d.toNat, pc := (s.group gid).pc, laneWord := false })

/-- Issue the store of `SST` on the LS path, at DEVICE scope (R130, R131, R277). -/
def State.scalarStore (s : State) (gid : Nat) (v : Word64) (addr : Nat) : State :=
  s.withRoom gid .ls (fun s =>
    s.issueAccess gid
      { aid := (s.group gid).nextAid, path := .ls, op := .store, space := .mem, size := 8, scope := .dev,
        lanes := [{ lane := 64, addr, data := natBytes 8 v.toNat }], dest := .none, pc := (s.group gid).pc,
        laneWord := false })

/-- SLD (R128, R130, R131, R239). -/
def execSld (d a : SReg) (disp : BitVec 13) (s : State) : Out :=
  scalarWord .both (.sld d a disp) (fun g s =>
    let addr := scalarAddr s g a disp
    if addr.toNat % 8 ≠ 0 then s.trap g 3 0 addr
    else
      match g with
      | .group gid => s.scalarLoad gid .konst d addr.toNat
      | .bdc sl =>
        if localBytes < addr.toNat + 8 then s.trap g 4 4 addr
        else
          (s.setSreg g d.toNat (BitVec.ofNat 64 (bytesNat ((s.bdc sl).storeGet addr.toNat 8)))).advance g
      | .none => s) s

/-- SST (R129 to R131, R239). -/
def execSst (a b : SReg) (disp : BitVec 13) (s : State) : Out :=
  scalarWord .both (.sst a b disp) (fun g s =>
    let addr := scalarAddr s g a disp
    let v := s.sreg g b.toNat
    if addr.toNat % 8 ≠ 0 then s.trap g 3 0 addr
    else
      match g with
      | .group gid => s.scalarStore gid v addr.toNat
      | .bdc sl =>
        if localBytes < addr.toNat + 8 then s.trap g 4 4 addr
        else (s.modBdc sl (fun c => c.storePut addr.toNat (natBytes 8 v.toNat))).advance g
      | .none => s) s

/-- The `.const` section of a stream's kernel: its load address and its size (R111, R240). -/
def State.constOf (s : State) (g : Agent) : Nat × Nat :=
  match g with
  | .group gid => ((s.launchOf gid).constBase, (s.headerOf gid).constSize)
  | .bdc sl => ((s.bdc sl).constBase, (s.bdc sl).constSize)
  | .none => (0, 0)

/-- SLDK (R128, R130, R131, R239). -/
def execSldk (d a : SReg) (disp : BitVec 13) (s : State) : Out :=
  scalarWord .both (.sldk d a disp) (fun g s =>
    let o := scalarAddr s g a disp
    let c := s.constOf g
    let addr := BitVec.ofNat 64 c.1 + o
    if addr.toNat % 8 ≠ 0 then s.trap g 3 0 addr
    else if o.toInt < 0 ∨ (c.2 : Int) < o.toInt + 8 then s.trap g 4 4 addr
    else
      match g with
      | .group gid => s.scalarLoad gid .konst d addr.toNat
      | .bdc sl =>
        let bytes := (List.range 8).map (fun i => tabGet 0 (s.bdc sl).konst (o.toNat + i))
        (s.setSreg g d.toNat (BitVec.ofNat 64 (bytesNat bytes))).advance g
      | .none => s) s

end Sys2Proof.Machine
end

