-- ==== Sys2Proof/Machine/Bank.lean ====
section
/-! DEFINITION. Base-die cores (spec/09_isa_bank.md R242 to R259): the mailbox forms, `BRUN`, and the forms of a bank
run with their rows, registers and stop causes. The BSUs of a run issue each word together, in the order of their banks
(entry 21). -/

namespace Sys2Proof.Machine

/-! ## The mailbox (R254 to R256) -/

/-- The meta word that `MBXGET` writes: VALID is set (R254). -/
def Msg.taken (m : Msg) : Word64 := m.info ||| BitVec.ofNat 64 (2 ^ 63)

/-- Write the three registers of an `MBXGET` (R255). -/
def State.setThree (s : State) (a : Agent) (d : SReg) (x y z : Word64) : State :=
  ((s.setSreg a d.toNat x).setSreg a (d.toNat + 1) y).setSreg a (d.toNat + 2) z

/-- MBXGET (R255, R329). The cause of the illegal-operand trap for a register that SD may not name is left open: 3, as for
the other operands that a form shuts out (DESIGN CHOICE, entry 57). -/
def execMbxget (d : SReg) (nb : Bool) (s : State) : Out :=
  let i := Instr.mbxget d nb
  scalarWord .baseOnly i (fun a s =>
    match a with
    | .bdc sl =>
      if d = 0#6 ∨ d = 62#6 ∨ d = 63#6 then s.trap a 2 3 (scalarTval i)
      else
        match (s.bdc sl).mbx with
        | [] => if nb then (s.setThree a d 0 0 0).advance a else s.waits a .mailbox
        | m :: rest =>
          if m.isDone ∧ mailboxMax ≤ (s.bdc sl).opened.length then s.trapOpen a 7 5
          else
            let s := s.modBdc sl (fun c =>
              { c with mbx := rest, opened := if m.isDone then c.opened ++ [m] else c.opened })
            (s.setThree a d m.w0 m.w1 m.taken).advance a
    | _ => s) s

/-- MBXPUT (R256): of open messages with equal meta bits, the one opened first (DESIGN CHOICE, entry 58). -/
def execMbxput (r : SReg) (s : State) : Out :=
  let i := Instr.mbxput r
  scalarWord .baseOnly i (fun a s =>
    match a with
    | .bdc sl =>
      let v := (s.sreg a r.toNat).toNat % 2 ^ 49
      match (s.bdc sl).opened.find? (fun m => m.info.toNat % 2 ^ 49 == v) with
      | none => s.trap a 2 7 (scalarTval i)
      | some m => ((s.modBdc sl (fun c => { c with opened := c.opened.erase m })).completeMsg m).advance a
    | _ => s) s

/-! ## BRUN (R245, R246) -/

/-- BRUN (R245, R246): the run begins, and the core waits until `BRUN_COMPLETE`. -/
def execBrun (d ra rb : SReg) (s : State) : Out :=
  scalarWord .baseOnly (.brun d ra rb) (fun a s =>
    match a with
    | .bdc sl =>
      let va := s.sreg a ra.toNat
      let vb := s.sreg a rb.toNat
      let n := vb.toNat
      if bitsOf va.toNat 63 21 ≠ 0 then s.trap a 2 6 va
      else if bitsOf n 47 33 ≠ 0 ∨ bitsOf n 63 58 ≠ 0 then s.trap a 2 6 vb
      else if bitsOf n 15 0 = 0 then (s.setSreg a d.toNat 0).advance a
      else
        (s.modBdc sl (fun c =>
          { c with
            brun := some
              { dest := d.toNat, mask := bitsOf n 15 0, rbase := bitsOf n 32 16, lbase := bitsOf n 57 48,
                fmt := c.fmt, next := va.toNat } })).waits a .brun
    | _ => s) s

/-! ## Rows (R242 to R244, R249, R253) -/

/-- BSU `j` of a slice (R243). -/
def State.bsu (s : State) (sl j : Nat) : Bsu := tabGet {} (s.slice sl).bsus j

/-- Change BSU `j` of a slice. -/
def State.modBsu (s : State) (sl j : Nat) (f : Bsu → Bsu) : State :=
  s.modSlice sl (fun v => { v with bsus := tabSet {} v.bsus j (f (tabGet {} v.bsus j)) })

/-- The physical address of row `r` of bank `j` (R242). -/
def rowPa (sl j r : Nat) : Nat := sl * sliceBytes + 16384 * r + 1024 * j

/-- Rows of a bank (R242). -/
def bankRows : Nat := 98304

/-- A table of the bytes of a row. -/
def rowTab (l : List Byte) : Tab Byte := (indexed l).foldl (fun t p => tabSet 0 t p.1 p.2) []

/-- The bytes of the row buffer. -/
def Bsu.rowBytes (u : Bsu) : List Byte := (List.range 1024).map (fun i => tabGet 0 u.rowbuf i)

/-- The row buffer is released. -/
def Bsu.release (u : Bsu) : Bsu := { u with openRow := none, dirty := false, rowbuf := [] }

/-- A dirty row is written with its counter raised, in the tree too, and a new tag, and the sectors of the row leave the
L2 (R244, R249, R394, R397). -/
def State.writeRow (s : State) (sl pa : Nat) (l : List Byte) : State :=
  let gen := ((s.ownerKey sl).map (·.gen)).getD 0
  let s := ((s.setMemBytes pa l).markHome pa l.length false).raiseTree pa
  let s := s.modRow pa (fun r =>
    { counter := r.counter + 1
      sealKey := if gen = (s.slice sl).sealGen then none else some gen })
  { s with
    l2 := (rowSectors pa).foldl tabDel s.l2
    turn := (rowSectors pa).foldl tabDel s.turn }

/-- BSU `j` closes its open row (R249, R253): the state, and the stop cause that a dirty row meets, 0 for none. Of a slice
whose owner has no bound slot the BSU refuses the row: it is not written, and the refusal is recorded (R23); no stop cause
is given for that (DEDUCED, entry 57). READONLY comes before CTRMAX (DESIGN CHOICE, entry 58). -/
def State.closeRow (s : State) (sl j : Nat) : State × Nat :=
  let u := s.bsu sl j
  match u.openRow with
  | none => (s, 0)
  | some r =>
    let pa := rowPa sl j r
    let t := s.modBsu sl j Bsu.release
    if !u.dirty then (t, 0)
    else if (s.slice sl).readOnly then (t, 6)
    else if (s.ownerKey sl).isNone then (t.refuseAt ((s.slice sl).owner.getD 0) pa, 0)
    else if s.rowCounter pa = 2 ^ 56 - 1 then
      let w := (s.slice sl).owner.getD 0
      (t.contain sl w { cause := 4, bank := j, row := r, keyid := s.keyOf w }, 7)
    else (t.writeRow sl pa u.rowBytes, 0)

/-- `BACT` in one BSU (R249, R253): the state, and its stop cause. The dirty sectors of the row that it has the L2 write
back reach the row also where it is the read-only source of a migration, whose other writes wait (R413): the rules do not
say which of the two goes first (DESIGN CHOICE, entry 57). A row that fails its tag check and is uncorrectable stops with TAG
(DESIGN CHOICE, entry 58). -/
def State.openRow (s : State) (sl j r : Nat) : State × Nat :=
  match s.closeRow sl j with
  | (s, 0) =>
    if bankRows ≤ r then (s, 1)
    else
      let pa := rowPa sl j r
      let s := (rowSectors pa).foldl (fun s k => (s.flushTurn k).cleanL2 k) s
      let w := (s.slice sl).owner.getD 0
      if (s.ownerKey sl).isNone then (s.refuseAt w pa, 0)
      else if !s.rowOk pa then (s.tagFailure pa, 2)
      else if (s.rowMeta pa).uncorr ∨ s.homePoison.any (fun a => inRange pa 1024 a) = true then
        ((s.holdWalk pa).contain sl w { cause := 3, bank := j, row := r, keyid := s.keyOf w }, 3)
      else
        ((s.holdWalk pa).modBsu sl j (fun u =>
          { u with openRow := some r, dirty := false, rowbuf := rowTab (s.memBytes pa 1024) }), 0)
  | (s, c) => (s, c)

/-! ## Registers of a BSU (R243) -/

/-- The bytes of register `r`. -/
def Bsu.reg (u : Bsu) (r : Nat) : List Byte := (List.range 1024).map (fun i => tabGet 0 u.regs (1024 * r + i))

/-- Write the first bytes of register `r`; the rest is kept. -/
def Bsu.setReg (u : Bsu) (r : Nat) (l : List Byte) : Bsu :=
  { u with regs := (indexed l).foldl (fun t p => tabSet 0 t (1024 * r + p.1) p.2) u.regs }

/-- The elements of a view: `n` bytes each. -/
def viewOf (n : Nat) (l : List Byte) : List Nat := (List.range (l.length / n)).map (fun i => fieldAt l (n * i) n)

/-- The bytes of elements of a view. -/
def unview (n : Nat) (l : List Nat) : List Byte := l.flatMap (natBytes n)

/-- The rounding mode of a bank form (R248): RM 6 reads the copied DRM, and stochastic rounding is RNE. -/
def bankRm (fmt : Word32) (rm : BitVec 3) : Nat := if effRm fmt rm = 5 then 0 else effRm fmt rm

/-- An element computed from values that are read from encodings (R250): the exact `f` of them, rounded once. -/
def bankElem (fmt : Word32) (rm : Nat) (ty : Fmt) (xs : List (XVal × Word32)) (f : List XVal → XVal) : Nat × Word32 :=
  let x := f (xs.map (·.1))
  let r := xRound ty { rm, fmt } x
  (r.1, madeFlags xs x ||| r.2)

/-- The encodings and the flags of all elements. -/
def gatherElems (l : List (Nat × Word32)) : List Nat × Word32 :=
  (l.map (·.1), l.foldl (fun f p => f ||| p.2) 0)

/-- An arithmetic form of two registers of a BSU, element by element (R250). -/
def bankPair (fmt : Word32) (f : Fmt) (n rm : Nat) (a b : List Byte) (op : XVal → XVal → XVal) : List Byte × Word32 :=
  let r := gatherElems (((viewOf n a).zip (viewOf n b)).map (fun p =>
    bankElem fmt rm f [readVal fmt f p.1, readVal fmt f p.2] (fun xs => op (xAt xs 0) (xAt xs 1))))
  (unview n r.1, r.2)

/-- Half H of the BF16 view (R243). -/
def halfView (hi : Bool) (l : List Byte) : List Nat := ((viewOf 2 l).drop (if hi then 256 else 0)).take 256

/-- BFMA on register contents (R250). -/
def bankFma (fmt : Word32) (rm : Nat) (hi : Bool) (d a b : List Byte) : List Byte × Word32 :=
  let r := gatherElems (((viewOf 4 d).zip ((halfView hi a).zip (halfView hi b))).map (fun p =>
    bankElem fmt rm .f32 [readVal fmt .f32 p.1, readVal fmt .bf16 p.2.1, readVal fmt .bf16 p.2.2]
      (fun xs => xAdd (rm == 2) (xMul (xAt xs 1) (xAt xs 2)) (xAt xs 0))))
  (unview 4 r.1, r.2)

/-- BMAC on register contents (R77, R250). -/
def bankMac (fmt : Word32) (sl : Nat) (d a b : List Byte) : List Byte × Word32 :=
  let n := 2 ^ sl
  let va := viewOf 2 a
  let vb := viewOf 2 b
  let r := gatherElems ((List.range (512 / n)).map (fun i =>
    accumulate fmt (fieldAt d (4 * i) 4)
      (blockDot fmt .bf16 .bf16 ((va.drop (i * n)).take n) ((vb.drop (i * n)).take n) (some (xInt 1)) (some (xInt 1)))))
  (unview 4 r.1, r.2)

/-- BRED on register contents (R250). -/
def bankRed (fmt : Word32) (sl : Nat) (a : List Byte) : List Byte × Word32 :=
  let n := 2 ^ sl
  let va := viewOf 4 a
  let r := gatherElems ((List.range (256 / n)).map (fun i =>
    match (va.drop (i * n)).take n with
    | [] => (0, 0)
    | x :: l => combineLeft (fadd32 fmt) x l 0))
  (unview 4 r.1, r.2)

/-! ## The words of a run (R246 to R248) -/

/-- The BSUs of a run that have not stopped, by bank. -/
def BankRun.going (b : BankRun) : List Nat := (List.range 16).filter (fun j => bitOf b.mask j && !bitOf b.stopped j)

/-- Change the run in progress of a slice. -/
def State.modRun (s : State) (sl : Nat) (f : BankRun → BankRun) : State :=
  s.modBdc sl (fun c => { c with brun := c.brun.map f })

/-- BSU `j` stops with a cause. -/
def BankRun.stop (b : BankRun) (j cause : Nat) : BankRun :=
  { b with stopped := b.stopped ||| 2 ^ j, causes := tabPut b.causes j cause }

/-- BSU `j` stops with a cause (R246, R253): it closes its open row, and issues no further word; the run ends with its last
BSU. Where that close meets a cause of its own, the BSU keeps the first (DESIGN CHOICE, entry 57). -/
def State.stopBsu (s : State) (sl j cause : Nat) : State :=
  (s.closeRow sl j).1.modRun sl (fun b =>
    let b := b.stop j cause
    { b with ended := b.ended || b.going.isEmpty })

/-- The BSUs of a run that have not stopped close their rows at its end (R246): one that cannot is in STOP. -/
def State.closeRun (s : State) (sl : Nat) : State :=
  match (s.bdc sl).brun with
  | none => s
  | some b =>
    b.going.foldl (fun s j =>
      match s.closeRow sl j with
      | (s, 0) => s
      | (s, c) => s.modRun sl (fun b => b.stop j c)) s

/-- The word has issued in every BSU (R246): the run goes on to the next, or ends with E or with its last BSU. -/
def State.bankDone (s : State) (sl : Nat) (e : Bool) : State :=
  s.modRun sl (fun b =>
    if e || b.going.isEmpty then { b with ended := true }
    else { b with next := b.next + 1, counted := b.counted + 1 })

/-- Issue of a bank word (R100, R247, R248): on a compute core it is not legal; on a base-die core its checks, and then
`body` on the run in progress. -/
def bankWord (i : Instr) (h : LaneHead) (body : Nat → BankRun → State → State) (s : State) : Out :=
  match s.cur with
  | .none => .fault .noStream
  | .group gid => if s.live gid then .next (s.laneTrap gid false 1 1) else .fault .noStream
  | .bdc sl =>
    match (s.bdc sl).brun with
    | none => .fault .noStream
    | some b =>
      if !fieldOk i then .next (s.bankTrap sl 1 0)
      else if runMax ≤ b.counted + 1 ∧ h.e = false then .next (s.bankTrap sl 1 5)
      else
        match operandFault 384 96 64 i with
        | some c => .next (s.bankTrap sl 2 c)
        | none => .next ((body sl b s).bankDone sl h.e)

/-- A bank word that acts in each BSU by itself, and may stop it: `f` gives the state and the stop cause. -/
def bankEach (i : Instr) (h : LaneHead) (f : State → Nat → Nat → BankRun → State × Nat) (s : State) : Out :=
  bankWord i h (fun sl b s =>
    b.going.foldl (fun s j =>
      match f s sl j b with
      | (s, 0) => s
      | (s, c) => s.stopBsu sl j c) s) s

/-- A bank word that computes a register of each BSU from its registers, with flags (R250). -/
def bankCompute (i : Instr) (h : LaneHead) (f : BankRun → Bsu → List Byte × Word32) (s : State) : Out :=
  bankWord i h (fun sl b s =>
    b.going.foldl (fun s j =>
      let r := f b (s.bsu sl j)
      (s.modBsu sl j (fun u => u.setReg h.vd.toNat r.1)).modRun sl (fun b => { b with flags := b.flags ||| r.2.toNat }))
      s) s

/-- BACT (R244, R249). -/
def execBact (h : LaneHead) (roff : BitVec 15) (s : State) : Out :=
  bankEach (.bact h roff) h (fun s sl j b => s.openRow sl j (b.rbase + roff.toNat)) s

/-- BPRE (R249). -/
def execBpre (h : LaneHead) (s : State) : Out := bankEach (.bpre h) h (fun s sl j _ => s.closeRow sl j) s

/-- BRD (R249). -/
def execBrd (h : LaneHead) (s : State) : Out :=
  bankEach (.brd h) h (fun s sl j _ =>
    if (s.bsu sl j).openRow.isNone then (s, 4)
    else (s.modBsu sl j (fun u => u.setReg h.vd.toNat u.rowBytes), 0)) s

/-- BWR (R249). -/
def execBwr (h : LaneHead) (s : State) : Out :=
  bankEach (.bwr h) h (fun s sl j _ =>
    if (s.bsu sl j).openRow.isNone then (s, 4)
    else (s.modBsu sl j (fun u => { u with rowbuf := rowTab (u.reg h.va.toNat), dirty := true }), 0)) s

/-- BFMA (R250). -/
def execBfma (h : LaneHead) (hi : Bool) (rm : BitVec 3) (s : State) : Out :=
  bankCompute (.bfma h hi rm) h (fun b u =>
    bankFma b.fmt (bankRm b.fmt rm) hi (u.reg h.vd.toNat) (u.reg h.va.toNat) (u.reg h.vb.toNat)) s

/-- BMAC (R250). -/
def execBmac (h : LaneHead) (sl : BitVec 4) (s : State) : Out :=
  bankCompute (.bmac h sl) h (fun b u =>
    bankMac b.fmt sl.toNat (u.reg h.vd.toNat) (u.reg h.va.toNat) (u.reg h.vb.toNat)) s

/-- BADD (R250). -/
def execBadd (h : LaneHead) (bf : Bool) (rm : BitVec 3) (s : State) : Out :=
  bankCompute (.badd h bf rm) h (fun b u =>
    let m := bankRm b.fmt rm
    bankPair b.fmt (if bf then .bf16 else .f32) (if bf then 2 else 4) m (u.reg h.va.toNat) (u.reg h.vb.toNat)
      (xAdd (m == 2))) s

/-- BMUL (R250). -/
def execBmul (h : LaneHead) (bf : Bool) (rm : BitVec 3) (s : State) : Out :=
  bankCompute (.bmul h bf rm) h (fun b u =>
    bankPair b.fmt (if bf then .bf16 else .f32) (if bf then 2 else 4) (bankRm b.fmt rm) (u.reg h.va.toNat)
      (u.reg h.vb.toNat) xMul) s

/-- BCVT (R250). -/
def execBcvt (h : LaneHead) (hi tof : Bool) (rm : BitVec 3) (s : State) : Out :=
  bankCompute (.bcvt h hi tof rm) h (fun b u =>
    let a := u.reg h.va.toNat
    let one (src dst : Fmt) (m : Nat) (c : Nat) : Nat × Word32 :=
      bankElem b.fmt m dst [readVal b.fmt src c] (fun xs => xAt xs 0)
    if tof then
      let r := gatherElems ((halfView hi a).map (one .bf16 .f32 0))
      (unview 4 r.1, r.2)
    else
      let r := gatherElems ((viewOf 4 a).map (one .f32 .bf16 (bankRm b.fmt rm)))
      let d := u.reg h.vd.toNat
      let new := unview 2 r.1
      (if hi then d.take 512 ++ new else new ++ d.drop 512, r.2)) s

/-- BRED (R250). -/
def execBred (h : LaneHead) (sl : BitVec 4) (s : State) : Out :=
  bankCompute (.bred h sl) h (fun b u => bankRed b.fmt sl.toNat (u.reg h.va.toNat)) s

/-- BXCH (R251): every BSU of the run sends before any writes. -/
def execBxch (h : LaneHead) (x : BitVec 4) (s : State) : Out :=
  bankWord (.bxch h x) h (fun sl b s =>
    let sent (j : Nat) : Option (List Byte) :=
      let k := j ^^^ x.toNat
      if b.going.contains k then some ((s.bsu sl k).reg h.va.toNat) else none
    b.going.foldl (fun t j =>
      match sent j with
      | some l => t.modBsu sl j (fun u => u.setReg h.vd.toNat l)
      | none => t.modRun sl (fun b => { b with xmiss := true })) s) s

/-- BMOV (R251). -/
def execBmov (h : LaneHead) (rl : BitVec 4) (s : State) : Out :=
  bankCompute (.bmov h rl) h (fun _ u =>
    let a := u.reg h.va.toNat
    (if rl = 0#4 then a else (List.range 1024).map (fun i => byteAt a (i % 2 ^ rl.toNat)), 0)) s

/-- BST (R252). -/
def execBst (h : LaneHead) (sz : BitVec 4) (disp : BitVec 9) (shr dir : Bool) (s : State) : Out :=
  bankEach (.bst h sz disp shr dir) h (fun s sl j b =>
    let n := 2 ^ sz.toNat
    let at_ := 64 * b.lbase + 64 * disp.toNat + (if shr then 0 else j * n)
    if localBytes < at_ + n then (s, 5)
    else if dir then (s.modBsu sl j (fun u => u.setReg h.vd.toNat ((s.bdc sl).storeGet at_ n)), 0)
    else (s.modBdc sl (fun c => c.storePut at_ (((s.bsu sl j).reg h.va.toNat).take n)), 0)) s

/-- BZERO (R251). -/
def execBzero (h : LaneHead) (s : State) : Out :=
  bankCompute (.bzero h) h (fun _ _ => (List.replicate 1024 0, 0)) s

/-! ## The end of a run (R246, R247) -/

/-- The status word of `BRUN` (R246). -/
def BankRun.status (b : BankRun) : Nat :=
  let first := ((List.range 16).find? (fun j => bitOf b.stopped j)).getD 0
  packBits [(b.mask &&& (0xffff ^^^ b.stopped), 0), (b.stopped, 16), (first, 32),
    (if b.stopped = 0 then 0 else tabGet 0 b.causes first, 36), (b.flags % 64, 40), (if b.xmiss then 1 else 0, 46)]

/-- BRUN_COMPLETE (R246, R247): when the run of a slice has ended in every BSU, the BSUs that have not stopped close
their rows, one that cannot being in STOP; `BRUN` then writes its status word and raises the flags, or takes the trap
that a word of the run raised. -/
def execBrunComplete (sl : Nat) (s : State) : Out :=
  match (s.bdc sl).brun with
  | none => .next s
  | some b =>
    if !b.ended then .next s
    else
      let s := s.closeRun sl
      let b := ((s.bdc sl).brun).getD b
      let s := s.modBdc sl (fun c => { c with brun := none })
      match b.trap with
      | some t => .next (s.trapBdc sl t (pcNext (s.bdc sl).pc))
      | none =>
        let s := s.modBdc sl (fun c => { c with fflags := c.fflags ||| BitVec.ofNat 32 (b.flags % 64) })
        .next ((s.setSreg (.bdc sl) b.dest (BitVec.ofNat 64 b.status)).advance (.bdc sl))

end Sys2Proof.Machine
end

