-- ==== Sys2Proof/Machine/LaneMove.lean ====
section
/-! DEFINITION. Predicate forms and raw moves of the lane stream (spec/07_isa_lane.md R177 to R179), and the lane words
`REP` and `NOP` (R93, R196, R197). -/

namespace Sys2Proof.Machine

/-- A predicate of a lane. -/
def LaneEnv.p (e : LaneEnv) (p : BitVec 7) (l : Nat) : Bool := (e.g.pr p.toNat).getLsbD l

/-- A predicate form: p[PD] from its old value and q (R177). -/
def predForm (i : Instr) (h : LaneHead) (pd pa : BitVec 7) (na : Bool) (f : Bool → Bool → Bool) (s : State) : Out :=
  lanePred i h (fun e => [(pd.toNat, fun l => (f (e.p pd l) (e.p pa l != na), 0))]) s

/-- PAND (R177). -/
def execPand (h : LaneHead) (pd pa : BitVec 7) (na : Bool) (s : State) : Out :=
  predForm (.pand h pd pa na) h pd pa na (fun p q => p && q) s
/-- POR (R177). -/
def execPor (h : LaneHead) (pd pa : BitVec 7) (na : Bool) (s : State) : Out :=
  predForm (.por h pd pa na) h pd pa na (fun p q => p || q) s
/-- PXOR (R177). -/
def execPxor (h : LaneHead) (pd pa : BitVec 7) (na : Bool) (s : State) : Out :=
  predForm (.pxor h pd pa na) h pd pa na (fun p q => p != q) s
/-- PNOT (R177). -/
def execPnot (h : LaneHead) (pd pa : BitVec 7) (na : Bool) (s : State) : Out :=
  predForm (.pnot h pd pa na) h pd pa na (fun _ q => !q) s
/-- PMOV (R177). -/
def execPmov (h : LaneHead) (pd pa : BitVec 7) (na : Bool) (s : State) : Out :=
  predForm (.pmov h pd pa na) h pd pa na (fun _ q => q) s

/-- The predicates from `pa` on in a lane, 32 of them, as a number (R178). -/
def LaneEnv.predBits (e : LaneEnv) (pa : BitVec 7) (l : Nat) : Nat :=
  (List.range 32).foldl (fun acc k =>
    acc + (if pa.toNat + k < e.g.p ∧ (e.g.pr (pa.toNat + k)).getLsbD l = true then 2 ^ k else 0)) 0

/-- PTOI (R178). -/
def execPtoi (h : LaneHead) (pa : BitVec 7) (s : State) : Out :=
  laneValue (.ptoi h pa) h (fun e l old =>
    narrowInt e.run.fmt h.md (e.rnd h false l) old (e.predBits pa l)) s

/-- SEL (R179). -/
def execSel (h : LaneHead) (ps : BitVec 7) (ns : Bool) (s : State) : Out :=
  laneValue (.sel h ps ns) h (fun e l old =>
    narrowRaw h.md old (if e.p ps l != ns then e.ia h l else e.ib h l)) s

/-- MOV (R179). -/
def execMov (h : LaneHead) (s : State) : Out :=
  laneValue (.mov h) h (fun e l old => narrowRaw h.md old (e.ia h l)) s

/-- The value of `LIMM` (R99). -/
def limmVal (h : LaneHead) (lo : BitVec 15) : Word32 :=
  BitVec.ofNat 32 (lo.toNat + 2 ^ 15 * h.vb.toNat + 2 ^ 24 * (h.vc.toNat % 256))

/-- LIMM (R99, R179). -/
def execLimm (h : LaneHead) (lo : BitVec 15) (s : State) : Out :=
  laneValue (.limm h lo) h (fun _ _ old => narrowRaw h.md old (limmVal h lo)) s

/-- The lane NOP (R197). -/
def execLaneNop (e : Bool) (s : State) : Out :=
  match s.cur with
  | .bdc sl =>
    if (s.bdc sl).lid.isSome then
      .next (s.modBdc sl (fun c =>
        { c with brun := c.brun.map (fun b =>
            if e then { b with ended := true }
            else if runMax ≤ b.counted + 1 then
              { b with ended := true
                       trap := some { cls := 1, cause := 5, tval := BitVec.ofNat 64 (c.laneAddr b.next), laneWord := true } }
            else { b with next := b.next + 1, counted := b.counted + 1 }) }))
    else .fault .noStream
  | _ => laneWord (.laneNop e) e false (fun gid s => s.laneDone gid e) s

/-! ## REP (R93, R196) -/

/-- The forms that a `REP` may not repeat (R93). -/
def repForbidden : Instr → Bool
  | .rep _ _ _ _ _ => true
  | .mma _ _ _ _ => true
  | .mmat _ _ _ _ => true
  | .mguide _ _ => true
  | .mzero _ _ => true
  | .regroup _ _ _ => true
  | .demote _ => true
  | .vguard _ _ _ _ _ => true
  | _ => false

/-- Is a non-zero step given for a field that holds no operand value in the repeated word (R93)? A bank form has none
(R99). -/
def repStepBad (i : Instr) (d a b c : BitVec 9) : Bool :=
  match (if isBankForm i then none else laneUse i), laneHead i with
  | some u, some _ =>
    (d != 0#9 && (u.d != .operand || vdUnwritten i)) || (a != 0#9 && u.a != .operand) ||
      (b != 0#9 && (u.b != .operand || vbUnread i)) || (c != 0#9 && u.c != .operand)
  | _, _ => d != 0#9 || a != 0#9 || b != 0#9 || c != 0#9

/-- The form that a lane word names by its OP, and by as much of IMM16 as is legal for it: the word itself where it is an
instruction, else the one left when its other fields are cleared. None for an unassigned OP. -/
def laneForm (w : BitVec 96) : Option Instr :=
  let bare (imm : BitVec 16) : BitVec 96 := w.extractLsb' 86 10 ++ 0#59 ++ 127#7 ++ 0#4 ++ imm
  let imm := w.extractLsb' 0 16
  [w, bare (imm &&& 0x7fff#16), bare (imm &&& 0x4000#16), bare 0#16].findSome? (fun x => (decodeLane x).toOption)

/-- The cause with which a `REP` traps for the word that follows it (R93, R94, R103 step 4); none when it does not. The
word's OP and its steps are looked at even where it is no instruction; it then traps itself, unless `REP` does. -/
def repTrap (counted : Nat) (d a b c : BitVec 9) (l : List Byte) : Option Nat :=
  let bad : Bool :=
    match laneForm (BitVec.ofNat 96 (leNat (l.take 12))) with
    | some i => repForbidden i || repStepBad i d a b c
    | none => (BitVec.ofNat 96 (leNat (l.take 12))).extractLsb' 86 10 == 0x1f0#10 || [d, a, b, c].any (· != 0#9)
  if bad then some 0
  else if runMax ≤ counted + 1 ∧ !bytesEnd l then some 5
  else none

/-- The run goes on to the word that a `REP` repeats. -/
def Run.startRep (r : Run) (d a b c : BitVec 9) (n : BitVec 6) : Run :=
  { r with
    next := r.next + 1
    rep := some { d := d.toInt, a := a.toInt, b := b.toInt, c := c.toInt, done := 0, count := n.toNat + 1 } }

/-- The repetition begins in the half `gid`: in a converged pair the lead's half first and then the double's. -/
def State.startRep (s : State) (gid : Nat) (f : Run → Run) : State :=
  let head (g : Group) (k : Run → Run) : Group :=
    match g.laneq with
    | [] => { g with lwait := none }
    | r :: l => { g with lwait := none, laneq := k r :: l }
  if (s.group gid).converged then
    if (s.group gid).isDouble then
      (s.modGroup gid (fun g => head g f)).modGroup (leadOf gid) (fun g =>
        head g (fun r => { f r with leadDone := false, repDue := none }))
    else s.modGroup gid (fun g => head g (fun r => { r with leadDone := true, repDue := (f r).rep }))
  else s.modGroup gid (fun g => head g f)

/-- REP (R93, R196). The word it repeats is fetched to be checked; a fetch that cannot end makes it wait. -/
def execRep (d a b c : BitVec 9) (n : BitVec 6) (s : State) : Out :=
  laneWord (.rep d a b c n) true false (fun gid s =>
    let r := (s.group gid).headRun
    match s.fetchLane gid { r with next := r.next + 1 } with
    | (s, .bytes l) =>
      match repTrap r.counted d a b c l with
      | some k => s.laneTrap gid false 1 k
      | none => s.startRep gid (fun r => r.startRep d a b c n)
    | (s, .parked) => s.laneWaits gid .fetch
    | (s, .busy) => s
    | (s, _) => s.startRep gid (fun r => r.startRep d a b c n)) s

end Sys2Proof.Machine
end

