-- ==== Sys2Proof/Machine/LaneCross.lean ====
section
/-! DEFINITION. The cross-lane forms (spec/07_isa_lane.md R180 to R188): `SHFL`, `VOTE`, `REDUX`, `SCAN`, `DEMOTE`,
`VGUARD` and `REGROUP`, with the event that ends a `REGROUP`'s rendezvous. -/

namespace Sys2Proof.Machine

/-! ## SHFL (R181) -/

/-- The source index of a lane. -/
def shflIndex (mode : ShflMode) (l t : Nat) : Int :=
  match mode with
  | .idx => t
  | .up => (l : Int) - t
  | .down => (l : Int) + t
  | .xor => ((l ^^^ t : Nat) : Int)

/-- Where a lane of `SHFL` takes its value from: itself when the index leaves the group, no lane when that one is dead;
and `valid`. -/
def LaneEnv.shflFrom (e : LaneEnv) (h : LaneHead) (mode : ShflMode) (imm : Option (BitVec 5)) (l : Nat) :
    Option Nat × Bool :=
  let t := match imm with
    | some i => i.toNat
    | none => (e.raw h.vb l).toNat % 64
  let j := shflIndex mode l t
  if j < 0 ∨ (e.g.w : Int) ≤ j then (some l, false)
  else if e.g.deadm.getLsbD j.toNat then (none, false)
  else (some j.toNat, true)

/-- Lanes that consume a poisoned value of another lane (R339). -/
def LaneEnv.shflHurt (e : LaneEnv) (h : LaneHead) (mode : ShflMode) (imm : Option (BitVec 5)) : List (Nat × Nat) :=
  (lanesOf e.g.w (e.g.pset h)).filter (fun l =>
    match (e.shflFrom h mode imm l).1 with
    | some j => e.g.poison.any (fun m => m.file == 0 && m.num == h.va.toNat && m.lane == j)
    | none => false) |>.map (fun l => (l, h.va.toNat))

/-- SHFL (R181). -/
def execShfl (h : LaneHead) (mode : ShflMode) (pv : BitVec 7) (imm : Option (BitVec 5)) (s : State) : Out :=
  let i := Instr.shfl h mode pv imm
  laneWord i h.e false (fun gid s =>
    match s.laneReady gid i h (fun e => e.shflHurt h mode imm) with
    | .stop t => t
    | .go t e lanes _ =>
      let t := t.laneWrite gid i h e lanes (fun l old =>
        narrowRaw h.md old (match (e.shflFrom h mode imm l).1 with
          | some j => e.ia h j
          | none => 0))
      let t := if pv = 127#7 then t
        else t.modGroup gid (fun g => g.setP pv.toNat lanes (laneBits e.g.w h lanes (fun l => (e.shflFrom h mode imm l).2)))
      t.laneDone gid h.e) s

/-! ## VOTE (R182) -/

/-- The lanes of a set that vote 1. -/
def Group.votes (g : Group) (set : Mask) (pa : BitVec 7) (na : Bool) : Mask := set &&& g.pv pa na &&& allLanes g.w

/-- VOTE (R182). -/
def execVote (h : LaneHead) (pa : BitVec 7) (na : Bool) (mode : VoteMode) (s : State) : Out :=
  let i := Instr.vote h pa na mode
  laneWord i h.e false (fun gid s =>
    match s.laneReady gid i h noExtra with
    | .stop t => t
    | .go t e lanes _ =>
      let set := lanes &&& ~~~e.g.helpm
      let ones := e.g.votes set pa na
      let int (x : Int) : State :=
        t.laneWrite gid i h e lanes (fun l old => narrowInt e.run.fmt h.md (e.rnd h false l) old x)
      let t :=
        match mode with
        | .any => int (if ones != 0 then 1 else 0)
        | .all => int (if ones == set then 1 else 0)
        | .count => int (laneCount ones)
        | .ballot =>
          if e.g.w = 64 then
            t.modGroup gid (fun g => (lanesOf 64 lanes).foldl (fun g l =>
              g.setVs h.vd.toNat l [ones.setWidth 32, (ones >>> 32).setWidth 32]) g)
          else int (ones.toNat : Int)
      t.laneDone gid h.e) s

/-! ## REDUX and SCAN (R183) -/

/-- Is the operation one on FP32 values? -/
def redFloat : RedOp → Bool
  | .fadd => true
  | .fmin => true
  | .fmax => true
  | _ => false

/-- One step of an operation on encodings, with its flags. -/
def redStep (fmt : Word32) (op : RedOp) (a b : Nat) : Nat × Word32 :=
  let x : Word32 := BitVec.ofNat 32 a
  let y : Word32 := BitVec.ofNat 32 b
  match op with
  | .iadd => ((x + y).toNat, 0)
  | .imin => (if x.toInt ≤ y.toInt then a else b, 0)
  | .imax => (if x.toInt ≤ y.toInt then b else a, 0)
  | .iminn => (min a b, 0)
  | .imaxn => (max a b, 0)
  | .and => ((x &&& y).toNat, 0)
  | .or => ((x ||| y).toNat, 0)
  | .xor => ((x ^^^ y).toNat, 0)
  | .fadd => fadd32 fmt a b
  | .fmin => fchoose32 fmt false a b
  | .fmax => fchoose32 fmt true a b

/-- The identity of an operation (R183). -/
def redIdentity : RedOp → Nat
  | .iadd => 0
  | .imin => 0x7fffffff
  | .imax => 0x80000000
  | .iminn => 0xffffffff
  | .imaxn => 0
  | .and => 0xffffffff
  | .or => 0
  | .xor => 0
  | .fadd => 0x80000000
  | .fmin => 0x7f800000
  | .fmax => 0xff800000

/-- A contribution of a lane: its encoding, widened, with the flags of reading it; a NaN is canonical (R59). -/
def LaneEnv.redIn (e : LaneEnv) (h : LaneHead) (op : RedOp) (l : Nat) : Nat × Word32 :=
  if redFloat op then
    let c := readCode e.run.fmt h.ma (e.raw h.va l)
    (if xIsNan (rawVal .f32 c.1) then fmtNanCode .f32 else c.1, c.2)
  else ((e.ia h l).toNat, 0)

/-- Write a folded value to a lane (R183): an integer one is read as signed or unsigned for the clamp. -/
def LaneEnv.redOut (e : LaneEnv) (h : LaneHead) (op : RedOp) (l : Nat) (old : Word32) (v : Nat) : Word32 × Word32 :=
  if redFloat op then narrowCode e.run.fmt h.md (e.rnd h false l) old (BitVec.ofNat 32 v)
  else
    let x : Int := if op = .iadd ∨ op = .imin ∨ op = .imax then (BitVec.ofNat 32 v).toInt else v
    narrowInt e.run.fmt h.md (e.rnd h false l) old x

/-- REDUX (R79, R183): every fold but an FP32 sum, whose grouping is not fixed, begins with the identity. -/
def execRedux (h : LaneHead) (op : RedOp) (s : State) : Out :=
  let i := Instr.redux h op
  laneWord i h.e false (fun gid s =>
    match s.laneReady gid i h noExtra with
    | .stop t => t
    | .go t e lanes _ =>
      let ins := (lanesOf e.g.w lanes).map (e.redIn h op)
      let fl := ins.foldl (fun acc p => acc ||| p.2) 0
      let r : Nat × Word32 :=
        match op with
        | .fadd => combineAny (redStep e.run.fmt op) 64 (64 * t.free) (ins.map (·.1)) fl
        | _ => combineLeft (redStep e.run.fmt op) (redIdentity op) (ins.map (·.1)) fl
      let t := t.bumpFree.laneWrite gid i h e lanes (fun l old =>
        let n := e.redOut h op l old r.1
        (n.1, n.2 ||| r.2))
      t.laneDone gid h.e) s

/-- The fold for a lane of `SCAN`: of the contributing lanes at or below it, or strictly below it. -/
def scanFold (fmt : Word32) (op : RedOp) (excl : Bool) (ins : List (Nat × Nat × Word32)) (l : Nat) : Nat × Word32 :=
  let below := (ins.filter (fun p => if excl then decide (p.1 < l) else decide (p.1 ≤ l))).map (fun p => p.2.1)
  combineLeft (redStep fmt op) (redIdentity op) below 0

/-- SCAN (R183). -/
def execScan (h : LaneHead) (op : RedOp) (excl : Bool) (s : State) : Out :=
  let i := Instr.scan h op excl
  laneWord i h.e false (fun gid s =>
    match s.laneReady gid i h noExtra with
    | .stop t => t
    | .go t e lanes _ =>
      let ins := (lanesOf e.g.w lanes).map (fun l => (l, e.redIn h op l))
      let fl := ins.foldl (fun acc p => acc ||| p.2.2) 0
      let t := t.laneWrite gid i h e lanes (fun l old =>
        let r := scanFold e.run.fmt op excl ins l
        let n := e.redOut h op l old r.1
        (n.1, n.2 ||| r.2 ||| fl))
      t.laneDone gid h.e) s

/-! ## DEMOTE and VGUARD (R184, R185) -/

/-- DEMOTE (R184). -/
def execDemote (h : LaneHead) (s : State) : Out :=
  let i := Instr.demote h
  laneWord i h.e false (fun gid s =>
    match s.laneReady gid i h noExtra with
    | .stop t => t
    | .go t _ lanes _ => (t.modGroup gid (fun g => { g with helpm := g.helpm ||| lanes })).laneDone gid h.e) s

/-- VGUARD (R185): it resolves its guard whenever it issues; in a converged pair when the double has issued too. -/
def execVguard (h : LaneHead) (k : BitVec 3) (all : Bool) (pa : BitVec 7) (na : Bool) (s : State) : Out :=
  let i := Instr.vguard h k all pa na
  laneWord i h.e false (fun gid s =>
    match s.consume gid i h [] with
    | (some t, _) => t
    | (none, dies) =>
      let t := s.killLanes gid (s.headAddr gid) dies
      let g := t.group gid
      let set := g.pset h &&& ~~~g.helpm
      let ones := g.votes set pa na
      let yes := ones != 0
      let no := ones != set
      let t :=
        if g.converged && !g.isDouble then t.modGroup gid (fun g => { g with vote := some (k.toNat, all, yes, no) })
        else if g.converged then
          let v := (t.group (leadOf gid)).vote.getD (0, all, false, false)
          (t.resolveGuard gid k.toNat all (yes || v.2.2.1) (no || v.2.2.2)).modGroup (leadOf gid)
            (fun g => { g with vote := none })
        else t.resolveGuard gid k.toNat all yes no
      t.laneDone gid h.e) s

/-! ## REGROUP (R186 to R188) -/

/-- Nothing moves (R188): the group writes p[pd] := 0 in its live lanes and goes on. -/
def State.regroupNoFit (s : State) (gid pd : Nat) (e : Bool) : State :=
  let live := (s.group gid).runActive
  (s.modGroup gid (fun g => { (g.setP pd live 0) with rdv := none, latch := none })).laneDone gid e

/-- The group waits at the rendezvous, or ends at once when its partner has retired (R187). -/
def State.regroupMeet (s : State) (gid partner : Nat) (h : LaneHead) (count pd : Nat) : State :=
  let tid := (s.group gid).tid
  if !s.live (16 * tid + partner) then s.regroupNoFit gid pd h.e
  else
    s.modGroup gid (fun g =>
      { g with
        rdv := some { partner := some partner, vbase := h.va.toNat, count := count, pd := pd, addr := s.headAddr gid, e := h.e }
        lwait := some .meeting
        laneq := match g.laneq with
          | [] => []
          | r :: l => { r with regroup := some partner } :: l })

/-- REGROUP (R186, R187). -/
def execRegroup (h : LaneHead) (count : BitVec 9) (pd : BitVec 6) (s : State) : Out :=
  let i := Instr.regroup h count pd
  laneWordPre i h.e false (fun g => if g.twin then some 6 else none) (fun gid s =>
    let g := s.group gid
    if !g.stack.isEmpty then s.raiseLaneOpen gid false 8 4
    else
      match g.headRun.regroup with
      | some p => s.regroupMeet gid p h count.toNat pd.toNat
      | none =>
        match s.queueMisuse gid i false with
        | some c => s.raiseLaneOpen gid false 7 c
        | none =>
          match s.laneHeld gid i with
          | some t => t
          | none =>
            match s.queueWait gid i false with
            | some w => s.laneWaits gid w
            | none =>
              match s.consume gid i { h with u := true } [] with
              | (some t, _) => t
              | (none, _) =>
                let t := s
                let e := t.laneEnv gid (s.peekQueues gid i)
                let who := (e.raw h.vb (lowestLane e.g.w e.g.runActive)).toNat
                if (s.headerOf gid).grps ≤ who ∨ who = gid % 16 then s.laneTrap gid false 2 0
                else (t.popQueues gid i).regroupMeet gid who h count.toNat pd.toNat) s

/-- Is a group at its rendezvous with everything before it done (R187): every earlier lane word completed, every
in-flight counter 0, no access parked? -/
def State.regroupReady (s : State) (gid : Nat) : Bool :=
  let g := s.group gid
  g.rdv.isSome && !s.inArray gid && g.accs.all (fun a => a.past) && g.engq.all (fun c => c.past) &&
    g.ifc.all (fun p => p.2 == 0)

/-- Where the lanes of a fused group come from (R188): the lanes of the first group, then those of the second. -/
def fusedFrom (f s : Group) : List (Bool × Nat) :=
  (lanesOf f.w f.runActive).map (fun l => (false, l)) ++ (lanesOf s.w s.runActive).map (fun l => (true, l))

/-- The number behind the free value of a register and lane. -/
def freeKey (free r l : Nat) : Nat := free * 65536 + 64 * r + l

/-- The fused group (R188): registers that nothing moves are free values. -/
def fuseGroups (f s : Group) (r : Rendezvous) (free : Nat) : Group :=
  let from_ := fusedFrom f s
  let n := from_.length
  let vec (k i : Nat) : Word32 :=
    match from_[i]? with
    | some (false, l) => f.vr k l
    | some (true, l) => if r.vbase ≤ k ∧ k < r.vbase + r.count then s.vr k l else Config.freeWord (freeKey free k i)
    | none => Config.freeWord (freeKey free k i)
  let bit (m : Group → Mask) (i : Nat) : Bool :=
    match from_[i]? with
    | some (false, l) => (m f).getLsbD l
    | some (true, l) => (m s).getLsbD l
    | none => false
  let low := allLanes n
  let mark (m : PoisonMark) (second : Bool) : Option PoisonMark :=
    let i := from_.findIdx (fun p => p.1 == second && p.2 == m.lane)
    if m.file = 1 then (if second then none else some m)
    else if n ≤ i then none
    else if second ∧ m.file = 0 ∧ ¬ (r.vbase ≤ m.num ∧ m.num < r.vbase + r.count) then none
    else some { m with lane := i }
  { f with
    vregs := (List.range f.r).flatMap (fun k => (List.range f.w).filterMap (fun i =>
      if vec k i = 0 then none else some (64 * k + i, vec k i)))
    preds := (List.range f.p).filterMap (fun k =>
      let old := maskWhere f.w (bit (fun g => g.pr k)) ||| (Config.freeMask (freeKey free k 0) &&& ~~~low &&& allLanes f.w)
      let m := if k = r.pd then old ||| low else old
      if m = 0 then none else some (k, m))
    oldlane := (List.range f.w).filterMap (fun i =>
      let v := match from_[i]? with
        | some (false, l) => f.old l
        | some (true, l) => s.old l
        | none => f.old i
      if v = 0 then none else some (i, v))
    exm := low
    deadm := 0
    helpm := maskWhere f.w (bit (fun g => g.helpm))
    fflags := f.fflags ||| s.fflags
    poison := f.poison.filterMap (fun m => mark m false) ++ s.poison.filterMap (fun m => mark m true)
    latch := none
    rdv := none }

/-- REGROUP_FUSE (R187, R188): the groups at a rendezvous fuse, or nothing moves. No effect while they are not both
ready. -/
def execRegroupFuse (gid : Nat) (s : State) : Out :=
  let g := s.group gid
  match g.rdv with
  | none => .next s
  | some r =>
    match r.partner with
    | none => .next s
    | some p =>
      let other := 16 * g.tid + p
      if !s.live other then .next (s.regroupNoFit gid r.pd r.e)
      else
        match (s.group other).rdv with
        | none => .next s
        | some q =>
          if q.partner ≠ some (gid % 16) ∨ !s.regroupReady gid ∨ !s.regroupReady other then .next s
          else
            let first := min gid other
            let second := max gid other
            let rf := if gid < other then r else q
            let rs := if gid < other then q else r
            let f := s.group first
            let d := s.group second
            if f.w < (fusedFrom f d).length then
              .next ((s.regroupNoFit first rf.pd rf.e).regroupNoFit second rs.pd rs.e)
            else
              let s := { s.bumpFree with groups := tabPut s.groups first (fuseGroups f d rf s.free) }
              .next ((s.laneDone first rf.e).retire second)

end Sys2Proof.Machine
end

