-- ==== Sys2Proof/Machine/LaneInt.lean ====
section
/-! DEFINITION. The integer forms of the lane stream (spec/07_isa_lane.md R162 to R166). -/

namespace Sys2Proof.Machine

/-- An integer form in one lane: the exact `f` of its widened sources, narrowed (R163). -/
def LaneEnv.intForm (e : LaneEnv) (h : LaneHead) (imm : Option (BitVec 14)) (f : Word32 → Word32 → Word32 → Int)
    (l : Nat) (old : Word32) : Word32 × Word32 :=
  narrowI e.run.fmt h.md old (f (e.ia h l) (e.ibi h imm l) (e.ic h l))

/-- The unsigned value of a word, as an integer. -/
def nx (w : Word32) : Int := (w.toNat : Int)

/-- s := b[4:0] (R163). -/
def shiftOf (b : Word32) : Nat := b.toNat % 32

/-- How many bits of a word are 1 (R163). -/
def popCount (w : Word32) : Nat := ((List.range 32).filter (fun k => w.getLsbD k)).length

/-- How many bits above the highest 1 are 0 (R163). -/
def leadingZeros (w : Word32) : Nat := if w = 0 then 32 else 31 - Nat.log2 w.toNat

/-- The bits in reverse order (R163). -/
def reverseBits (w : Word32) : Nat :=
  (List.range 32).foldl (fun acc k => acc + (if w.getLsbD k then 2 ^ (31 - k) else 0)) 0

/-- IADD (R162, R163). -/
def execIadd (h : LaneHead) (imm : Option (BitVec 14)) (s : State) : Out :=
  laneValue (.iadd h imm) h (fun e => e.intForm h imm (fun a b _ => a.toInt + b.toInt)) s
/-- ISUB (R162, R163). -/
def execIsub (h : LaneHead) (imm : Option (BitVec 14)) (s : State) : Out :=
  laneValue (.isub h imm) h (fun e => e.intForm h imm (fun a b _ => a.toInt - b.toInt)) s
/-- IMUL (R162, R163). -/
def execImul (h : LaneHead) (imm : Option (BitVec 14)) (s : State) : Out :=
  laneValue (.imul h imm) h (fun e => e.intForm h imm (fun a b _ => a.toInt * b.toInt)) s
/-- IMULH (R162, R163). -/
def execImulh (h : LaneHead) (imm : Option (BitVec 14)) (s : State) : Out :=
  laneValue (.imulh h imm) h (fun e => e.intForm h imm (fun a b _ => a.toInt * b.toInt / 2 ^ 32)) s
/-- IMULHN (R162, R163). -/
def execImulhn (h : LaneHead) (imm : Option (BitVec 14)) (s : State) : Out :=
  laneValue (.imulhn h imm) h (fun e => e.intForm h imm (fun a b _ => nx a * nx b / 2 ^ 32)) s
/-- IMAD (R162, R163). -/
def execImad (h : LaneHead) (imm : Option (BitVec 14)) (s : State) : Out :=
  laneValue (.imad h imm) h (fun e => e.intForm h imm (fun a b c => a.toInt * b.toInt + c.toInt)) s
/-- IMIN (R162, R163). -/
def execImin (h : LaneHead) (imm : Option (BitVec 14)) (s : State) : Out :=
  laneValue (.imin h imm) h (fun e => e.intForm h imm (fun a b _ => min a.toInt b.toInt)) s
/-- IMAX (R162, R163). -/
def execImax (h : LaneHead) (imm : Option (BitVec 14)) (s : State) : Out :=
  laneValue (.imax h imm) h (fun e => e.intForm h imm (fun a b _ => max a.toInt b.toInt)) s
/-- IMINN (R162, R163). -/
def execIminn (h : LaneHead) (imm : Option (BitVec 14)) (s : State) : Out :=
  laneValue (.iminn h imm) h (fun e => e.intForm h imm (fun a b _ => min (nx a) (nx b))) s
/-- IMAXN (R162, R163). -/
def execImaxn (h : LaneHead) (imm : Option (BitVec 14)) (s : State) : Out :=
  laneValue (.imaxn h imm) h (fun e => e.intForm h imm (fun a b _ => max (nx a) (nx b))) s
/-- IABS (R162, R163). -/
def execIabs (h : LaneHead) (s : State) : Out :=
  laneValue (.iabs h) h (fun e => e.intForm h none (fun a _ _ => (a.toInt.natAbs : Int))) s
/-- INEG (R162, R163). -/
def execIneg (h : LaneHead) (s : State) : Out :=
  laneValue (.ineg h) h (fun e => e.intForm h none (fun a _ _ => -a.toInt)) s
/-- LANE_AND (R162, R163). -/
def execLaneAnd (h : LaneHead) (imm : Option (BitVec 14)) (s : State) : Out :=
  laneValue (.laneAnd h imm) h (fun e => e.intForm h imm (fun a b _ => nx (a &&& b))) s
/-- LANE_OR (R162, R163). -/
def execLaneOr (h : LaneHead) (imm : Option (BitVec 14)) (s : State) : Out :=
  laneValue (.laneOr h imm) h (fun e => e.intForm h imm (fun a b _ => nx (a ||| b))) s
/-- LANE_XOR (R162, R163). -/
def execLaneXor (h : LaneHead) (imm : Option (BitVec 14)) (s : State) : Out :=
  laneValue (.laneXor h imm) h (fun e => e.intForm h imm (fun a b _ => nx (a ^^^ b))) s
/-- NOT (R162, R163). -/
def execInot (h : LaneHead) (s : State) : Out :=
  laneValue (.inot h) h (fun e => e.intForm h none (fun a _ _ => nx (~~~a))) s
/-- LANE_SHL (R162, R163). -/
def execLaneShl (h : LaneHead) (imm : Option (BitVec 14)) (s : State) : Out :=
  laneValue (.laneShl h imm) h (fun e => e.intForm h imm (fun a b _ => nx a * 2 ^ shiftOf b)) s
/-- LANE_SHR (R162, R163). -/
def execLaneShr (h : LaneHead) (imm : Option (BitVec 14)) (s : State) : Out :=
  laneValue (.laneShr h imm) h (fun e => e.intForm h imm (fun a b _ => nx a / 2 ^ shiftOf b)) s
/-- LANE_SAR (R162, R163). -/
def execLaneSar (h : LaneHead) (imm : Option (BitVec 14)) (s : State) : Out :=
  laneValue (.laneSar h imm) h (fun e => e.intForm h imm (fun a b _ => a.toInt / 2 ^ shiftOf b)) s
/-- ROTL (R162, R163). -/
def execRotl (h : LaneHead) (imm : Option (BitVec 14)) (s : State) : Out :=
  laneValue (.rotl h imm) h (fun e => e.intForm h imm (fun a b _ => nx (a.rotateLeft (shiftOf b)))) s
/-- POPC (R162, R163). -/
def execPopc (h : LaneHead) (s : State) : Out :=
  laneValue (.popc h) h (fun e => e.intForm h none (fun a _ _ => (popCount a : Int))) s
/-- CLZ (R162, R163). -/
def execClz (h : LaneHead) (s : State) : Out :=
  laneValue (.clz h) h (fun e => e.intForm h none (fun a _ _ => (leadingZeros a : Int))) s
/-- BREV (R162, R163). -/
def execBrev (h : LaneHead) (s : State) : Out :=
  laneValue (.brev h) h (fun e => e.intForm h none (fun a _ _ => (reverseBits a : Int))) s

/-- The length of a bit field after truncation at bit 31 (R164). -/
def fieldLen (pos : BitVec 5) (len : BitVec 6) : Nat := min len.toNat (32 - pos.toNat)

/-- x of `BFE` (R164): with S = 1 a signed value, which a subfield destination clamps as such (DESIGN CHOICE, entry 58). -/
def bfeVal (a : Word32) (pos : BitVec 5) (len : BitVec 6) (sgn : Bool) : Int :=
  let l := fieldLen pos len
  let v := (a.toNat >>> pos.toNat) % 2 ^ l
  if sgn ∧ 0 < l then (BitVec.ofNat l v).toInt else (v : Int)

/-- BFE (R164). -/
def execBfe (h : LaneHead) (pos : BitVec 5) (len : BitVec 6) (sgn : Bool) (s : State) : Out :=
  laneValue (.bfe h pos len sgn) h (fun e => e.intForm h none (fun a _ _ => bfeVal a pos len sgn)) s

/-- x of `BFI` (R164). -/
def bfiVal (a b : Word32) (pos : BitVec 5) (len : BitVec 6) : Word32 :=
  let l := fieldLen pos len
  let m : Word32 := BitVec.ofNat 32 ((2 ^ l - 1) <<< pos.toNat)
  (b &&& ~~~m) ||| (BitVec.ofNat 32 ((a.toNat % 2 ^ l) <<< pos.toNat))

/-- BFI (R164). -/
def execBfi (h : LaneHead) (pos : BitVec 5) (len : BitVec 6) (s : State) : Out :=
  laneValue (.bfi h pos len) h (fun e => e.intForm h none (fun a b _ => nx (bfiVal a b pos len))) s

/-- The comparisons of `ICMP` (R165). -/
def icmpVal (c : ICond) (a b : Word32) : Bool :=
  match c with
  | .eq => a == b
  | .ne => a != b
  | .lt => decide (a.toInt < b.toInt)
  | .le => decide (a.toInt ≤ b.toInt)
  | .gt => decide (b.toInt < a.toInt)
  | .ge => decide (b.toInt ≤ a.toInt)
  | .ltn => decide (a.toNat < b.toNat)
  | .len => decide (a.toNat ≤ b.toNat)
  | .gtn => decide (b.toNat < a.toNat)
  | .gen => decide (b.toNat ≤ a.toNat)

/-- ICMP (R165). -/
def execIcmp (h : LaneHead) (pd : BitVec 7) (c : ICond) (s : State) : Out :=
  lanePred (.icmp h pd c) h (fun e => [(pd.toNat, fun l => (icmpVal c (e.ia h l) (e.ib h l), 0))]) s

/-- Consecutive registers of a lane as they stand. -/
def LaneEnv.span (e : LaneEnv) (v : BitVec 9) (n l : Nat) : List Word32 :=
  (List.range n).map (fun k => e.g.vr (v.toNat + k) l)

/-- The number that words hold, least significant first. -/
def wordsNat : List Word32 → Nat
  | [] => 0
  | w :: l => w.toNat + 2 ^ 32 * wordsNat l

/-- The low `n` words of a number, least significant first. -/
def natWords : Nat → Nat → List Word32
  | 0, _ => []
  | n + 1, v => BitVec.ofNat 32 v :: natWords n (v / 2 ^ 32)

/-- CADD128 (R166). -/
def execCadd128 (h : LaneHead) (nb : Bool) (s : State) : Out :=
  laneWords (.cadd128 h nb) h (fun e l =>
    let b := if nb then (e.raw h.vb l).toNat else wordsNat (e.span h.vb 4 l)
    natWords 4 (wordsNat (e.span h.va 4 l) + b)) s

end Sys2Proof.Machine
end

