-- ==== Sys2Proof/Machine/LaneMem.lean ====
section
/-! DEFINITION. The memory forms of the lane stream (spec/07_isa_lane.md R189 to R193), its atomics
(spec/08_isa_matrix_engines.md R232 to R237) and `RNGX` (R194, R195). -/

namespace Sys2Proof.Machine

/-! ## Addresses (R190) -/

/-- Bytes of an access of each size (R189). -/
def sizeBytes : MSize → Nat
  | .z8 => 1
  | .s8 => 1
  | .z16 => 2
  | .s16 => 2
  | .w32 => 4
  | .w64 => 8
  | .w128 => 16

/-- Does a load of the size sign-extend (R191)? -/
def sizeSigned : MSize → Bool
  | .s8 => true
  | .s16 => true
  | _ => false

/-- off of a lane (R190). -/
def LaneEnv.off (e : LaneEnv) (h : LaneHead) (osx : Bool) (l : Nat) : Int :=
  if osx then (e.ia h l).toInt else nx (e.ia h l)

/-- The virtual address of a lane of `LD`, `ST`, `PREF` and `ATOM` (R190). -/
def LaneEnv.vaddr (e : LaneEnv) (h : LaneHead) (osx : Bool) (disp : Int) (l : Nat) : Nat :=
  (BitVec.ofInt 64 ((e.s64 h.vb).toNat + e.off h osx l + disp)).toNat

/-- The 32-bit offset of a lane of `LDS`, `STS`, `LDC` and `ATOMS` (R190). -/
def LaneEnv.offset (e : LaneEnv) (h : LaneHead) (osx : Bool) (disp : Int) (l : Nat) : Nat :=
  (BitVec.ofInt 32 ((e.raw h.vb l).toNat + e.off h osx l + disp)).toNat

/-- Where a memory word goes: the space, the address of each lane, and which lanes lie out of bounds (R190, R193). -/
structure LaneTarget where
  space : Space
  size : Nat
  /-- The address of a lane, and what must be aligned. -/
  addr : Nat → Nat
  low : Nat → Nat
  /-- Is a lane's access out of bounds (R193)? -/
  out : Nat → Bool

/-- The target of a word on virtual memory. -/
def LaneEnv.memTarget (e : LaneEnv) (h : LaneHead) (osx : Bool) (disp : Int) (size : Nat) : LaneTarget :=
  { space := .mem, size, addr := e.vaddr h osx disp, low := e.vaddr h osx disp, out := fun _ => false }

/-- The target of a word on the troupe's scratchpad (R190, R264). -/
def LaneEnv.spadTarget (e : LaneEnv) (h : LaneHead) (osx : Bool) (disp : Int) (size bound : Nat) : LaneTarget :=
  let a := e.offset h osx disp
  { space := .spad, size, addr := a, low := a, out := fun l => decide (bound < a l + size) }

/-- The target of a word on the kernel's constants (R190). -/
def LaneEnv.constTarget (e : LaneEnv) (h : LaneHead) (osx : Bool) (disp : Int) (size base bound : Nat) : LaneTarget :=
  let a := e.offset h osx disp
  let o (l : Nat) : Int := (BitVec.ofNat 32 (a l)).toInt
  { space := .konst, size, addr := fun l => (BitVec.ofInt 64 (base + o l)).toNat, low := a,
    out := fun l => decide (o l < 0) || decide ((bound : Int) < o l + size) }

/-! ## Issue (R192, R193) -/

/-- What a memory word is, for the access it makes. -/
structure LaneMemOp where
  path : Path
  op : AccOp
  scope : Scope
  dest : Dest
  /-- Helper lanes make no access (R157). -/
  helpers : Bool
  /-- Forces a take (R337). -/
  forces : Bool

/-- Memory words (R190 to R193): checks of alignment and bounds in every lane, the take that an atomic forces, room in
the path's counter, and then the access. `target` and `data` are read in the lanes' source lanes. -/
def laneMem (i : Instr) (h : LaneHead) (m : LaneMemOp) (target : State → Nat → LaneEnv → LaneTarget)
    (data : LaneEnv → Nat → List Byte) (s : State) : Out :=
  laneWord i h.e false (fun gid s =>
    match s.laneLook gid i h noExtra with
    | .stop t => t
    | .go t e lanes dies =>
      let tg := target s gid e
      let ww := e.g.w
      let ps : List (Nat × Nat) :=
        if h.u then [(64, lowestLane ww lanes)] else (lanesOf ww lanes).map (fun l => (l, l))
      let doers := ps.filter (fun p => h.u || m.helpers || !e.g.helpm.getLsbD p.1)
      match ps.find? (fun p => tg.low p.2 % tg.size != 0), doers.find? (fun p => tg.out p.2) with
      | some p, _ => s.raiseLane gid false { cls := 3, cause := 0, tval := BitVec.ofNat 64 (tg.addr p.2) }
      | none, some p => s.raiseLane gid false { cls := 4, cause := 4, tval := BitVec.ofNat 64 (tg.addr p.2) }
      | none, none =>
        if m.forces && s.needsTake gid then s.askTake gid
        else if 63 ≤ (s.group gid).count m.path then s.laneWaits gid (.counter m.path 62)
        else
          let t := if m.forces then t.spendTake gid true else t
          t.issueAccess gid
            { aid := (t.group gid).nextAid, path := m.path, op := m.op, space := tg.space, size := tg.size,
              scope := m.scope, dest := m.dest, wmask := lanes, uniform := h.u, pc := s.headAddr gid, laneWord := true,
              e := h.e, dies, pops := queueSources i, run := if h.u then (s.group gid).laneq.head? else none,
              lanes := doers.flatMap (fun p =>
                laneParts p.1 (tg.addr p.2) tg.size (data e p.2) (if tg.space = .spad then .ready else .untranslated)) }) s

/-- No data. -/
def noData (_ : LaneEnv) (_ : Nat) : List Byte := []

/-- disp of a sized form (R190). -/
def dispOf {n : Nat} (d : BitVec n) (size : Nat) : Int := d.toInt * size

/-- The bytes that a store writes in a lane (R191). -/
def storeData (h : LaneHead) (size : MSize) (e : LaneEnv) (l : Nat) : List Byte :=
  if sizeWords size = 1 then natBytes (sizeBytes size) (e.ic h l).toNat
  else natBytes (sizeBytes size) (wordsNat (e.span h.vc (sizeWords size) l))

/-- LD (R189 to R193). -/
def execLd (h : LaneHead) (size : MSize) (osx : Bool) (sc : Scope) (disp : BitVec 8) (s : State) : Out :=
  laneMem (.ld h size osx sc disp) h
    { path := .ls, op := .load (sizeSigned size), scope := sc, dest := .vreg h.vd.toNat (sizeWords size),
      helpers := true, forces := false }
    (fun _ _ e => e.memTarget h osx (dispOf disp (sizeBytes size)) (sizeBytes size)) noData s

/-- ST (R189 to R193). -/
def execSt (h : LaneHead) (size : MSize) (osx : Bool) (sc : Scope) (disp : BitVec 8) (s : State) : Out :=
  laneMem (.st h size osx sc disp) h
    { path := .ls, op := .store, scope := sc, dest := .none, helpers := false, forces := false }
    (fun _ _ e => e.memTarget h osx (dispOf disp (sizeBytes size)) (sizeBytes size)) (storeData h size) s

/-- LDS (R189 to R193). -/
def execLds (h : LaneHead) (size : MSize) (osx : Bool) (disp : BitVec 8) (s : State) : Out :=
  laneMem (.lds h size osx disp) h
    { path := .ls, op := .load (sizeSigned size), scope := .grp, dest := .vreg h.vd.toNat (sizeWords size),
      helpers := true, forces := false }
    (fun s gid e =>
      e.spadTarget h osx (dispOf disp (sizeBytes size)) (sizeBytes size) (spadBytes (s.headerOf gid))) noData s

/-- STS (R189 to R193). -/
def execSts (h : LaneHead) (size : MSize) (osx : Bool) (disp : BitVec 8) (s : State) : Out :=
  laneMem (.sts h size osx disp) h
    { path := .ls, op := .store, scope := .grp, dest := .none, helpers := false, forces := false }
    (fun s gid e =>
      e.spadTarget h osx (dispOf disp (sizeBytes size)) (sizeBytes size) (spadBytes (s.headerOf gid))) (storeData h size) s

/-- LDC (R189 to R193). -/
def execLdc (h : LaneHead) (size : MSize) (osx : Bool) (disp : BitVec 8) (s : State) : Out :=
  laneMem (.ldc h size osx disp) h
    { path := .const, op := .load (sizeSigned size), scope := .dev, dest := .vreg h.vd.toNat (sizeWords size),
      helpers := true, forces := false }
    (fun s gid e =>
      e.constTarget h osx (dispOf disp (sizeBytes size)) (sizeBytes size) (s.launchOf gid).constBase
        (s.headerOf gid).constSize) noData s

/-! ## PREF (R189, R192, R193) -/

/-- A prefetch of one lane: the sector comes into the L1 or the L2; one that cannot be had now, or has no translation,
is dropped. -/
def State.prefetch (s : State) (gid : Nat) (l2 : Bool) (va : Nat) : State :=
  let core := s.coreOf gid
  let w := s.worldOf gid
  match s.xlate core w va .read with
  | (t, .ok pa _ _) =>
    if deviceBytes ≤ pa ∨ t.homeBusy w pa false = true ∨ t.seenBlocks core (pa / 64 * 64) 64 = true then t
    else if l2 then (t.homeRead w (pa / 64 * 64) 64 (portOf core)).1
    else (t.l1Have core w pa).1
  | _ => s

/-- PREF (R189, R190, R192, R193): no counter, no trap. -/
def execPref (h : LaneHead) (osx : Bool) (l2 : Bool) (disp : BitVec 8) (s : State) : Out :=
  let i := Instr.pref h osx l2 disp
  laneWord i h.e false (fun gid s =>
    match s.laneReady gid i h noExtra with
    | .stop t => t
    | .go t e lanes _ =>
      let ls := if h.u then [lowestLane e.g.w lanes] else lanesOf e.g.w lanes
      (ls.foldl (fun s l => s.prefetch gid l2 (e.vaddr h osx (dispOf disp 128) l)) t).laneDone gid h.e) s

/-! ## Atomics of the lane stream (R235 to R237) -/

/-- The operand words of an atomic in a lane (R235). -/
def atomData (h : LaneHead) (op : AtomOp) (w64 : Bool) (e : LaneEnv) (l : Nat) : List Byte :=
  if atomWords op w64 = 1 then natBytes 4 (e.ic h l).toNat
  else natBytes (4 * atomWords op w64) (wordsNat (e.span h.vc (atomWords op w64) l))

/-- Where the old value goes (R235). -/
def atomDest (h : LaneHead) (w64 nr : Bool) : Dest := if nr then .none else .vreg h.vd.toNat (if w64 then 2 else 1)

/-- ATOM (R233, R235, R237). -/
def execAtom (h : LaneHead) (op : AtomOp) (w64 : Bool) (sc : Scope) (nr : Bool) (osx : Bool) (disp : BitVec 5)
    (s : State) : Out :=
  laneMem (.atom h op w64 sc nr osx disp) h
    { path := .atom, op := .atom op w64, scope := sc, dest := atomDest h w64 nr, helpers := false, forces := true }
    (fun _ _ e => e.memTarget h osx (dispOf disp (if w64 then 8 else 4)) (if w64 then 8 else 4)) (atomData h op w64) s

/-- ATOMS (R236, R237). -/
def execAtoms (h : LaneHead) (op : AtomOp) (w64 : Bool) (nr : Bool) (osx : Bool) (disp : BitVec 5) (s : State) : Out :=
  laneMem (.atoms h op w64 nr osx disp) h
    { path := .atom, op := .atom op w64, scope := .core, dest := atomDest h w64 nr, helpers := false, forces := true }
    (fun s gid e =>
      e.spadTarget h osx (dispOf disp (if w64 then 8 else 4)) (if w64 then 8 else 4) (spadBytes (s.headerOf gid)))
    (atomData h op w64) s

/-! ## RNGX (R194, R195) -/

/-- The four words of the generator's state and the two key words. -/
structure Rng where
  x0 : Word32
  x1 : Word32
  x2 : Word32
  x3 : Word32
  k0 : Word32
  k1 : Word32
  deriving DecidableEq, Repr

/-- One round (R194). -/
def Rng.round (r : Rng) : Rng :=
  let pp := r.x0.toNat * 0xa3b19535
  let qq := r.x2.toNat * 0xc6ef3725
  { x0 := BitVec.ofNat 32 (qq / 2 ^ 32) ^^^ r.x1 ^^^ r.k0
    x1 := BitVec.ofNat 32 qq + r.k1
    x2 := BitVec.ofNat 32 (pp / 2 ^ 32) ^^^ r.x3.rotateLeft 11 ^^^ r.k1
    x3 := BitVec.ofNat 32 pp + r.k0
    k0 := r.k0 + 0x61c88647
    k1 := r.k1 + 0x8de1c3ad }

/-- `k` rounds. -/
def Rng.rounds : Nat → Rng → Rng
  | 0, r => r
  | k + 1, r => Rng.rounds k r.round

/-- The output of `RNGX` for a counter and a key (R194). -/
def rngWords (counter : List Word32) (k0 k1 : Word32) (unit : Bool) : List Word32 :=
  let r := Rng.rounds 8
    { x0 := counter.getD 0 0, x1 := counter.getD 1 0, x2 := counter.getD 2 0, x3 := counter.getD 3 0, k0, k1 }
  let out (x : Word32) : Word32 :=
    if unit then BitVec.ofNat 32 (xRound .f32 { rm := 0 } (.fin false (x.toNat / 256) 1 (-24))).1 else x
  [out r.x0, out r.x1, out r.x2, out r.x3]

/-- RNGX (R194, R195). -/
def execRngx (h : LaneHead) (unit : Bool) (s : State) : Out :=
  laneWords (.rngx h unit) h (fun e l =>
    let key : Word32 × Word32 :=
      if isScalar h.vb then ((e.s64 h.vb).setWidth 32, (e.s64 h.vb >>> 32).setWidth 32)
      else (e.g.vr h.vb.toNat l, e.g.vr (h.vb.toNat + 1) l)
    rngWords (e.span h.va 4 l) key.1 key.2 unit) s

end Sys2Proof.Machine
end

