-- ==== Sys2Proof/Machine/Sync.lean ====
section
/-! DEFINITION. Synchronisation forms of the scalar stream (spec/08_isa_matrix_engines.md R227 to R234): `BAR`,
`FENCE`, `PFENCE`, `WAITP`, `SATOM`; with the barriers of spec/12_sync.md R310 to R316, the fences of
spec/11_memory.md R286, R289, R292, and the takes that these forms force (spec/13_faults.md R337). A form whose order
could also be kept without holding the scalar stream holds it here (entry 20). -/

namespace Sys2Proof.Machine

/-! ## What has been performed (R286) -/

/-- Has an access of a group been performed at a scope (R286)? A store that has left its queue waits in its core's write
buffer until its bytes are home, unless the order of the scope's instance holds already (R287, entry 20); a narrower store
reaches its home by the write-back of its sector. -/
def State.performedAt (s : State) (gid : Nat) (a : Access) (sc : Scope) : Bool :=
  a.past || (match a.op with
    | .store => a.left && (scopeRank sc ≤ 1 || (s.core (s.coreOf gid)).wbuf.all (fun e =>
        e.side != 0 || e.gid != gid || e.aid != a.aid || e.seen.contains sc))
    | _ => a.allDone)

/-- Has an engine command been performed (R284)? A `BNK` makes no access of its own: its message stands for it. -/
def Cmd.performed (c : Cmd) : Bool :=
  c.past || (match c.op with
    | .bnk _ => c.accepted
    | _ => false)

/-- The earlier accesses and commands of a group on a path have been performed at a scope, apart from what its loads took
from their core. -/
def State.pathPerformed (s : State) (gid : Nat) (p : Path) (sc : Scope) : Bool :=
  let g := s.group gid
  g.accs.all (fun a => a.path != p || s.performedAt gid a sc) && g.engq.all (fun c => c.path != p || c.performed)

/-- Every earlier access of a group has been performed at a scope; with `reads`, plain stores are left out (R289 case
4). -/
def State.allPerformed (s : State) (gid : Nat) (sc : Scope) (reads : Bool) : Bool :=
  let g := s.group gid
  g.accs.all (fun a => (reads && a.op == .store) || s.performedAt gid a sc) && g.engq.all Cmd.performed

/-- No matrix form of the group still reads the scratchpad (R206). -/
def State.matrixRead (s : State) (gid : Nat) : Bool :=
  (s.core (s.coreOf gid)).arrays.all (fun p =>
    match p.2 with
    | some f => f.reads || !(f.gid == gid || f.other == some gid)
    | none => true)

/-! ## Fences (R229, R292) -/

/-- Write back sectors of a core's L1, if all of them can be now; and is nothing of the core's write buffer, of what is to be
waited for, still on its way (R292)? -/
def State.writeBackAll (s : State) (core : Nat) (ks : List Nat) (waits : WEntry → Bool) : State × Bool :=
  if ks.all (fun k => s.canWriteBack core k) then
    let s := ks.foldl (fun s k => s.writeBackL1 core k) s
    (s, !(s.core core).wbuf.any waits)
  else (s, false)

/-- The dirty sectors of a core's L1. -/
def Core.dirtySectors (c : Core) : List Nat := sectorsWhere c.l1 (fun _ v => v.dirty != 0)

/-- The same; then everything that loads of some groups took from the core must have been performed at a scope (R286). -/
def State.writeBackTook (s : State) (core : Nat) (hs : List Nat) (sc : Scope) (ks : List Nat) (waits : WEntry → Bool) :
    State × Bool :=
  let r := s.writeBackAll core ks waits
  (r.1, r.2 && hs.all (fun k => r.1.tookPerformed k sc))

/-- A release at a scope (R292), as far as it can go now, and whether it is complete. -/
def State.release (s : State) (gid : Nat) (sc : Scope) : State × Bool :=
  let core := s.coreOf gid
  let hs := s.halvesOf gid
  if hs.all (fun k => s.allPerformed k sc false && s.matrixRead k) then
    s.writeBackTook core hs sc ((s.core core).dirtyBelow sc)
      (fun e => decide (2 ≤ scopeRank sc) && (e.booth || e.side == 1))
  else (s, false)

/-- The sectors of the core's L1 that hold dirty bytes which loads of a group took from there. -/
def State.tookSectors (s : State) (gid : Nat) : List Nat :=
  ((s.group gid).took.filterMap (fun t =>
    match t with
    | .dirty k _ => if s.tookPending (s.coreOf gid) .sys t then some k else none
    | _ => none)).eraseDups

/-- An acquire at a scope (R292), as far as it can go now, and whether it is complete. At BOOTH or wider it waits for every
write that the group's reads took from their core; the dirty bytes among them are written back, which nothing else might
ever do (entry 26). Then no clean sector stays in the L1. -/
def State.acquire (s : State) (gid : Nat) (sc : Scope) : State × Bool :=
  let core := s.coreOf gid
  let hs := s.halvesOf gid
  if !hs.all (fun k => s.allPerformed k sc true && s.matrixRead k) then (s, false)
  else if scopeRank sc ≤ 1 then (s, true)
  else
    let r := s.writeBackTook core hs sc (hs.flatMap s.tookSectors).eraseDups (fun _ => false)
    if r.2 then (r.1.modCore core Core.dropClean, true) else r

/-- What the MTX path read ahead does not stand against an order that a group's instruction gives (R284, R289). -/
def State.noAhead (s : State) (gid : Nat) : State :=
  (s.halvesOf gid).foldl (fun s k => s.modGroup k (fun g => { g with ahead := none })) s

/-- Does a held store stand in the way of an acquire, because only a take performs it at wider scopes (R292, R337)? -/
def State.holdsBack (s : State) (gid : Nat) (sc : Scope) : Bool :=
  2 ≤ scopeRank sc && s.takesOn gid && !(s.troupe (s.group gid).tid).hold.isEmpty

/-- A release or acquire that is not complete makes the instruction wait (R227, R292). -/
def State.orFence (gid : Nat) (w : WaitOn) (o : State × Bool) (f : State → State) : State :=
  if o.2 then f o.1 else o.1.waitsOrRefused gid w

/-- Does any access of the group park on a fault (R227)? -/
def State.anyParked (s : State) (gid : Nat) : Bool :=
  (s.halvesOf gid).any (fun k => (s.group k).parkedAccess.isSome || (s.group k).refusedAccess.isSome)

/-- What follows once no access of the group is parked (R227). -/
def State.afterParked (s : State) (gid : Nat) (f : State → State) : State :=
  if s.anyParked gid then s.waitsOrRefused gid .parked else f s

/-- FENCE (R227, R229, R239, R292). -/
def execFence (kind : FenceKind) (sc : Scope) (s : State) : Out :=
  scalarWord .both (.fence kind sc) (fun a s =>
    match a with
    | .group gid =>
      s.afterIssued gid (fun s =>
        match kind with
        | .acq =>
          if s.holdsBack gid sc then s.askTake gid
          else State.orFence gid .fence (s.acquire gid sc) (fun s => ((s.spendTake gid false).noAhead gid).advance a)
        | .rel =>
          s.afterParked gid (fun s =>
            if 1 ≤ scopeRank sc ∧ s.needsTake gid = true then s.askTake gid
            else State.orFence gid .fence (s.release gid sc) (fun s => (s.spendTake gid false).advance a))
        | .ar =>
          s.afterParked gid (fun s =>
            if 1 ≤ scopeRank sc ∧ s.needsTake gid = true then s.askTake gid
            else
              let r := s.release gid sc
              State.orFence gid .fence (if r.2 then r.1.acquire gid sc else r)
                (fun s => ((s.spendTake gid false).noAhead gid).advance a)))
    | _ => s.advance a) s

/-- Is a path one of the engines' (R282)? -/
def enginePath : Path → Bool
  | .copy => true
  | .gath => true
  | .coll => true
  | .bank => true
  | _ => false

/-- PFENCE (R230, R292). -/
def execPfence (pa pb : Path) (sc : Scope) (s : State) : Out :=
  scalarWord .computeOnly (.pfence pa pb sc) (fun a s =>
    match a with
    | .group gid =>
      s.afterIssued gid (fun s =>
        let core := s.coreOf gid
        let c := s.core core
        let hs := s.halvesOf gid
        let home := pa == .ls && (enginePath pb || pb == .const)
        let ready := hs.all (fun k => s.pathPerformed k pa sc && (pa != .mtx || s.matrixRead k))
        let atHome := !home || hs.all (fun k => !c.wbuf.any (fun e => e.side == 0 && e.gid == k))
        let took := if pa = .ls then hs else []
        let dirty := if home then c.dirtySectors else if pa = .ls then c.dirtyBelow sc else []
        if pa = .ls ∧ 1 ≤ scopeRank sc ∧ s.needsTake gid = true then s.askTake gid
        else
          State.orFence gid (.pathFence pa)
            (if ready && atHome then
              s.writeBackTook core took (if home then .sys else sc) dirty
                (fun e => pa == .ls && (home || decide (2 ≤ scopeRank sc)) && e.side == 1)
             else (s, false))
            (fun s =>
              let s := if pb = .ls ∧ enginePath pa = true then s.modCore core Core.dropClean else s
              let s := if pb = .mtx then s.noAhead gid else s
              ((if pa = .ls then s.spendTake gid false else s)).advance a))
    | _ => s) s

/-- WAITP (R231). -/
def execWaitp (p : Path) (n : BitVec 6) (s : State) : Out :=
  scalarWord .computeOnly (.waitp p n) (fun a s =>
    match a with
    | .group gid =>
      s.afterIssued gid (fun s =>
        if (s.halvesOf gid).all (fun k => (s.group k).count p ≤ n.toNat) then (s.noAhead gid).advance a
        else s.waitsOrRefused gid (.counter p n.toNat))
    | _ => s) s

/-! ## BAR (R228, R310 to R316) -/

/-- The level and number that a handle names, if its entry is valid (R311). -/
def barrierEntry (v : BitVec 16) : Option (Nat × Nat) :=
  let level := bitsOf v.toNat 14 13
  let num := bitsOf v.toNat 12 9
  if v.getLsbD 15 ∧ num < barrierCount level then some (level, num) else none

/-- The halves that a `BAR` acts for: those of the executing context that are members (R316). -/
def State.barHalves (s : State) (gid level num : Nat) : List Nat :=
  (s.halvesOf gid).filter (fun k => (s.membersOf k level num).contains k)

/-- The arrival record of a group (R313). -/
def State.arrivalOf (s : State) (k level num : Nat) : Option Nat :=
  tabFind (s.barrier (s.barrierKey k level num)).records k

/-- Has a group arrived in a phase that has not completed (R313)? -/
def State.arrivedNow (s : State) (k level num : Nat) : Bool :=
  match s.arrivalOf k level num with
  | some p => p == (s.barrier (s.barrierKey k level num)).phase
  | none => false

/-- Empty a group's arrival record (R313). -/
def State.emptyRecord (s : State) (k level num : Nat) : State :=
  let key := s.barrierKey k level num
  let b := s.barrier key
  { s with barriers := tabSet {} s.barriers key { b with records := tabDel b.records k } }

/-- Is a STEP of the debugger to halt a group after this wait (R425): does the wait end the phase that the step runs
to? -/
def State.stepEnds (s : State) (k level num : Nat) : Bool :=
  let d := (s.world (s.worldOf k)).dbg
  match d.step, s.arrivalOf k level num with
  | some (lid, l, n), some p =>
    lid == (s.troupe (s.group k).tid).lid && l == level && n == num &&
      decide (tabGet 0 d.stepPhases (s.barrierKey k level num) ≤ p)
  | _, _ => false

/-- The wait part of a `BAR` for its member halves (R313): misuse without an arrival; on completion the acquire. -/
def State.barWait (s : State) (a : Agent) (gid level num : Nat) (hs : List Nat) (sc : Option Scope) : State :=
  if hs.any (fun k => (s.arrivalOf k level num).isNone) then s.trapOpen a 8 3
  else if hs.any (fun k => s.arrivedNow k level num) then
    let key := s.barrierKey gid level num
    s.waits a (.barrier key (s.barrier key).phase)
  else
    let go (s : State) : State :=
      let pc := s.pcOf a
      let halts := hs.any (fun k => s.stepEnds k level num)
      let s := hs.foldl (fun s k => s.emptyRecord k level num) s
      let s := ((s.spendTake gid false).modGroup gid (fun g => { g with resumeWait := g.resumeWait.erase pc })).advance a
      if halts then (s.halvesOf gid).foldl (fun s k => s.modGroup k (fun g => { g with halted := true })) s else s
    match sc with
    | none => go s
    | some sc =>
      if s.holdsBack gid sc then s.askTake gid
      else State.orFence gid .barFence (s.acquire gid sc) (fun s => go (s.noAhead gid))

/-- The arrival part of a `BAR` for its member halves (R313), with the release of its scope and the take that it
forces; `after` follows. -/
def State.barArrive (s : State) (a : Agent) (gid level num : Nat) (hs : List Nat) (sc : Option Scope)
    (after : State → State) : State :=
  let forcing := decide (2 ≤ level) || (sc.map (fun sc => decide (1 ≤ scopeRank sc))).getD false
  if hs.any (fun k => s.arrivedNow k level num) then s.trapOpen a 8 2
  else if forcing && s.needsTake gid then s.askTake gid
  else
    let go (s : State) : State :=
      let pc := s.pcOf a
      let s := if forcing then s.spendTake gid false else s
      let s :=
        if 2 ≤ level then
          let mine := hs.map (fun k =>
            let key := s.barrierKey k level num
            (k, pc, key, (s.barrier key).phase))
          s.modTroupe (s.group gid).tid (fun t =>
            { t with arrivals := if t.takesOn then t.arrivals ++ mine else t.arrivals })
        else s
      after (hs.foldl (fun s k => s.arriveAt k level num) s)
    match sc with
    | none => go s
    | some sc => State.orFence gid .barFence (s.release gid sc) go

/-- The arrival of a group at a booth or ring barrier, by the `BAR` at `pc`, that a rollback has kept and to which the group
has not come again (R337): the oldest. -/
def State.keptArrival (s : State) (k pc level num : Nat) : Option (Nat × Nat × Nat × Nat) :=
  (s.troupe (s.group k).tid).replay.find? (fun a => a.1 == k && a.2.1 == pc && a.2.2.1 == s.barrierKey k level num)

/-- A `BAR` whose arrival a rollback has kept has the record of the phase in which its group arrived (R313, R337). -/
def State.replayArrival (s : State) (hs : List Nat) (pc level num : Nat) : State :=
  hs.foldl (fun s k =>
    let key := s.barrierKey k level num
    let tid := (s.group k).tid
    match s.keptArrival k pc level num with
    | none => s
    | some a =>
      let b := s.barrier key
      let s := { s with barriers := tabSet {} s.barriers key { b with records := tabPut b.records k a.2.2.2 } }
      s.modTroupe tid (fun t => { t with replay := t.replay.erase a })) s

/-- The arrival part of a `BAR`, but for the halves whose arrival a rollback has kept (R337). -/
def State.barArriveOnce (s : State) (a : Agent) (gid level num : Nat) (hs : List Nat) (sc : Option Scope)
    (after : State → State) : State :=
  let pc := s.pcOf a
  let fresh := hs.filter (fun k => (s.keptArrival k pc level num).isNone)
  if fresh.isEmpty then after (s.replayArrival hs pc level num)
  else s.barArrive a gid level num fresh sc (fun s => after (s.replayArrival hs pc level num))

/-- The effect of a `BAR` on a handle (R228). -/
def State.bar (s : State) (a : Agent) (gid : Nat) (kind : BarKind) (h : Nat) (sc : Option Scope) : State :=
  match barrierEntry (tabGet 0 (s.world (s.worldOf gid)).handles h) with
  | none => s.trapOpen a 8 0
  | some (level, num) =>
    let hs := s.barHalves gid level num
    let pc := s.pcOf a
    if hs.isEmpty then s.trapOpen a 8 1
    else
      match kind with
      | .wait =>
        let forcing := (sc.map (fun sc => decide (1 ≤ scopeRank sc))).getD false
        if forcing && s.needsTake gid && hs.all (fun k => (s.arrivalOf k level num).isSome) then s.askTake gid
        else s.barWait a gid level num hs sc
      | .arrive => s.barArriveOnce a gid level num hs sc (fun s => s.advance a)
      | .sync =>
        if (s.group gid).resumeWait.contains pc then s.barWait a gid level num hs sc
        else
          s.barArriveOnce a gid level num hs sc (fun s =>
            (s.modGroup gid (fun g => { g with resumeWait := pc :: g.resumeWait })).barWait a gid level num hs sc)

/-- BAR (R227, R228, R313, R315). -/
def execBar (kind : BarKind) (hr : Bool) (handle : BitVec 5) (r : SReg) (sc : Option Scope) (s : State) : Out :=
  let i := Instr.bar kind hr handle r sc
  scalarWord .computeOnly i (fun a s =>
    match a with
    | .group gid =>
      s.afterIssued gid (fun s =>
        let v := s.sreg a r.toNat
        if hr ∧ 32 ≤ v.toNat then s.trap a 2 0 (scalarTval i)
        else
          s.afterParked gid (fun s => s.bar a gid kind (if hr then v.toNat else handle.toNat) sc))
    | _ => s) s

/-! ## SATOM (R234) -/

/-- SATOM (R131, R233, R234, R294, R337). -/
def execSatom (op : AtomOp) (sc : Scope) (d ra rb : SReg) (s : State) : Out :=
  scalarWord .computeOnly (.satom op sc d ra rb) (fun a s =>
    match a with
    | .group gid =>
      let addr := (s.sreg a ra.toNat).toNat
      let v := natBytes 8 (s.sreg a rb.toNat).toNat
      let data := if op = .cas then natBytes 8 (s.sreg a d.toNat).toNat ++ v else v
      if addr % 8 ≠ 0 then s.trap a 3 0 (BitVec.ofNat 64 addr)
      else if s.needsTake gid then s.askTake gid
      else
        s.withRoom gid .atom (fun s =>
          (s.spendTake gid true).issueAccess gid
            { aid := (s.group gid).nextAid, path := .atom, op := .atom op true, space := .mem, size := 8, scope := sc,
              lanes := [{ lane := 64, addr, data }], dest := .sreg d.toNat, pc := (s.group gid).pc,
              laneWord := false })
    | _ => s) s

end Sys2Proof.Machine
end

