-- ==== Sys2Proof/Machine/Engine.lean ====
section
/-! DEFINITION. The engine commands (spec/08_isa_matrix_engines.md R216 to R226): their issue by the scalar stream, and
the events that start and complete them; what the engines read and write in memory and in the scratchpad; collectives
(spec/19_host.md R388, spec/21_slices.md R418). -/

namespace Sys2Proof.Machine

/-! ## Fields of the operands (R218 to R223) -/

/-- The scratchpad offset in a register (R218). -/
def spadOff (v : Word64) : Nat := v.toNat % 2 ^ 32
/-- The span code in a register (R218). -/
def spadSpan (v : Word64) : Nat := bitsOf v.toNat 34 32
/-- Are bits [63:35] of a register that names the scratchpad zero (R218)? -/
def spadRegOk (v : Word64) : Bool := bitsOf v.toNat 63 35 == 0

/-- ROWB of a copy's descriptor (R219). -/
def cpyRowb (b : Word64) : Nat := bitsOf b.toNat 19 0
/-- ROWS. -/
def cpyRows (b : Word64) : Nat := bitsOf b.toNat 31 20
/-- SPITCH. -/
def cpySpitch (b : Word64) : Nat := bitsOf b.toNat 47 32
/-- DPITCH. -/
def cpyDpitch (b : Word64) : Nat := bitsOf b.toNat 63 48

/-- IDX of a gather's or scatter's descriptor (R221). -/
def gthIdx (b : Word64) : Nat := bitsOf b.toNat 31 0
/-- COUNT. -/
def gthCount (b : Word64) : Nat := bitsOf b.toNat 47 32
/-- e, the bytes of an element. -/
def gthElem (b : Word64) : Nat := 2 ^ bitsOf b.toNat 50 48

/-- Does a copy mode read memory, and does it write memory (R219)? -/
def cpyMem : CpyMode → Bool × Bool
  | .ms => (true, false)
  | .sm => (false, true)
  | .mm => (true, true)
  | .ss => (false, false)

/-- The lowest scratchpad offset at or beyond `bound` that a block of rows reaches (R225). -/
def rowsBeyond (bound start rowb rows pitch : Nat) : Option Nat :=
  if rowb = 0 then none
  else
    (List.range rows).findSome? (fun r =>
      let a := start + r * pitch
      if bound < a + rowb then some (max a bound) else none)

/-- The lowest offset at or beyond `bound` of `n` bytes from an offset. -/
def bytesBeyond (bound start n : Nat) : Option Nat := if n ≠ 0 ∧ bound < start + n then some (max start bound) else none

/-! ## Issue (R216, R225) -/

/-- What an issue check finds: class, cause and TVAL of the trap. -/
abbrev IssueTrap := Option (Nat × Nat × Word64)

/-- Checks of `CPY`, and of the copy of `CPYW` (R218, R219, R225). A scratchpad register with a bit of [63:35] set traps with
cause 6 (DESIGN CHOICE, entry 58). -/
def cpyTrap (mode : CpyMode) (d a b : Word64) (bound : Nat) (word : Word64) : IssueTrap :=
  let m := cpyMem mode
  if (!m.1 && !spadRegOk a) || (!m.2 && !spadRegOk d) then some (2, 6, word)
  else
    let src := if m.1 then none else rowsBeyond bound (spadOff a) (cpyRowb b) (cpyRows b) (cpySpitch b)
    let dst := if m.2 then none else rowsBeyond bound (spadOff d) (cpyRowb b) (cpyRows b) (cpyDpitch b)
    match src, dst with
    | some o, _ => some (4, 4, BitVec.ofNat 64 o)
    | none, some o => some (4, 4, BitVec.ofNat 64 o)
    | none, none => none

/-- Checks of the flag of `CPYW` (R220). -/
def flagTrap (f word : Word64) : IssueTrap :=
  let addr := f.toNat % 2 ^ 57
  if 6 ≤ bitsOf f.toNat 59 57 ∨ bitsOf f.toNat 63 60 ≠ 0 then some (2, 6, word)
  else if addr % 8 ≠ 0 then some (3, 0, BitVec.ofNat 64 addr)
  else none

/-- Checks of `GTH` and `SCT` (R218, R221, R225); `spad` is the scratchpad register, `base` the memory one. -/
def gthTrap (spad base b : Word64) (bound : Nat) (word : Word64) : IssueTrap :=
  let e := gthElem b
  if bitsOf b.toNat 63 51 ≠ 0 ∨ 4 < bitsOf b.toNat 50 48 ∨ !spadRegOk spad then some (2, 6, word)
  else if gthIdx b % 4 ≠ 0 then some (3, 0, BitVec.ofNat 64 (gthIdx b))
  else if base.toNat % e ≠ 0 then some (3, 0, base)
  else
    match bytesBeyond bound (gthIdx b) (4 * gthCount b), bytesBeyond bound (spadOff spad) (gthCount b * e) with
    | some o, _ => some (4, 4, BitVec.ofNat 64 o)
    | none, some o => some (4, 4, BitVec.ofNat 64 o)
    | none, none => none

/-- The state of the guard that a command is queued under; without one it may start (R38, R217). -/
def State.guardAt (s : State) (gid : Nat) (k : Option Nat) : GuardSt :=
  match k with
  | some k => (s.guard gid k).st
  | none => .resolvedTrue

/-- Is an engine command one of those that leave the troupe, so that a second take follows it (R337)? -/
def CmdOp.leavesTroupe : CmdOp → Bool
  | .cpy m => (cpyMem m).2
  | .gth => false
  | _ => true

/-- The command enters its queue (R216): the counter of its path rises, and the count of its guard. -/
def State.appendCmd (s : State) (gid : Nat) (p : Path) (op : CmdOp) (d a b f : Word64) (guard : Option Nat) : State :=
  let outside := s.outsideRange gid
  let s := s.modGroup gid (fun g =>
    let n := tabGet 0 g.seqs (pathCode p)
    ({ g with
       engq := g.engq ++ [{ path := p, seq := n, op, d, a, b, f, guard, runsAt := g.runsQueued, aidAt := g.nextAid, outside }]
       seqs := tabSet 0 g.seqs (pathCode p) (n + 1) } : Group).addCount p 1)
  match guard with
  | some k => s.modGuard gid k (fun v => { v with count := v.count + 1 })
  | none => s

/-- Issue of an engine command (R216, R337): its checks, the take it forces, room in the counter and the guard. A command under
a pending guard asks for its second take when it starts (entry 58). -/
def engineWord (i : Instr) (g : Option (BitVec 3)) (p : Path) (op : CmdOp) (d a b : SReg) (forces parked : Bool)
    (check : State → Nat → Word64 → Word64 → Word64 → Word64 → IssueTrap)
    (extra : State → Nat → Word64 → Word64 → Word64) (s : State) : Out :=
  scalarWord .computeOnly i (fun ag s =>
    match ag with
    | .group gid =>
      let vd := s.sreg ag d.toNat
      let va := s.sreg ag a.toNat
      let vb := s.sreg ag b.toNat
      let vf := s.sreg ag (b.toNat + 1)
      let k := g.map BitVec.toNat
      let full : Bool := (k.map (fun k => decide (guardMax ≤ (s.guard gid k).count))).getD false
      match check s gid vd va vb vf with
      | some (cls, cause, tval) => s.trap ag cls cause tval
      | none =>
        let go (s : State) : State :=
          if forces && s.needsTake gid then s.askTake gid
          else
            s.withRoom gid p (fun s =>
              if full then s.waits ag (.guardRoom (k.getD 0) 1)
              else
                let s := if forces then s.spendTake gid (s.guardAt gid k != .pending) else s
                (s.appendCmd gid p op vd va vb (extra s gid va vf) k).advance ag)
        if parked then s.afterParked gid go else go s
    | _ => s) s

/-- CPY (R219, R225). -/
def execCpy (g : Option (BitVec 3)) (mode : CpyMode) (d a b : SReg) (s : State) : Out :=
  let i := Instr.cpy g mode d a b
  engineWord i g .copy (.cpy mode) d a b (cpyMem mode).2 false
    (fun s gid vd va vb _ => cpyTrap mode vd va vb (spadBytes (s.headerOf gid)) (scalarTval i)) (fun _ _ _ _ => 0) s

/-- CPYW (R220, R225). -/
def execCpyw (g : Option (BitVec 3)) (mode : CpyMode) (d a b : SReg) (s : State) : Out :=
  let i := Instr.cpyw g mode d a b
  engineWord i g .copy (.cpyw mode) d a b true false
    (fun s gid vd va vb vf =>
      match cpyTrap mode vd va vb (spadBytes (s.headerOf gid)) (scalarTval i) with
      | some t => some t
      | none => flagTrap vf (scalarTval i)) (fun _ _ _ vf => vf) s

/-- GTH (R221, R225). -/
def execGth (g : Option (BitVec 3)) (d a b : SReg) (s : State) : Out :=
  let i := Instr.gth g d a b
  engineWord i g .gath .gth d a b false false
    (fun s gid vd va vb _ => gthTrap vd va vb (spadBytes (s.headerOf gid)) (scalarTval i)) (fun _ _ _ _ => 0) s

/-- SCT (R221, R225). -/
def execSct (g : Option (BitVec 3)) (d a b : SReg) (s : State) : Out :=
  let i := Instr.sct g d a b
  engineWord i g .gath .sct d a b true false
    (fun s gid vd va vb _ => gthTrap va vd vb (spadBytes (s.headerOf gid)) (scalarTval i)) (fun _ _ _ _ => 0) s

/-- COLL (R222). -/
def execColl (g : Option (BitVec 3)) (mode : CollMode) (d a b : SReg) (s : State) : Out :=
  let i := Instr.coll g mode d a b
  engineWord i g .coll (.coll mode) d a b true true
    (fun _ _ _ _ vb _ => if 5 ≤ bitsOf vb.toNat 19 16 then some (2, 6, scalarTval i) else none) (fun _ _ _ _ => 0) s

/-- The slice at a world's map index (R223, R412). -/
def State.sliceAt (s : State) (w n : Nat) : Option Nat := (s.world w).slices[n]?

/-- BNK (R223): S[SA] is the target, and the message is S[SD] and S[SB]. A target with another bit set raises the illegal-operand
trap with cause 6 (DESIGN CHOICE, entry 58). -/
def execBnk (g : Option (BitVec 3)) (fin : Bool) (d a b : SReg) (s : State) : Out :=
  let i := Instr.bnk g fin d a b
  engineWord i g .bank (.bnk fin) d a b true false
    (fun s gid _ va _ _ =>
      if bitsOf va.toNat 15 8 ≠ 0 ∨ bitsOf va.toNat 63 32 ≠ 0 then some (2, 6, scalarTval i)
      else if (s.sliceAt (s.worldOf gid) (va.toNat % 256)).isNone then some (4, 7, va)
      else none)
    (fun s gid va _ => BitVec.ofNat 64 ((s.sliceAt (s.worldOf gid) (va.toNat % 256)).getD 0)) s

/-! ## What a command moves (R218 to R221) -/

/-- A command as what it does to its destination: its 8-byte words in some order, and the source byte of each byte. -/
structure Plan where
  /-- Does it read memory, does it write memory; otherwise the scratchpad, with the span codes. -/
  srcMem : Bool
  dstMem : Bool
  srcSpan : Nat
  dstSpan : Nat
  /-- The numbers of the destination words (logical byte / 8). -/
  words : List Nat
  /-- The source byte of a destination byte, both logical; none when the command does not write it. -/
  srcOf : Nat → Option Nat
  /-- Does the command read this source byte? -/
  reads : Nat → Bool
  /-- Where a `CPYW` writes its flag. -/
  flag : Option Nat := none

/-- The row of a block that holds a byte, the last of those that do. -/
def rowHolding (start rowb rows pitch x : Nat) : Option Nat :=
  if x < start ∨ rows = 0 ∨ rowb = 0 then none
  else
    let r := if pitch = 0 then rows - 1 else min (rows - 1) ((x - start) / pitch)
    if x < start + r * pitch + rowb then some r else none

/-- The words that a block of rows touches, each once: row `r` brings those that row `r - 1` does not reach. -/
def rowWords (start rowb rows pitch : Nat) : List Nat :=
  if rowb = 0 then []
  else
    (List.range rows).flatMap (fun r =>
      let a := start + r * pitch
      let first := a / 8
      let n := (a + rowb - 1) / 8 + 1 - first
      ((List.range n).map (fun k => first + k)).filter (fun w =>
        r = 0 || decide (start + (r - 1) * pitch + rowb ≤ 8 * w)))

/-- The plan of a copy (R219). -/
def cpyPlan (mode : CpyMode) (c : Cmd) : Plan :=
  let m := cpyMem mode
  let src := if m.1 then c.a.toNat else spadOff c.a
  let dst := if m.2 then c.d.toNat else spadOff c.d
  let n := cpyRowb c.b
  let rows := cpyRows c.b
  { srcMem := m.1, dstMem := m.2, srcSpan := spadSpan c.a, dstSpan := spadSpan c.d,
    words := rowWords dst n rows (cpyDpitch c.b),
    srcOf := fun x => (rowHolding dst n rows (cpyDpitch c.b) x).map (fun r =>
      src + r * cpySpitch c.b + (x - dst - r * cpyDpitch c.b)),
    reads := fun y => (rowHolding src n rows (cpySpitch c.b) y).isSome }

/-- The plan of a gather (R221). -/
def gthPlan (c : Cmd) : Plan :=
  let e := gthElem c.b
  let n := gthCount c.b
  let dst := spadOff c.d
  { srcMem := true, dstMem := false, srcSpan := 0, dstSpan := spadSpan c.d,
    words := rowWords dst (n * e) 1 0,
    srcOf := fun x =>
      if x < dst ∨ dst + n * e ≤ x then none
      else some (c.a.toNat + c.idx.getD ((x - dst) / e) 0 * e + (x - dst) % e),
    reads := fun _ => false }

/-- The plan of a scatter (R221): of the elements at one location, one wins. -/
def sctPlan (c : Cmd) : Plan :=
  let e := gthElem c.b
  let base := c.d.toNat
  { srcMem := false, dstMem := true, srcSpan := spadSpan c.a, dstSpan := 0,
    words := (c.idx.flatMap (fun i => rowWords (base + i * e) e 1 0)).eraseDups,
    srcOf := fun x =>
      if x < base then none
      else
        let at_ := ((indexed c.idx).filter (fun p => p.2 == (x - base) / e)).map (·.1)
        match at_ with
        | [] => none
        | first :: _ =>
          some (spadOff c.a + at_.getD (Config.scatterPick c.tie first % at_.length) first * e + (x - base) % e),
    reads := fun _ => false }

/-- The flag address of a `CPYW` (R220). -/
def flagAddr (c : Cmd) : Nat := c.f.toNat % 2 ^ 57

/-- The plan of a command; `COLL` and `BNK` move no bytes this way. -/
def Cmd.plan (c : Cmd) : Plan :=
  match c.op with
  | .cpy m => cpyPlan m c
  | .cpyw m => { cpyPlan m c with flag := some (flagAddr c) }
  | .gth => gthPlan c
  | .sct => sctPlan c
  | _ => { srcMem := true, dstMem := true, srcSpan := 0, dstSpan := 0, words := [], srcOf := fun _ => none,
           reads := fun _ => false }

/-- Where a logical byte of the plan's source lies: memory, or the physical offset in the scratchpad. -/
def Plan.srcAt (p : Plan) (y : Nat) : Nat := if p.srcMem then y else swz y p.srcSpan
/-- Where a logical byte of the plan's destination lies. -/
def Plan.dstAt (p : Plan) (x : Nat) : Nat := if p.dstMem then x else swz x p.dstSpan

/-- Is a destination byte one of the command's own source bytes (R219)? -/
def Plan.clash (p : Plan) (x : Nat) : Bool :=
  p.srcMem == p.dstMem && p.reads (if p.srcMem then x else swz (p.dstAt x) p.srcSpan)

/-- Does a command write a place: a byte of memory, or of the scratchpad? The flag of a `CPYW` is one of its writes. -/
def Plan.writes (p : Plan) (mem : Bool) (place : Nat) : Bool :=
  (p.dstMem == mem && (p.srcOf (if mem then place else swz place p.dstSpan)).isSome) ||
    (mem && p.flag.any (fun f => inRange f 8 place))

/-! ## Moving words (R224, R225) -/

/-- How an attempt of an engine ends: done, not now, parked on a fault, or a trap. -/
inductive Moved where
  | ok (s : State)
  | busy (s : State)
  | parked (s : State) (fid va : Nat)
  | trap (s : State) (va cause : Nat)

/-- One byte that an engine reads from memory (R224, R337): at its home, with the troupe's own held stores over it. A byte
that the engine's instance has and its home has not is waited for (R287). -/
def State.engineByte (s : State) (gid va : Nat) (who : Faulter) : State × (Byte × Bool) × Option Moved :=
  let w := s.worldOf gid
  let core := s.coreOf gid
  match s.xlate core w va .read with
  | (s, .trap c) => (s, (0, false), some (.trap s va c))
  | (s, .fault) =>
    let q := s.park w va .read who
    (q.1, (0, false), some (.parked q.1 q.2 va))
  | (s, .busy) => (s, (0, false), some (.busy s))
  | (s, .ok pa _ _) =>
    let t := s.troupe (s.group gid).tid
    let held := t.heldByte pa
    if deviceBytes ≤ pa then (s.bumpFree, (held.getD (Config.freeByte (64 * s.free)), t.heldHurt pa false), none)
    else if s.homeBusy w pa false || s.seenBlocks core pa 1 then (s, (0, false), some (.busy s))
    else
      let r := s.homeReadAll w pa 1 (portOf core)
      (r.1, (held.getD (byteAt r.2.1 0), t.heldHurt pa r.2.2), none)

/-- Bytes that an engine reads from memory. -/
def State.engineRead (s : State) (gid : Nat) (who : Faulter) : List Nat → State × List (Byte × Bool) × Option Moved
  | [] => (s, [], none)
  | va :: rest =>
    match s.engineByte gid va who with
    | (s, _, some m) => (s, [], some m)
    | (s, b, none) =>
      match s.engineRead gid who rest with
      | (s, l, m) => (s, b :: l, m)

/-- Consecutive bytes put together: address and bytes, from those in rising order, with their poison. -/
def joinRuns : List (Nat × Byte × Bool) → List (Nat × List Byte × Bool)
  | [] => []
  | (a, b, h) :: l =>
    match joinRuns l with
    | (c, bs, g) :: rest => if c = a + 1 ∧ g = h then (a, b :: bs, h) :: rest else (a, [b], h) :: (c, bs, g) :: rest
    | [] => [(a, [b], h)]

/-- An engine writes bytes of one 8-byte word of memory for a command (R224): at its home, or into the take-hold area
(R337). Memory of a peer device takes them by its port, and acknowledges them (R286). -/
def State.engineWrite (s : State) (gid : Nat) (sc : Scope) (c : Cmd) (l : List (Nat × Byte × Bool)) : Moved :=
  let w := s.worldOf gid
  let core := s.coreOf gid
  let va := (l.map (·.1)).headD 0
  match s.xlate core w va .write with
  | (s, .trap c) => .trap s va c
  | (s, .fault) =>
    let q := s.park w va .write (.engine gid (pathCode c.path) c.seq)
    .parked q.1 q.2 va
  | (s, .busy) => .busy s
  | (s, .ok pa _ _) =>
    let runs := (joinRuns l).map (fun r => (pa + (r.1 - va), r.2))
    if s.takesOn gid then
      let tid := (s.group gid).tid
      if (s.troupe tid).holdFull 8 then .busy (s.askHalt tid .take)
      else
        match runs.foldlM (fun s r => s.holdStore tid { pa := r.1, scope := sc, bytes := r.2.1, poison := r.2.2 }) s with
        | some s => .ok s
        | none => .busy s
    else if deviceBytes ≤ pa then
      .ok { s with engineOut := s.engineOut ++ runs.map (fun r =>
        { gid, aid := 8 * c.seq + pathCode c.path, lane := va + (r.1 - pa), world := w, pa := r.1, bytes := r.2.1, booth := false,
          poison := r.2.2 }) }
    else if s.homeBusy w pa true || s.seenBlocks core pa 8 then .busy s
    else .ok (runs.foldl (fun s r => s.homeWriteAll w r.1 r.2.1 r.2.2 (portOf core)) s)

/-- Has a peer device still to acknowledge a write of a command (R286)? -/
def State.engineWaits (s : State) (gid : Nat) (c : Cmd) : Bool :=
  s.engineOut.any (fun e => e.gid == gid && e.aid == 8 * c.seq + pathCode c.path)

/-- An engine writes bytes of one 8-byte word of the scratchpad, whose segment takes the tag (R202, R218). Poison of the
scratchpad's own that it copies stays the troupe's own (R340). -/
def Troupe.engineWrite (t : Troupe) (span : Nat) (own : Bool) (l : List (Nat × Byte × Bool)) : Troupe :=
  let t := (joinRuns l).foldl (fun t r => (t.spadPut r.1 r.2.1 r.2.2).setTag r.1 span) t
  if own then { t with spadOwn := (l.filter (·.2.2)).map (·.1) ++ t.spadOwn } else t

/-- Move one word of a command's destination (R218, R219, R224); bytes that are the command's own source wait for its
end. -/
def State.moveWord (s : State) (gid : Nat) (c : Cmd) (p : Plan) (w : Nat) : Moved :=
  let who : Faulter := .engine gid (pathCode c.path) c.seq
  let pairs := ((List.range 8).map (fun k => 8 * w + k)).filterMap (fun x =>
    if p.clash x then none else (p.srcOf x).map (fun y => (x, y)))
  if pairs.isEmpty then .ok s
  else
    let t := s.troupe (s.group gid).tid
    let got : State × List (Byte × Bool) × Option Moved :=
      if p.srcMem then s.engineRead gid who (pairs.map (·.2))
      else (s, pairs.map (fun q => (t.spadByte (p.srcAt q.2), t.spadHurt (p.srcAt q.2) 1)), none)
    match got with
    | (_, _, some m) => m
    | (s, l, none) =>
      let bytes := (pairs.zip l).map (fun q => (p.dstAt q.1.1, q.2))
      let own := !p.srcMem && pairs.any (fun q => t.spadOwn.contains (p.srcAt q.2))
      if p.dstMem then s.engineWrite gid .dev c bytes
      else .ok (s.modTroupe (s.group gid).tid (fun t => t.engineWrite p.dstSpan own bytes))

/-- The command of a path with a sequence number. -/
def Group.cmd (g : Group) (p : Path) (seq : Nat) : Option Cmd :=
  g.engq.find? (fun c => c.path == p && c.seq == seq && !c.past)

/-- The started commands of a path before one that are not complete. -/
def Group.cmdsBefore (g : Group) (c : Cmd) : List Cmd :=
  (g.engq.takeWhile (fun x => !(x.path == c.path && x.seq == c.seq))).filter (fun x => x.path == c.path && !x.past)

/-- Does a word of a command have to wait for an earlier one of the path (R224): it reads or writes a byte that the
earlier one writes? -/
def Plan.behind (p q : Plan) (w : Nat) : Bool :=
  ((List.range 8).map (fun k => 8 * w + k)).any (fun x =>
    match p.srcOf x with
    | none => false
    | some y => q.writes p.dstMem (p.dstAt x) || q.writes p.srcMem (p.srcAt y))

/-- The words that remain, or are in a part of the command: position and word. -/
def Cmd.left (c : Cmd) (p : Plan) (lo n : Nat) : List (Nat × Nat) :=
  (indexed p.words).filter (fun x => decide (lo ≤ x.1) && decide (x.1 < lo + n) && !c.moved.contains x.1)

/-- Note that words have been moved. -/
def State.noteMoved (s : State) (gid : Nat) (c : Cmd) (k : Nat) : State :=
  s.modGroup gid (fun g => g.modCmd c.path c.seq (fun c => { c with moved := k :: c.moved }))

/-- A command stops at a fault (R225): bytes it has written stay, its counter falls, the trap is pending. -/
def State.failCmd (s : State) (gid : Nat) (c : Cmd) (va cause : Nat) : State :=
  let s := s.modGroup gid (fun g => g.cmdOver c.path c.seq)
  s.raiseEngine gid 4 cause (BitVec.ofNat 64 va) c.path c.seq

/-- The command parks (R225). -/
def State.parkCmd (s : State) (gid : Nat) (c : Cmd) (fid va : Nat) : State :=
  s.modGroup gid (fun g => g.modCmd c.path c.seq (fun c => { c with parked := some fid, faultVa := va }))

/-- Move words one after another, until one cannot be: the state, and whether all were. -/
def State.moveWords (s : State) (gid : Nat) (c : Cmd) (p : Plan) (older : List Plan) :
    List (Nat × Nat) → State × Bool
  | [] => (s, true)
  | (k, w) :: rest =>
    if older.any (fun q => p.behind q w) then (s, false)
    else
      match s.moveWord gid c p w with
      | .ok s => (s.noteMoved gid c k).moveWords gid c p older rest
      | .busy s => (s, false)
      | .parked s fid va => (s.parkCmd gid c fid va, false)
      | .trap s va cause => (s.failCmd gid c va cause, false)

/-- The destination bytes of a command that are its own source get undefined values (R219): words of them, each once, noted
beyond the positions of the words. -/
def State.clashWords (s : State) (gid : Nat) (c : Cmd) (p : Plan) : List (Nat × Nat) → State × Bool
  | [] => (s, true)
  | (k, w) :: rest =>
    let xs := ((List.range 8).map (fun k => 8 * w + k)).filter (fun x => (p.srcOf x).isSome && p.clash x)
    if xs.isEmpty || c.moved.contains (p.words.length + k) then s.clashWords gid c p rest
    else
      let free := s.free
      let s := s.bumpFree
      let bytes := (indexed xs).map (fun q => (p.dstAt q.2, Config.freeByte (64 * free + q.1), false))
      let m : Moved :=
        if p.dstMem then s.engineWrite gid .dev c bytes
        else .ok (s.modTroupe (s.group gid).tid (fun t => t.engineWrite p.dstSpan false bytes))
      match m with
      | .ok s => (s.noteMoved gid c (p.words.length + k)).clashWords gid c p rest
      | .busy s => (s, false)
      | .parked s fid va => (s.parkCmd gid c fid va, false)
      | .trap s va cause => (s.failCmd gid c va cause, false)

/-- The scope of a code (R189). -/
def scopeOf (n : Nat) : Scope :=
  match n with
  | 0 => .grp
  | 1 => .core
  | 2 => .booth
  | 3 => .die
  | 4 => .dev
  | _ => .sys

/-- The flag write of `CPYW`, after every byte of its copy (R220). -/
def State.writeFlag (s : State) (gid : Nat) (c : Cmd) : State × Bool :=
  let bytes := (indexed (natBytes 8 1)).map (fun p => (flagAddr c + p.1, p.2, false))
  match s.engineWrite gid (scopeOf (bitsOf c.f.toNat 59 57)) c bytes with
  | .ok s => (s, true)
  | .busy s => (s, false)
  | .parked s fid va => (s.parkCmd gid c fid va, false)
  | .trap s va cause => (s.failCmd gid c va cause, false)

/-- A part of a command is moved: may it be, and which of its words (R224, R225)? -/
def State.movePart (s : State) (gid : Nat) (c : Cmd) (lo n : Nat) : State × Bool :=
  let before := (s.group gid).cmdsBefore c
  if !c.started || c.parked.isSome || before.any (fun x => x.parked.isSome) then (s, false)
  else
    let p := c.plan
    s.moveWords gid c p (before.map Cmd.plan) (c.left p lo n)

/-- A command whose bytes have all been moved is complete, when peer devices have acknowledged them (R217, R286). -/
def State.endMove (s : State) (gid : Nat) (c : Cmd) : State :=
  if s.engineWaits gid c then s else s.modGroup gid (fun g => g.cmdOver c.path c.seq)

/-- A command that copies completes: everything that is left of it is moved (R217, R219 to R221). -/
def State.finishMove (s : State) (gid : Nat) (c : Cmd) : State :=
  if c.flagged then s.endMove gid c
  else
    match s.movePart gid c 0 c.plan.words.length with
    | (s, false) => s
    | (s, true) =>
      match s.clashWords gid c c.plan (indexed c.plan.words) with
      | (s, false) => s
      | (s, true) =>
        match c.op with
        | .cpyw _ =>
          if s.engineWaits gid c then s
          else
            match s.writeFlag gid c with
            | (s, false) => s
            | (s, true) =>
              (s.modGroup gid (fun g => g.modCmd c.path c.seq (fun c => { c with flagged := true }))).endMove gid c
        | _ => (s.modGroup gid (fun g => g.modCmd c.path c.seq (fun c => { c with flagged := true }))).endMove gid c

/-! ## Collectives (R222, R388, R418) -/

/-- COMM of a collective's descriptor. -/
def collComm (b : Word64) : Nat := bitsOf b.toNat 15 0
/-- OP. -/
def collOp (b : Word64) : Nat := bitsOf b.toNat 19 16
/-- ROOT. -/
def collRoot (b : Word64) : Nat := bitsOf b.toNat 31 20
/-- COUNT. -/
def collCount (b : Word64) : Nat := bitsOf b.toNat 63 32
/-- Bytes of an element. -/
def collElem (b : Word64) : Nat := if collOp b = 4 then 2 else 4

/-- A world's communicator entry, if it is valid (R388, R418). -/
def State.commOf (s : State) (w handle : Nat) : Option Comm :=
  if handle < 64 then tabGet none (s.world w).comms handle else none

/-- The troupe index of a group within its ring (R418). -/
def State.troupeIndex (s : State) (gid : Nat) : Nat :=
  let t := s.troupe (s.group gid).tid
  let l := s.launch t.lid
  t.x + l.rw * t.y + l.rw * l.rh * t.z

/-- The oldest collective of a group that has started and is not complete. -/
def Group.collCmd (g : Group) : Option Cmd := g.engq.find? (fun c => c.path == .coll && !c.past && c.started)

/-- The group that stands for a local member: one of the world whose started `COLL` names the entry (R418). -/
def State.memberGroup (s : State) (w handle : Nat) (m : CommMember) : Option Nat :=
  (s.groups.map (·.1)).find? (fun k =>
    decide (s.worldOf k = w) && decide (k % 16 = m.grpid) && decide (s.troupeIndex k = m.trp) &&
      (match (s.group k).collCmd with
       | some c => decide (collComm c.b = handle) && !c.accepted
       | none => false))

/-- One step of a collective's reduction, on encodings of an element (R222). The engine reduces with no FMT of a member's:
subnormals are kept, whatever FZ32 and FZ16 say (R60; DESIGN CHOICE, entry 57). -/
def collStep (op a b : Nat) : Nat × Word32 :=
  match op with
  | 0 => fadd32 0 a b
  | 1 => ((a + b) % 2 ^ 32, 0)
  | 2 => fchoose32 0 true a b
  | 3 => fchoose32 0 false a b
  | _ =>
    let x := readVal 0 .bf16 a
    let y := readVal 0 .bf16 b
    xRound .bf16 { rm := 0 } (xAdd false x.1 y.1)

/-- The reduction of the members' elements at one place, in an order that is not fixed (R79, R222). -/
def collReduce (op e free j : Nat) (srcs : List (List Byte)) : List Byte :=
  natBytes e (combineAny (collStep op) 256 (64 * (free + 4 * j)) (srcs.map (fun l => fieldAt l (e * j) e)) 0).1

/-- The reductions of `n` places from place `lo` on. -/
def collReduceAll (op e free lo n : Nat) (srcs : List (List Byte)) : List Byte :=
  (List.range n).flatMap (fun j => collReduce op e free (lo + j) srcs)

/-- Bytes that a member contributes to a collective of `m` members. -/
def collSourceBytes (mode : CollMode) (b : Word64) (m : Nat) : Nat :=
  match mode with
  | .redscat => collCount b * m * collElem b
  | _ => collCount b * collElem b

/-- What member `i` receives (R222). -/
def collResult (mode : CollMode) (b : Word64) (free i : Nat) (srcs : List (List Byte)) : List Byte :=
  let n := collCount b
  match mode with
  | .allred => collReduceAll (collOp b) (collElem b) free 0 n srcs
  | .redscat => collReduceAll (collOp b) (collElem b) free (i * n) n srcs
  | .allgth => srcs.flatten
  | .bcast => srcs.getD (collRoot b) []

/-- The poisoned bytes of what member `i` receives (R339): of a reduction, the elements to which a poisoned one
contributes. -/
def collHurt (mode : CollMode) (b : Word64) (i : Nat) (srcs : List (List Bool)) : List Nat :=
  let n := collCount b
  let e := collElem b
  let place (lo : Nat) : List Nat := (List.range (n * e)).filter (fun j =>
    srcs.any (fun l => (List.range e).any (fun k => l.getD (e * (lo + j / e) + k) false)))
  let marks (l : List Bool) : List Nat := ((indexed l).filter (·.2)).map (·.1)
  match mode with
  | .allred => place 0
  | .redscat => place (i * n)
  | .allgth => marks srcs.flatten
  | .bcast => marks (srcs.getD (collRoot b) [])

/-- The mode of a collective. -/
def Cmd.collMode (c : Cmd) : Option CollMode :=
  match c.op with
  | .coll m => some m
  | _ => none

/-- Do two members' commands match (R222)? -/
def Cmd.matches (c d : Cmd) : Bool :=
  c.collMode == d.collMode && collOp c.b == collOp d.b && collCount c.b == collCount d.b && collRoot c.b == collRoot d.b

/-- A mismatch: the command of each member that has issued one stops (R222). -/
def State.collMismatch (s : State) (ks : List Nat) : State :=
  ks.foldl (fun s k =>
    match (s.group k).collCmd with
    | some c =>
      let s := s.modGroup k (fun g => g.cmdOver .coll c.seq)
      (s.bumpFree).raiseEngine k 4 6 (Config.freeTval s.free) .coll c.seq
    | none => s) s

/-- Read the sources of the members, one after another: those of `bcast` from ROOT alone. -/
def State.collSources (s : State) (mode : CollMode) (root m : Nat) :
    List (Nat × Nat) → State × List (List (Byte × Bool)) × Option (Nat × Moved)
  | [] => (s, [], none)
  | (i, k) :: rest =>
    let c := (s.group k).collCmd
    let n := match c with
      | some c => if mode = .bcast ∧ i ≠ root then 0 else collSourceBytes mode c.b m
      | none => 0
    let base := (c.map (fun c => c.a.toNat)).getD 0
    let seq := (c.map (·.seq)).getD 0
    match s.engineRead k (.engine k 5 seq) ((List.range n).map (fun j => base + j)) with
    | (s, _, some x) => (s, [], some (k, x))
    | (s, l, none) =>
      match s.collSources mode root m rest with
      | (s, ls, x) => (s, l :: ls, x)

/-- Put a member's result into its command, ready to be written. -/
def State.collGive (s : State) (k : Nat) (bytes : List Byte) (hurt : List Nat) : State :=
  match (s.group k).collCmd with
  | some c => s.modGroup k (fun g => g.modCmd .coll c.seq (fun c =>
      { c with contrib := bytes, contribHurt := hurt, accepted := true }))
  | none => s

/-- The collective engine gathers the members' sources and forms the results, when every member has started a matching
`COLL` (R222). Members on peer devices answer by their ports. -/
def State.collGather (s : State) (gid : Nat) (c : Cmd) : State :=
  let w := s.worldOf gid
  match s.commOf w (collComm c.b) with
  | none => s.collMismatch [gid]
  | some comm =>
    let m := comm.members.length
    let locals := comm.members.filter (fun x => x.port == 15)
    let ks := locals.filterMap (fun x => s.memberGroup w (collComm c.b) x)
    if !ks.contains gid then s.collMismatch [gid]
    else if ks.length < locals.length then s
    else if ks.any (fun k => ((s.group k).collCmd.map (fun d => !c.matches d)).getD true) || m ≤ collRoot c.b &&
        c.collMode == some .bcast then s.collMismatch ks
    else if locals.length < m then s
    else if ks.any (fun k => (((s.group k).collCmd).bind (·.parked)).isSome) then s
    else
      let mode := c.collMode.getD .allred
      match s.collSources mode (collRoot c.b) m (indexed ks) with
      | (s, _, some (_, .busy _)) => s
      | (s, _, some (k, .parked _ fid va)) =>
        match (s.group k).collCmd with
        | some d => s.parkCmd k d fid va
        | none => s
      | (s, _, some (k, .trap _ va cause)) =>
        match (s.group k).collCmd with
        | some d => s.failCmd k d va cause
        | none => s
      | (s, _, some (_, .ok _)) => s
      | (s, srcs, none) =>
        let free := s.free
        let s := { s with free := free + 4 * collCount c.b * m + 4 }
        (indexed ks).foldl (fun s p => s.collGive p.2 (collResult mode c.b free p.1 (srcs.map (·.map (·.1))))
          (collHurt mode c.b p.1 (srcs.map (·.map (·.2))))) s

/-- Write a member's result at its destination, an 8-byte word at a time and each once (R222, R224): the state, and whether all
of it was written. -/
def State.collWrite (s : State) (gid : Nat) (c : Cmd) : List (Nat × Nat) → State × Bool
  | [] => (s, true)
  | (k, w) :: rest =>
    let base := c.d.toNat
    let bytes := ((List.range 8).map (fun k => 8 * w + k)).filterMap (fun x =>
      if x < base then none else (c.contrib[x - base]?).map (fun b => (x, b, c.contribHurt.contains (x - base))))
    match (if bytes.isEmpty || c.moved.contains k then Moved.ok s else s.engineWrite gid .dev c bytes) with
    | .ok s => (s.noteMoved gid c k).collWrite gid c rest
    | .busy s => (s, false)
    | .parked s fid va => (s.parkCmd gid c fid va, false)
    | .trap s va cause => (s.failCmd gid c va cause, false)

/-- A `COLL` of a group goes on: the results are formed if they can be, and this member's is written (R222). -/
def State.finishColl (s : State) (gid : Nat) (c : Cmd) : State :=
  let s := if c.accepted then s else s.collGather gid c
  match (s.group gid).cmd .coll c.seq with
  | none => s
  | some c =>
    if !c.accepted || c.parked.isSome then s
    else if c.flagged then s.endMove gid c
    else
      match s.collWrite gid c (indexed (rowWords c.d.toNat c.contrib.length 1 0)) with
      | (s, true) => (s.modGroup gid (fun g => g.modCmd .coll c.seq (fun c => { c with flagged := true }))).endMove gid c
      | (s, false) => s

/-! ## Events -/

/-- Read the index list of a gather or scatter (R221). -/
def State.readIndexes (s : State) (gid : Nat) (c : Cmd) : List Nat :=
  let t := s.troupe (s.group gid).tid
  (List.range (gthCount c.b)).map (fun i => bytesNat (t.spadGet (gthIdx c.b + 4 * i) 4))

/-- Has an earlier command of the path still to write a byte of a command's index list (R224)? -/
def State.indexWaits (s : State) (gid : Nat) (c : Cmd) : Bool :=
  (c.op == .gth || c.op == .sct) && !c.begun && ((s.group gid).cmdsBefore c).any (fun d =>
    (List.range (4 * gthCount c.b)).any (fun i => d.plan.writes false (gthIdx c.b + i)))

/-- ENGINE_COMMAND_START (R217): the first command of a path that has not started does so, or is discarded under its
guard; it waits while the guard is pending, and while an earlier command of the path is parked. One that leaves its troupe and
was under a pending guard when it issued forces its takes now (R337; entry 58). -/
def execEngineCommandStart (gid : Nat) (p : Path) (s : State) : Out :=
  let g := s.group gid
  match g.engq.find? (fun c => c.path == p && !c.past && !c.started) with
  | none => .next s
  | some c =>
    let late := c.op.leavesTroupe && s.takesOn gid && !(s.troupe g.tid).secondTakes.contains gid
    if !s.mayRun gid || (g.cmdsBefore c).any (fun x => x.parked.isSome) then .next s
    else
      match s.guardAt gid c.guard with
      | .pending => .next s
      | .resolvedFalse => .next ((s.dropGuard gid c.guard).modGroup gid (fun g => g.cmdOver p c.seq))
      | .resolvedTrue =>
        if c.outside && !c.delayed && decide (0 < s.rehearsalDelay gid) then
          .next ((s.noteDelay gid).modGroup gid (fun g =>
            g.modCmd p c.seq (fun c => { c with delayed := true, delay := s.rehearsalDelay gid })))
        else if decide (0 < c.delay) || s.indexWaits gid c then .next s
        else if late && s.needsTake gid then .next (s.askTake gid)
        else
          let s := if late then s.spendTake gid true else s
          let idx := if c.begun then c.idx else match c.op with
            | .gth => s.readIndexes gid c
            | .sct => s.readIndexes gid c
            | _ => []
          let tie := if c.begun then c.tie else s.free
          .next ((s.bumpFree.dropGuard gid c.guard).modGroup gid (fun g =>
            g.modCmd p c.seq (fun c => { c with started := true, guard := none, idx, tie })))

/-- ENGINE_COMMAND_COMPLETE (R217, R219 to R222): the oldest command of a path that has started is carried to its end,
or as far as it goes now. A `BNK` is completed by its mailbox. -/
def execEngineCommandComplete (gid : Nat) (p : Path) (s : State) : Out :=
  match (s.group gid).engq.find? (fun c => c.path == p && !c.past && c.started) with
  | none => .next s
  | some c =>
    match c.op with
    | .coll _ => .next (if c.parked.isSome then s else s.finishColl gid c)
    | .bnk _ => .next s
    | _ => .next (s.finishMove gid c)

/-- An engine moves a part of a started command (R224). -/
def State.moveSome (s : State) (gid : Nat) (p : Path) (seq lo n : Nat) : State :=
  match (s.group gid).cmd p seq with
  | some c => (s.movePart gid c lo n).1
  | none => s

/-- The meta word of a message, without VALID (R254). -/
def State.metaWord (s : State) (gid : Nat) (c : Cmd) (fin : Bool) : Word64 :=
  let t := s.troupe (s.group gid).tid
  BitVec.ofNat 64 (packBits [(coreX t.core, 0), (coreY t.core, 5), (t.z, 10), (gid % 16, 12),
    (bitsOf c.a.toNat 31 16, 16), (c.seq % 65536, 32), (if fin then 1 else 0, 48)])

/-- MAILBOX_ACCEPT (R223, R254, R257): the oldest started `BNK` of a group arrives at its mailbox, which stores the
message, or refuses it on its key identifier; a full mailbox holds the command. -/
def execMailboxAccept (gid : Nat) (s : State) : Out :=
  match (s.group gid).engq.find? (fun c => c.path == .bank && !c.past && c.started && !c.accepted) with
  | none => .next s
  | some c =>
    let w := s.worldOf gid
    let sl := sliceOfPa (s.forwardPa (c.f.toNat * sliceBytes))
    let fin := decide (c.op = .bnk true)
    if (s.slice sl).owner ≠ some w ∨ (s.ownerKey sl).isNone = true then
      let s := s.contain sl w { cause := 1, keyid := s.keyOf w }
      let s := s.modGroup gid (fun g => g.cmdOver .bank c.seq)
      .next (s.raiseEngine gid 4 8 c.a .bank c.seq)
    else if mailboxMax ≤ (s.bdc sl).mbx.length then .next s
    else
      let m : Msg := { w0 := c.d, w1 := c.b, info := s.metaWord gid c fin, gid, seq := c.seq }
      let s := s.modBdc sl (fun b => { b with mbx := b.mbx ++ [m] })
      if fin then .next (s.modGroup gid (fun g => g.modCmd .bank c.seq (fun c => { c with accepted := true })))
      else .next (s.modGroup gid (fun g => g.cmdOver .bank c.seq))

end Sys2Proof.Machine
end

