-- ==== Sys2Proof/Machine/Service.lean ====
section
/-! DEFINITION. What the launch units, the stage managers and the scheduler do for the events: the launch unit's reads
and writes (spec/19_host.md R438), the service of faults (spec/11_memory.md R304, spec/19_host.md R384, R385), the reason
that a stalled group reports (spec/10_scheduling.md R273), halting, saving and restoring (spec/13_faults.md R333, R334,
spec/11_memory.md R305, spec/08_isa_matrix_engines.md R226), and the release of held stores (spec/13_faults.md R337). -/

namespace Sys2Proof.Machine

/-! ## The launch unit's accesses (R438) -/

/-- How a read or write of the launch unit ends. -/
inductive Got where
  | bytes (l : List Byte)
  | failed (va : Nat)
  | parked
  | busy
  deriving DecidableEq, Repr

/-- The launch unit's access to an address parks (R438). -/
def State.unitParks (s : State) (w va : Nat) (k : AccKind) (who : Faulter) : State × Got :=
  let s := match who with
    | .launch lid => s.modLaunch lid (fun l => { l with asked := va })
    | _ => s
  ((s.park w va k who).1, .parked)

/-- One piece of a read of the launch unit, within one sector. Whether a read of poisoned bytes can complete is left open: it
does, and the bytes count as they are (R115, R339; DESIGN CHOICE, entry 57). -/
def State.unitPiece (s : State) (w va n : Nat) (who : Faulter) : State × Got :=
  match s.xlateLaunch w va .read with
  | (s, .trap _) => (s, .failed va)
  | (s, .fault) => s.unitParks w va .read who
  | (s, .busy) => (s, .busy)
  | (s, .ok pa _ _) =>
    if deviceBytes ≤ pa then
      let r := s.freeBytes n
      (r.1, .bytes r.2)
    else if s.homeBusy w pa false then (s, .busy)
    else
      let r := s.homeReadAll w pa n
      (r.1, .bytes r.2.1)

/-- A read of the launch unit, through the world's tables. -/
def State.unitRead (s : State) (w va n : Nat) (who : Faulter) : State × Got :=
  (chunks n va n).foldl (fun (r : State × Got) c =>
    match r.2 with
    | .bytes l =>
      match r.1.unitPiece w c.1 c.2 who with
      | (s, .bytes m) => (s, .bytes (l ++ m))
      | q => q
    | _ => r) (s, .bytes [])

/-- A write of the launch unit within one sector, through the world's tables. -/
def State.unitWrite (s : State) (w va : Nat) (l : List Byte) (who : Faulter) : State × Got :=
  match s.xlateLaunch w va .write with
  | (s, .trap _) => (s, .failed va)
  | (s, .fault) => s.unitParks w va .write who
  | (s, .busy) => (s, .busy)
  | (s, .ok pa _ _) =>
    if deviceBytes ≤ pa then (s, .bytes [])
    else if s.homeBusy w pa true then (s, .busy)
    else (s.homeWriteAll w pa l false, .bytes [])

/-- Does an access of the launch unit wait for a fault's service? -/
def State.unitParked (s : State) (w : Nat) (who : Faulter) : Bool :=
  (s.world w).faults.any (fun f => f.who.contains who)

/-! ## Launch queues (R379, R380) -/

/-- Slots of a ring: 2^(DEPTH+2) (R379). -/
def RingCfg.size (r : RingCfg) : Nat := 2 ^ (min r.depth 10 + 2)
/-- Entries between head and tail. -/
def RingCfg.held (r : RingCfg) : Nat := (r.tail - r.head).toNat
/-- Launch queue `q` of a world. -/
def World.lq (w : World) (q : Nat) : RingCfg := tabGet {} w.lqs q
/-- Change a launch queue. -/
def State.modLq (s : State) (w q : Nat) (f : RingCfg → RingCfg) : State :=
  s.modWorld w (fun v => { v with lqs := tabSet {} v.lqs q (f (v.lq q)) })

/-- A launch queue stops, with an entry of KIND 0x14 (R380, R387, R438). -/
def State.stopQueue (s : State) (w q reason value : Nat) : State :=
  let r := (s.world w).lq q
  let s := s.modLq w q (fun r => { r with err := true })
  s.log w (s.logHead 0x14 w 0 |||
    packBits [(q, 128), (reason, 130), (value % 2 ^ 32, 160), (r.tail.toNat, 192), (r.head.toNat, 224)])

/-! ## Faults and their service (R304, R384, R385) -/

/-- Retranslate a parked access after its service (R304); what cannot be translated now stays untranslated. -/
def State.retranslate (s : State) (gid aid : Nat) : State :=
  match (s.group gid).acc aid with
  | none => s
  | some a =>
    match s.translateLanes gid a with
    | none => s
    | some (s, a') => s.modGroup gid (fun g => g.modAcc aid (fun _ => a'))

/-- A fetch that was refused its service ends in the protection trap (R303, R304). -/
def State.refuseFetch (s : State) (gid : Nat) (lane : Bool) (page : Nat) : State :=
  if lane then
    let a := s.headAddr gid
    (s.modGroup gid (fun g => { g with lwait := none })).raiseLane gid false
      { cls := 4, cause := 9, tval := BitVec.ofNat 64 (if a / 65536 = page then a else 65536 * page) }
  else
    let pc := (s.group gid).pc
    let s := s.modGroup gid (fun g => { g with wait := none })
    if s.defers gid then s.deliverDeferred gid else s.takeTrap gid { cls := 4, cause := 9, tval := BitVec.ofNat 64 pc } pc

/-- A service tells one of those that wait for it (R304, R438): granted, or refused. -/
def State.answerOne (s : State) (w : Nat) (f : FaultRec) (ok : Bool) (x : Faulter) : State :=
  match x with
  | .access gid aid lane =>
    let s := s.modGroup gid (fun g => g.modAcc aid (fun a => a.modLane lane (fun l =>
      match l.stage with
      | .parked _ => { l with stage := if ok then .untranslated else .refused 9 }
      | _ => l)))
    if ok then s.retranslate gid aid else s
  | .fetch gid lane =>
    if !s.live gid then s
    else if lane then
      if (s.group gid).lwait ≠ some .fetch then s
      else if ok then s.modGroup gid (fun g => { g with lwait := none })
      else s.refuseFetch gid true f.page
    else if (s.group gid).wait ≠ some .fetch then s
    else if ok then s.modGroup gid (fun g => { g with wait := none })
    else s.refuseFetch gid false f.page
  | .engine gid path seq =>
    match (s.group gid).engq.find? (fun c => pathCode c.path == path && c.seq == seq && !c.past) with
    | none => s
    | some c =>
      let s := s.modGroup gid (fun g => g.modCmd c.path seq (fun c => { c with parked := none }))
      if ok then s else s.failCmd gid c c.faultVa 9
  | .launch lid => if ok then s else s.modLaunch lid (fun l => { l with denied := some l.asked })
  | .slot q => if ok then s else s.stopQueue w q 1 ((s.world w).lq q).head.toNat

/-- The service of a fault ends: granted, or refused (R304). -/
def State.answer (s : State) (w : Nat) (f : FaultRec) (ok : Bool) : State :=
  let s := s.modWorld w (fun v => { v with faults := v.faults.filter (fun r => r.seq != f.seq) })
  f.who.foldl (fun s x => s.answerOne w f ok x) s

/-- The 32 bytes of a fault record (R385). -/
def FaultRec.bytes (f : FaultRec) : List Byte :=
  natBytes 8 f.va ++ natBytes 1 f.kind ++ natBytes 3 f.desc ++ natBytes 4 f.seq ++ natBytes 16 0

/-- Write a fault record to the fault queue, if it can be (R385, R439); otherwise it is held. -/
def State.postFault (s : State) (w : Nat) (f : FaultRec) : State :=
  let v := s.world w
  if f.posted || !v.fq.en || v.fq.err || decide (v.fq.size ≤ v.fq.held) then s
  else
    let at_ := v.fq.base + 32 * (v.fq.tail.toNat % v.fq.size)
    if s.hostFails.contains at_ then (s.hostFailed at_).modWorld w (fun v => { v with fq := { v.fq with err := true } })
    else
      (s.setHostBytes at_ f.bytes).modWorld w (fun v =>
        { v with
          fq := { v.fq with tail := v.fq.tail + 1 }
          faults := v.faults.map (fun r => if r.seq = f.seq then { r with posted := true } else r) })

/-- Write every held fault record that can be written, the oldest first (R439). -/
def State.postFaults (s : State) (w : Nat) : State := ((s.world w).faults).foldl (fun s f => s.postFault w f) s

/-- The physical address of the level-0 entry for an address, if tables reach it (R300): none when an upper entry is not
that of a table. The outer result is none when an entry cannot be read now. -/
def State.entryAt (s : State) (w va : Nat) : Nat → Nat → State × Option (Option Nat)
  | 0, table => (s, some (some (table + 8 * levelIndex 0 va)))
  | k + 1, table =>
    match s.readEntry w (table + 8 * levelIndex (k + 1) va) with
    | (s, none) => (s, none)
    | (s, some e) =>
      if !bitOf e 0 || bitOf e 1 || entryBad (k + 1) e || !s.ownsRange w (entryFrame e) (tableBytes (k + 1)) then
        (s, some none)
      else s.entryAt w va k (entryFrame e)

/-- The next frame of a world's free-frame pool (R384, R417): none when the pool is empty; the outer result is none when
the list cannot be read now. -/
def State.poolFrame (s : State) (w : Nat) : State × Option (Option Nat) :=
  let v := s.world w
  match tabGet none v.areas 3 with
  | none => (s, some none)
  | some a =>
    match s.readEntry w a.base with
    | (s, none) => (s, none)
    | (s, some n) =>
      if min n ((a.bytes - 8) / 8) ≤ v.poolUsed then (s, some none)
      else
        match s.readEntry w (a.base + 8 + 8 * v.poolUsed) with
        | (s, none) => (s, none)
        | (s, some f) => (s, some (some f))

/-- Zero a frame of 64 KiB at its homes. -/
def State.zeroFrame (s : State) (w f : Nat) : State :=
  (List.range 1024).foldl (fun s i => s.homeWriteAll w (f + 64 * i) (List.replicate 64 0) false) s

/-- What a page's own entry says, if tables reach it (R301): is it valid? None when it cannot be read now. -/
def State.pageMapped (s : State) (w va : Nat) : State × Option Bool :=
  match s.xlateLaunch w va .read with
  | (s, .fault) => (s, some false)
  | (s, .busy) => (s, none)
  | (s, _) => (s, some true)

/-- The stage manager's service of a fault (R384): a zeroed frame of the pool is mapped, readable and writable, and
executable for a fetch (entry 22); without a frame, or without a table to hold the entry, the fault is refused. A page that
has been mapped meanwhile needs none: what parked on it is translated again (R304, R307). -/
def State.serveFault (s : State) (w : Nat) (f : FaultRec) : State :=
  match s.pageMapped w (65536 * f.page), tabGet none (s.world w).areas 4 with
  | (s, none), _ => s
  | (s, some true), _ => s.answer w f true
  | (s, some false), none => s.answer w f false
  | (s, some false), some root =>
    match s.entryAt w (65536 * f.page) 3 root.base with
    | (s, none) => s
    | (s, some none) => s.answer w f false
    | (s, some (some e)) =>
      match s.poolFrame w with
      | (s, none) => s
      | (s, some none) => s.answer w f false
      | (s, some (some frame)) =>
        if frame % 65536 ≠ 0 ∨ s.ownsRange w frame 65536 = false then s.answer w f false
        else if s.homeBusy w e true || s.rangeBusy w frame 65536 then s
        else
          let s := s.zeroFrame w frame
          let entry := frame + 7 + (if f.kind = 2 then 8 else 0)
          let s := s.homeWriteAll w e (natBytes 8 entry) false
          (s.modWorld w (fun v => { v with poolUsed := v.poolUsed + 1 })).answer w f true

/-- Is a lane of the access parked? -/
def Access.isParked (a : Access) : Bool := a.lanes.any LaneAcc.isParked

/-! ## Held stores (R337) -/

/-- A held store leaves the hold area, to be performed at its own scope (R277, R337): in the L1, or by way of the write
buffer. None while the L1 cannot take it. -/
def State.releaseStore (s : State) (tid i : Nat) (h : HeldStore) : Option State :=
  let t := s.troupe tid
  let w := (s.launch t.lid).world
  let out : WEntry :=
    { gid := 16 * tid, aid := i, lane := 1000, world := w, pa := h.pa, bytes := h.bytes, booth := decide (h.scope = .booth),
      side := 2, poison := h.poison }
  let send (s : State) : State := s.modCore t.core (fun c => { c with wbuf := c.wbuf ++ [out] })
  if scopeRank h.scope ≤ 1 then s.l1Store t.core w h.pa h.bytes h.scope h.poison
  else if h.scope = .booth then (s.l1Store t.core w h.pa h.bytes .booth h.poison).map send
  else some (send (s.modCore t.core (fun c => c.l1Update h.pa h.bytes)))

/-- The held stores of a troupe are released in their order of issue: none while one of them cannot be. -/
def State.releaseHold (s : State) (tid : Nat) : Option State :=
  ((indexed (s.troupe tid).hold).foldlM (fun (s : State) p => s.releaseStore tid p.1 p.2) s).map (fun s =>
    s.modTroupe tid (fun t => { t with hold := [] }))

/-- Is every store that a take of the troupe has released performed? -/
def State.released (s : State) (tid : Nat) : Bool :=
  s.cores.all (fun p => p.2.wbuf.all (fun e => !(e.side == 2 && e.gid == 16 * tid)))

/-! ## Halting (R333) -/

/-- Has a part of an access that is not performed bytes in common with a later access (R283)? -/
def Access.meets (b a : Access) : Bool :=
  b.space == a.space && b.lanes.any (fun m => !m.ended && a.lanes.any (fun l => touches a.space m b.part l a.part))

/-- Does the order of their path hold an access back behind an earlier one that does not go on (R283, R288): on LS a load
behind a load, a store behind a store and a store behind a load that is not itself parked, and on any path one with common
bytes? -/
def Access.heldBehind (a b : Access) : Bool :=
  a.path == b.path && !a.left &&
    (if a.path = .ls then
       if a.op = .store then b.op == .store || !b.parkedApart a else b.op != .store
     else b.meets a)

/-- The accesses of a group that cannot go on before a fault is served: those that park, and those behind them in the order of
their path, which are withdrawn with them (R305). -/
def Group.stuck (g : Group) : List Access :=
  g.accs.foldl (fun l a => if !a.past && (a.isParked || l.any a.heldBehind) then l ++ [a] else l) []

/-- Is an access of the group held behind one that parks? -/
def Group.behindParked (g : Group) (a : Access) : Bool := g.stuck.any (fun b => b.aid == a.aid)

/-- Words of a command's destination that lie in a page of 4 KiB. -/
def Plan.pageWords (p : Plan) (page : Nat) : List Nat :=
  ((indexed p.words).filter (fun x => x.2 / 512 == page)).map (·.1)

/-- Does a command that is asked to stop stand at a boundary of 4 KiB (R226)? Boundaries are those of its destination: every
page of 4 KiB has all of its words written, or none (DEDUCED, entry 57). One that is parked, or behind one that is, goes no
further. -/
def Group.cmdStops (g : Group) (c : Cmd) : Bool :=
  c.past || !c.started || c.parked.isSome || (g.cmdsBefore c).any (fun x => x.parked.isSome) ||
    (match c.op with
     | .coll _ => true
     | .bnk _ => true
     | _ =>
       let p := c.plan
       let pages := (c.moved.filterMap (fun k => (p.words[k]?).map (· / 512))).eraseDups
       (c.moved.isEmpty || pages.all (fun n => (p.pageWords n).all (fun k => c.moved.contains k))) &&
         !c.flagged)

/-- Has a group drained, as far as its accesses, commands and matrix forms go (R333)? -/
def State.drained (s : State) (gid : Nat) : Bool :=
  let g := s.group gid
  let c := s.group (s.ctxOf gid)
  let core := s.core (s.coreOf gid)
  !s.inArray gid && g.engq.all g.cmdStops &&
    g.accs.all (fun a => a.past ||
      (!core.holdsEntry gid a.aid &&
        (g.behindParked a || g.inTranslation c a.aid || a.lanes.all (fun l =>
          match l.stage with
          | .done => true
          | .parked _ => true
          | .refused _ => true
          | _ => false))))

/-- Have all groups of a troupe drained? -/
def State.troupeDrained (s : State) (tid : Nat) : Bool := (s.groupsOf tid).all s.drained

/-- The instructions of both streams that wait for their translation are taken back (R120, R193, R327). -/
def State.takeBack (s : State) (gid : Nat) : State := (s.takeBackWord gid false).takeBackWord gid true

/-- An access as it is withdrawn: what is not done, and not refused, is to be translated again (R305). -/
def Access.withdraw (a : Access) : Access :=
  let again (l : LaneAcc) : LaneAcc :=
    match l.stage with
    | .parked _ => { l with stage := .untranslated }
    | .ready => { l with stage := .untranslated }
    | _ => l
  if a.space = .mem ∨ a.space = .konst then { a with lanes := a.lanes.map again } else a

/-- The engine commands of a group stop or detach (R226). -/
def Cmd.halt (c : Cmd) : Cmd :=
  if c.past || !c.started then c
  else
    match c.op with
    | .coll _ => { c with detached := true }
    | .bnk _ => if c.accepted then { c with detached := true } else { c with started := false }
    | _ => { c with started := false, parked := none, begun := true }

/-- A fetch or a command of the group leaves the fault records (R305). -/
def State.leaveFaults (s : State) (gid : Nat) : State :=
  let stays (x : Faulter) : Bool :=
    match x with
    | .fetch k _ => k != gid
    | .engine k p _ => k != gid || p == 5
    | _ => true
  s.modWorld (s.worldOf gid) (fun v =>
    { v with
      faults := (v.faults.map (fun f => { f with who := f.who.filter stays })).filter
        (fun f => !f.who.isEmpty || f.posted) })

/-- The eight paths. -/
def allPaths : List Path := [.ls, .const, .mtx, .copy, .gath, .coll, .bank, .atom]

/-- The counters of a group that goes on: its accesses, and its commands that are not detached (R226, R305). -/
def Group.recount (g : Group) : Group :=
  { g with
    ifc := allPaths.foldl (fun t p =>
      tabSet 0 t (pathCode p) ((g.engq.filter (fun c => c.path == p && !c.detached)).length +
        (g.accs.filter (fun a => a.path == p && !a.silent)).length)) [] }

/-- A drained group halts (R226, R305, R333): its waiting instructions are taken back, its parked accesses are withdrawn
and its commands stop or detach; its counters are 0 (R34). -/
def State.haltGroup (s : State) (gid : Nat) : State :=
  let s := (s.takeBack gid).leaveFaults gid
  let out := (s.group gid).accs.filter (fun a => !a.past)
  let s := out.foldl (fun s a => s.unpark gid a.aid) s
  let stays (n : Nat) : Bool := (s.group gid).engq.any (fun c => c.halt.detached && 8 * c.seq + pathCode c.path == n)
  let s :=
    { s with
      qmark := s.qmark.filter (fun m => m.1 != 4 * gid && (m.1 != 4 * gid + 1 || stays m.2))
      cmdif := { s.cmdif with wmark := s.cmdif.wmark.filter (fun m => m.1 != gid) } }
  s.modGroup gid (fun g =>
    { g with
      accs := []
      withdrawn := g.withdrawn ++ out.map Access.withdraw
      engq := g.engq.map Cmd.halt
      ifc := []
      ahead := none
      rdv := none
      wait := none
      lwait := none })

/-- A halted group goes on (R226, R305): its withdrawn accesses are issued again in their order, and its detached
commands that are still outstanding count again. -/
def State.resumeGroup (s : State) (gid : Nat) : State :=
  let s := s.modGroup gid (fun g =>
    let back (c : Cmd) : Cmd := { c with detached := false }
    Group.recount
      { g with
        accs := g.withdrawn
        withdrawn := []
        engq := (g.engq.filter (fun (c : Cmd) => !(c.detached && c.past))).map back })
  ((s.group gid).accs.map (·.aid)).foldl (fun s aid => s.retranslate gid aid) s

/-! ## Saving and restoring (R34, R51, R263, R334) -/

/-- Bytes of a troupe slot (R417). -/
def slotBytes : Nat := 0x240000
/-- Where a core's part of the context area has its first troupe slot (R417). -/
def slotsAt : Nat := 0x81000

/-- The troupe slots of a core's part of its world's context area (R265, R417). -/
def State.troupeSlots (s : State) (w c : Nat) : Nat :=
  match s.areaPart w 0 c with
  | some p => (p.2 - slotsAt) / slotBytes
  | none => 0

/-- The slots that saved troupes of a core leave free (R265). -/
def State.freeTroupeSlots (s : State) (w c : Nat) : Nat :=
  s.troupeSlots w c - (s.troupes.filter (fun p => p.2.saved && p.2.core == c && !p.2.retired)).length

/-- The lowest slot of a core's part that holds no saved troupe. -/
def State.openSlot (s : State) (w c : Nat) : Nat :=
  let used := (s.troupes.filter (fun p => p.2.saved && p.2.core == c && !p.2.retired)).map (fun p => p.2.saveSlot)
  ((List.range (s.troupeSlots w c)).find? (fun j => !used.contains j)).getD 0

/-- The physical address of a troupe slot of a core. -/
def State.slotPa (s : State) (w c j : Nat) : Option Nat :=
  if j < s.troupeSlots w c then (s.areaPart w 0 c).map (fun p => p.1 + slotsAt + slotBytes * j) else none

/-- Must the writing or the reading of a troupe's slot wait for a bank (R244)? -/
def State.imageHeld (s : State) (tid j : Nat) : Bool :=
  let w := (s.launch (s.troupe tid).lid).world
  ((s.slotPa w (s.troupe tid).core j).map (fun pa => s.rangeBusy w pa slotBytes)).getD false

/-- A troupe's state is written to a slot of its core's part of the context area (R34, R265, R417); what bytes stand for it
there no rule gives. -/
def State.writeImage (s : State) (tid : Nat) : State :=
  let c := (s.troupe tid).core
  let w := (s.launch (s.troupe tid).lid).world
  let j := s.openSlot w c
  let s := s.modTroupe tid (fun t => { t with saveSlot := j })
  match s.slotPa w c j with
  | some pa => s.writeFree w pa slotBytes (portOf c)
  | none => s

/-- The spilled entries of a group's stack, as positions from the top with their addresses (R51). -/
def State.spilled (s : State) (gid : Nat) : List (Nat × Nat) :=
  let n := (s.group gid).stack.length
  ((List.range n).filter (fun i => decide (stackHeld ≤ i))).filterMap (fun i =>
    (s.spillPa gid (n - 1 - i)).map (fun pa => (i, pa)))

/-- The save copies the spilled entries out of the spill region (R417). -/
def State.fetchSpill (s : State) (gid : Nat) : State :=
  (s.spilled gid).foldl (fun s p =>
    let r := s.homeReadAll (s.worldOf gid) p.2 32 (portOf (s.coreOf gid))
    r.1.modGroup gid (fun g => { g with stack := g.stack.set p.1 (stackEntryOf r.2.1) })) s

/-- Where the entries of a group's stack lie in its spill slot, from the oldest on. -/
def State.stackSlots (s : State) (gid : Nat) : List Nat :=
  (List.range (s.group gid).stack.length).filterMap (fun n => s.spillPa gid n)

/-- A pre-emption writes the entries that a group holds on chip to its spill slot (R51). -/
def State.storeHeld (s : State) (gid : Nat) : State :=
  let st := (s.group gid).stack
  (List.range (min st.length stackHeld)).foldl (fun s i =>
    match st[i]?, s.spillPa gid (st.length - 1 - i) with
    | some e, some pa => s.homeWriteAll (s.worldOf gid) pa e.bytes false (portOf (s.coreOf gid))
    | _, _ => s) s

/-- Does a BSU hold the bank of an entry that a pre-emption writes or reads, so that it waits (R244)? -/
def State.slotsHeld (s : State) (tid : Nat) : Bool :=
  (s.groupsOf tid).any (fun k => (s.stackSlots k).any (fun pa => s.homeBusy (s.worldOf k) pa true))

/-- The restore writes them into the group's new spill slot. -/
def State.storeSpill (s : State) (gid : Nat) : State :=
  (s.spilled gid).foldl (fun s p =>
    match (s.group gid).stack[p.1]? with
    | some e => s.homeWriteAll (s.worldOf gid) p.2 e.bytes false (portOf (s.coreOf gid))
    | none => s) s

/-- Is a spill slot's bank held by a BSU, so that a capture or restore waits (R244)? -/
def State.spillHeld (s t : State) (tid : Nat) : Bool :=
  (t.groupsOf tid).any (fun k => (t.spilled k).any (fun p => s.homeBusy (t.worldOf k) p.2 true))

/-- A group gives up its datapath slice with its slot, and what it waits for stays in its cue-sheet record (R268, R320). -/
def Group.unseat (g : Group) : Group :=
  { g with
    cueWait := g.wait
    cueLwait := g.lwait
    cueRdv := g.rdv
    laneq := match g.laneq with
      | [] => []
      | r :: l => { r with slice := none, eligible := none, promoted := none } :: l }

/-- A group that is seated again has no old record. -/
def Group.reseat (g : Group) : Group := { g with cueWait := none, cueLwait := none, cueRdv := none }

/-- A troupe whose groups have drained is saved (R263, R334): it gives up its slots and enters the wait list. -/
def State.saveTroupe (s : State) (tid : Nat) : State :=
  let gs := s.groupsOf tid
  let s := gs.foldl (fun s k => (((s.modGroup k Group.unseat).haltGroup k).storeHeld k).fetchSpill k) s
  let s := s.writeImage tid
  let s := s.modCore (s.troupe tid).core (fun c =>
    { c with
      slots := c.slots.filter (fun p => !gs.contains p.2)
      waitList := c.waitList ++ [tid] })
  s.modTroupe tid (fun t =>
    { t with resident := false, saved := true, halting := none, landing := false, waited := 0, entered := s.now, reached := none,
             blockedSince := none })

/-- Free group slots of a quarter for a kernel: numbers below G(W, R) (R56, R57). -/
def Core.freeSlots (c : Core) (h : Header) (q : Nat) : List Nat :=
  (List.range (min 16 (65536 / (h.w * h.r)))).filter (fun j => (tabFind c.slots (16 * q + j)).isNone)

/-- The quarter of group `i` of a troupe (R30, R31). -/
def quarterOf (h : Header) (i : Nat) : Nat := if h.twin then i / 2 % 4 else i % 4

/-- A troupe becomes resident (R264, R266): its groups take the lowest free slots of their quarters, and it the lowest free
part of the scratchpad, which no rule names (DESIGN CHOICE, entry 57); a saved one is restored. -/
def State.seatTroupe (s : State) (tid : Nat) : State :=
  let c := (s.troupe tid).core
  let h := ((s.launch (s.troupe tid).lid).hdr).getD noHeader
  let gs := s.groupsOf tid
  let taken := (s.troupes.filter (fun p => p.2.resident && p.2.core == c)).map (fun p => p.2.part)
  let part := ((List.range 4).find? (fun j => !taken.contains j)).getD 0
  let s := gs.foldl (fun s k =>
    let q := quarterOf h (k % 16)
    let j := ((s.core c).freeSlots h q).headD 0
    (s.modCore c (fun v => { v with slots := tabPut v.slots (16 * q + j) k })).modGroup k (fun g =>
      { g with slot := j, quarter := q })) s
  let s := s.modCore c (fun v => { v with waitList := v.waitList.filter (· != tid) })
  let s := s.modTroupe tid (fun t =>
    { t with resident := true, saved := false, everResident := true, waited := 0, reached := none, part,
             residentSince := s.now, blockedSince := none })
  gs.foldl (fun s k => ((s.modGroup k Group.reseat).storeSpill k).resumeGroup k) s

end Sys2Proof.Machine
end

