-- ==== Sys2Proof/Machine/Launch.lean ====
section
/-! DEFINITION. The host's registers and launches (spec/19_host.md R378 to R387, R438, R439): queues and rings, the
launch unit's taking of a record with its checks (spec/05_assembly.md R111 to R115), the placement of a ring
(spec/10_scheduling.md R262), the start of a microkernel (R240, R382) and the completion record (R383). -/

namespace Sys2Proof.Machine

/-! ## Rings and queues (R379, R380, R385, R439) -/

/-- A write to a ring's configuration register (R379, R380, R439). -/
def RingCfg.write (r : RingCfg) (withLoc : Bool) (v : Word64) : RingCfg :=
  let n := v.toNat
  let r := if bitOf n 2 then { r with err := false } else r
  let r :=
    if r.en then r
    else { r with base := bitsOf n 63 12 * 4096, depth := bitsOf n 11 8, loc := withLoc && bitOf n 1 }
  if bitOf n 0 && !r.en then { r with en := true, head := 0, tail := 0 } else { r with en := bitOf n 0 }

/-- LQCFG (R379, R380). -/
def execLqcfg (w q : Nat) (v : Word64) (s : State) : Out :=
  .next (if (s.world w).present && decide (q < 4) then s.modLq w q (fun r => r.write true v) else s)

/-- ELCFG (R439). -/
def execElcfg (w : Nat) (v : Word64) (s : State) : Out :=
  .next (if (s.world w).present then s.modWorld w (fun x => { x with el := x.el.write false v }) else s)

/-- FQCFG (R439): held fault records are written when they can be. -/
def execFqcfg (w : Nat) (v : Word64) (s : State) : Out :=
  .next (if (s.world w).present then (s.modWorld w (fun x => { x with fq := x.fq.write false v })).postFaults w else s)

/-- FQHEAD (R385, R439): the host has consumed records, and held ones are written. -/
def execFqhead (w : Nat) (v : BitVec 32) (s : State) : Out :=
  .next (if (s.world w).present then
    (s.modWorld w (fun x => { x with fq := { x.fq with head := v } })).postFaults w
  else s)

/-- DOORBELL (R380): a new tail count is accepted, or refused with an entry of KIND 0x14. -/
def execDoorbell (w q : Nat) (t : BitVec 32) (s : State) : Out :=
  if (s.world w).present && decide (q < 4) then
    let r := (s.world w).lq q
    let d := (t - r.tail).toNat
    if r.en && !r.err && decide (0 < d) && decide (d ≤ r.size - r.held) then
      .next (s.modLq w q (fun r => { r with tail := t }))
    else .next (s.stopQueue w q 0 t.toNat)
  else .next s

/-- FREPLY (R385): the host's answer to a fault whose record it has; any other sequence number is ignored. -/
def execFreply (w : Nat) (v : Word64) (s : State) : Out :=
  match (s.world w).faults.find? (fun f => f.posted && f.seq == v.toNat % 2 ^ 32) with
  | some f => .next (s.answer w f (v.getLsbD 32))
  | none => .next s

/-! ## Registers of a window (R378, R386, R421, R426, R428 to R431) -/

/-- The 64-bit counter at an offset of the counter area (R386, R429 to R431): none where the window has none. -/
def State.counterAt (s : State) (w off : Nat) : Option Nat :=
  let v := s.world w
  let i := (off - 0x1000) / 8
  let k := (off - 0x1f00) / 16
  if 0x1000 ≤ off ∧ off < 0x1048 then some (tabGet 0 v.counters i).toNat
  else if 0x1100 ≤ off ∧ off < 0x1130 ∧ w = 0 then some (tabGet 0 s.shared ((off - 0x1100) / 8)).toNat
  else if 0x1f00 ≤ off ∧ off < 0x1f80 then
    some (tabGet 0 (if off % 16 < 8 then v.dbg.hits else v.dbg.cycs) k).toNat
  else if 0x1f80 ≤ off ∧ off < 0x1f88 then some v.dbg.inserted.toNat
  else none

/-- COUNTER_READ_LOW (R386): bits [31:0] go to the host, and the whole value into the world's latch. -/
def execCounterReadLow (w off : Nat) (s : State) : Out :=
  match s.counterAt w off with
  | some n =>
    if (s.world w).present && off % 8 == 0 then
      .next { (s.modWorld w (fun v => { v with latch := BitVec.ofNat 64 n })) with bus := n % 2 ^ 32 }
    else .next { s with bus := 0 }
  | none => .next { s with bus := 0 }

/-- Change the debug registers of a world. -/
def State.modDbg (s : State) (w : Nat) (f : Debug → Debug) : State := s.modWorld w (fun v => { v with dbg := f v.dbg })

/-- A write to the rehearsal registers, which EN shuts (R428). -/
def Debug.writeRehearsal (d : Debug) (off : Nat) (v : Word64) : Debug :=
  if d.rhEn then d
  else if off = 0x9048 then { d with rhLo := v }
  else if off = 0x9050 then { d with rhHi := v }
  else { d with points := tabSet 0 d.points ((off - 0x9060) / 8) v }

/-- REGISTER_WRITE (R378, R390, R408, R421, R426, R428, R434, R439): a register that only holds what is written; a
refused command code; any other offset, and one that the window lacks, ignores the write. -/
def execRegisterWrite (w off : Nat) (v : Word64) (s : State) : Out :=
  let n := v.toNat
  if !(s.world w).present then .next s
  else if off = 0x030c then .next (s.modWorld w (fun x => { x with el := { x.el with head := BitVec.ofNat 32 n } }))
  else if off = 0x9000 then .next (s.modDbg w (fun d => { d with attach := bitOf n 0 }))
  else if off = 0x9008 then .next (s.modDbg w (fun d => { d with launch := n % 2 ^ 32 }))
  else if off = 0x9028 then .next (s.modDbg w (fun d => { d with data := v }))
  else if off = 0x9030 then .next (s.modDbg w (fun d => { d with trctl := n % 16 }))
  else if off = 0x9038 then
    .next (s.modDbg w (fun d => { d with trbase := bitsOf n 63 16 * 65536, trsz := n % 32 }))
  else if off = 0x9048 ∨ off = 0x9050 ∨ (0x9060 ≤ off ∧ off < 0x90a0 ∧ off % 8 = 0) then
    .next (s.modDbg w (fun d => d.writeRehearsal off v))
  else if 0xc000 ≤ off ∧ off < 0xc000 + 8 * (worldCores (s.world w)).length ∧ off < 0xe000 ∧ off % 8 = 0 then
    .next (s.modDbg w (fun d => { d with consumed := tabSet 0 d.consumed ((off - 0xc000) / 8) v }))
  else if w ≠ 0 then .next s
  else if off = 0x2008 then .next { s with cmdif := { s.cmdif with warg0 := v } }
  else if off = 0x2010 then .next { s with cmdif := { s.cmdif with warg1 := v } }
  else if off = 0x2018 then .next { s with cmdif := { s.cmdif with warg2 := v } }
  else if off = 0x2000 then
    let op := n % 256
    .next (if (op = 0 ∨ 0x16 < op) ∧ s.cmdif.wbusy = false then
      { s with cmdif := { s.cmdif with wok := false, werr := 1 } }
    else s)
  else if off = 0x3000 then
    .next (if 4 ≤ n % 16 ∧ s.cmdif.kbusy = false then { s with cmdif := { s.cmdif with kok := false, kerr := 1 } } else s)
  else if off = 0x3008 then .next { s with cmdif := { s.cmdif with karg := v } }
  else if off = 0x8000 then .next { s with cmdif := { s.cmdif with fwaddr := v } }
  else if off = 0x8008 then .next { s with cmdif := { s.cmdif with fwlen := BitVec.ofNat 32 n } }
  else if off = 0x8010 then
    .next (if n % 4 = 0 ∨ n % 4 = 3 then { s with cmdif := { s.cmdif with fwok := false, fwerr := 4 } } else s)
  else .next s

/-! ## The header (R111 to R115) -/

/-- The header that 256 bytes hold (R112). -/
def parseHeader (l : List Byte) : Header :=
  let n := bytesNat l
  let masks (base k : Nat) : Tab Nat := (List.range k).foldl (fun t b =>
    tabSet 0 t b (bitsOf n (base + 16 * b + 15) (base + 16 * b))) []
  { w := 16 * 2 ^ bitsOf n 193 192
    r := 16 * bitsOf n 199 194
    p := 8 * bitsOf n 203 200
    spad := bitsOf n 206 204
    twin := bitOf n 207
    grps := bitsOf n 211 208 + 1
    taken := bitsOf n 223 216
    bw := 2 ^ bitsOf n 249 248
    bh := 2 ^ bitsOf n 251 250
    entry := bitsOf n 287 256
    scodeOff := bitsOf n 319 288
    scodeSize := bitsOf n 351 320
    lcodeOff := bitsOf n 383 352
    lcodeSize := bitsOf n 415 384
    constOff := bitsOf n 447 416
    constSize := bitsOf n 479 448
    dataOff := bitsOf n 511 480
    dataSize := bitsOf n 543 512
    gbar := bitsOf n 547 544
    tbar := masks 576 16
    bbar := masks 832 8
    rbar := masks 960 4
    qprod := (List.range 16).foldl (fun t q => tabSet 0 t q (bitsOf n (1024 + 32 * q + 15) (1024 + 32 * q))) []
    qcons := (List.range 16).foldl (fun t q => tabSet 0 t q (bitsOf n (1024 + 32 * q + 31) (1024 + 32 * q + 16))) [] }

/-- Are the sections well formed (R111)? -/
def sectionsOk (h : Header) : Bool :=
  let secs := [(h.scodeOff, h.scodeSize), (h.lcodeOff, h.lcodeSize), (h.constOff, h.constSize), (h.dataOff, h.dataSize)]
  secs.all (fun p =>
    if p.2 = 0 then p.1 == 0 else p.1 % 256 == 0 && decide (256 ≤ p.1) && decide (p.1 + p.2 ≤ 2 ^ 32)) &&
    (indexed secs).all (fun p => (indexed secs).all (fun q =>
      p.1 == q.1 || p.2.2 == 0 || q.2.2 == 0 || !overlaps p.2.1 p.2.2 q.2.1 q.2.2)) &&
    h.scodeSize % 4 == 0 && h.lcodeSize % 12 == 0

/-- Feature bits that the device has: CAPS (R114). -/
def capsMask : Nat := 0xffff

/-- Checks 1 to 3 of R115, and what check 2 leaves out for a microkernel; 0 when they pass. Reserved bits are those that the
header's map reserves: a FEATURES bit that no feature has meets check 3 (DESIGN CHOICE, entry 58). -/
def headerStatus (micro : Bool) (l : List Byte) : Nat :=
  let n := bytesNat l
  let h := parseHeader l
  if bitsOf n 31 0 ≠ 0x30343846 ∨ bitsOf n 47 32 ≠ 1 ∨ bitsOf n 63 48 ≠ 256 then 1
  else if bitsOf n 215 212 ≠ 0 ∨ bitsOf n 255 252 ≠ 0 ∨ bitsOf n 575 548 ≠ 0 ∨ bitsOf n 2047 1536 ≠ 0 then 2
  else if micro = false ∧ (bitsOf n 193 192 = 3 ∨ h.r = 0 ∨ 384 < h.r ∨ h.p = 0 ∨ 96 < h.p) then 2
  else if sectionsOk h = false ∨ h.entry % 4 ≠ 0 ∨ h.scodeSize ≤ h.entry then 2
  else if micro = true ∧ localBytes < h.dataSize then 2
  else if bitsOf n 191 64 &&& (2 ^ 128 - 1 - capsMask) ≠ 0 then 3
  else 0

/-- Check 4 of R115. -/
def groupsOk (h : Header) : Bool :=
  let inside (t : Tab Nat) : Bool := t.all (fun p => decide (p.2 < 2 ^ h.grps))
  (!h.twin || h.grps % 2 == 0) && inside h.tbar && inside h.bbar && inside h.rbar && inside h.qprod && inside h.qcons &&
    (List.range 16).all (fun q => (tabGet 0 h.qprod q == 0) == (tabGet 0 h.qcons q == 0))

/-- Slots that a troupe needs in a quarter (R57). -/
def slotsNeeded (h : Header) (q : Nat) : Nat :=
  ((List.range h.grps).filter (fun i => quarterOf h i == q)).length

/-- Group allocations of a quarter: G(W, R) (R56). -/
def groupsFit (h : Header) : Nat := min 16 (65536 / (h.w * h.r))

/-- Check 6 of R115: one troupe fits on an empty core. -/
def troupeFits (h : Header) : Bool := (List.range 4).all (fun q => decide (slotsNeeded h q ≤ groupsFit h))

/-- The cores of a ring at an origin. -/
def ringCores (l : Launch) (ox oy : Nat) : List Nat := rectCores { x := ox, y := oy, w := l.rw, h := l.rh }

/-- Has every core of a ring at an origin a part of the context area (R417)? -/
def State.partsOk (s : State) (l : Launch) (ox oy : Nat) : Bool :=
  (ringCores l ox oy).all (fun c => (s.areaPart l.world 0 c).isSome)

/-- Does the ring fit in a rectangle at an origin? -/
def ringIn (l : Launch) (r : Rect) (ox oy : Nat) : Bool :=
  decide (r.x ≤ ox) && decide (ox + l.rw ≤ r.x + r.w) && decide (r.y ≤ oy) && decide (oy + l.rh ≤ r.y + r.h)

/-- The candidate origins of a ring, in scan order (R262), with a context part on every core (R115, R417). -/
def State.origins (s : State) (l : Launch) : List (Nat × Nat) :=
  ((s.world l.world).rects.flatMap (fun r =>
    (rectCores r).filterMap (fun c =>
      if ringIn l r (coreX c) (coreY c) then some (coreX c, coreY c) else none))).filter (fun o => s.partsOk l o.1 o.2)

/-- Check 5 of R115. -/
def State.placeOk (s : State) (l : Launch) (h : Header) (raw : Nat) : Bool :=
  decide (l.rw ≤ bitsOf raw 231 224) && decide (l.rh ≤ bitsOf raw 239 232) && decide (l.rz ≤ bitsOf raw 247 240) &&
    l.rw % h.bw == 0 && l.rh % h.bh == 0 &&
    (if l.onamed then (s.world l.world).rects.any (fun r => ringIn l r l.ox l.oy) && s.partsOk l l.ox l.oy
     else !(s.world l.world).assisted 6 && !(s.origins l).isEmpty)

/-- The status of a launch, once its header has been read (R115). -/
def State.launchStatus (s : State) (l : Launch) (raw : List Byte) : Nat :=
  let h := parseHeader raw
  let first := headerStatus l.micro raw
  if first ≠ 0 then first
  else if l.micro then (if bitOf (bytesNat raw) 78 then 0 else 4)
  else if !groupsOk h then 4
  else if !s.placeOk l h (bytesNat raw) then 5
  else if !troupeFits h then 6
  else 0

/-! ## Taking a launch (R260, R381, R438) -/

/-- The record of a slot as a launch, before its checks (R381). -/
def recordOf (w q seq now : Nat) (l : List Byte) : Launch :=
  let flags := fieldAt l 30 1
  { world := w, seq, queue := q
    obj := fieldAt l 0 8
    args := BitVec.ofNat 64 (fieldAt l 8 8)
    cpl := fieldAt l 16 8
    micro := fieldAt l 24 1 == 1
    rw := fieldAt l 25 1
    rh := fieldAt l 26 1
    rz := fieldAt l 27 1
    onamed := bitOf flags 0
    ox := fieldAt l 28 1
    oy := fieldAt l 29 1
    serial := bitOf flags 1
    slice := fieldAt l 31 1
    hoff := fieldAt l 32 4
    tag := fieldAt l 36 4
    taken := now }

/-- The record's own checks (R381). -/
def State.recordOk (s : State) (w : Nat) (l : List Byte) : Bool :=
  let kind := fieldAt l 24 1
  let r := recordOf w 0 0 0 l
  fieldAt l 30 1 / 4 == 0 && bytesNat (l.drop 40) == 0 && r.obj % 256 == 0 &&
    (if kind = 0 then
      decide (1 ≤ r.rw) && decide (r.rw ≤ 32) && decide (1 ≤ r.rh) && decide (r.rh ≤ 28) && decide (1 ≤ r.rz) &&
        decide (r.rz ≤ 4) && r.slice == 0
     else if kind = 1 then
      decide (r.args.toNat < 65536) && r.rw == 0 && r.rh == 0 && r.rz == 0 &&
        decide (r.slice < (s.world w).slices.length)
     else false)

/-- A launch ends before it has begun, with a status (R115). -/
def State.refuseLaunch (s : State) (lid status : Nat) : State :=
  s.modLaunch lid (fun l => { l with ended := true, failed := true, status })

/-- The launch unit reads the header of a taken launch and checks it (R115, R438). -/
def State.readHeader (s : State) (lid : Nat) : State :=
  let l := s.launch lid
  if s.unitParked l.world (.launch lid) then s
  else if l.denied.isSome then (s.modLaunch lid (fun l => { l with denied := none })).refuseLaunch lid 1
  else
    match s.unitRead l.world l.obj 256 (.launch lid) with
    | (s, .bytes raw) =>
      let st := s.launchStatus l raw
      if st ≠ 0 then s.refuseLaunch lid st else s.modLaunch lid (fun l => { l with hdr := some (parseHeader raw) })
    | (s, .failed _) => s.refuseLaunch lid 1
    | (s, .parked) => s
    | (s, .busy) => s

/-- A launch of the world whose header the launch unit is still to read. -/
def State.unread (s : State) (w : Nat) : Option Nat :=
  (s.launches.find? (fun p => p.2.world == w && p.2.hdr.isNone && !p.2.ended)).map (·.1)

/-- Has the world a frozen ring (R419)? -/
def State.anyFrozen (s : State) (w : Nat) : Bool :=
  decide ((s.world w).tdisp = .error) || s.launches.any (fun p => p.2.world == w && (p.2.frozen || p.2.beat))

/-- The queue of a world that the launch unit takes from next (R260): the first that has a record. -/
def State.nextQueue (s : State) (w : Nat) : Option Nat :=
  let v := s.world w
  if !v.present || v.destroying || s.anyFrozen w then none
  else (List.range 4).find? (fun q => (v.lq q).en && !(v.lq q).err && decide ((v.lq q).head ≠ (v.lq q).tail))

/-- The launch unit that takes a world's launches: that of the die with the origin of its first rectangle. Which of the four
does (R16, R260) is left open (DESIGN CHOICE, entry 57). -/
def State.launchUnit (s : State) (w : Nat) : Nat :=
  match (s.world w).rects with
  | r :: _ => coreDie (coreAt r.x r.y)
  | [] => 0

/-- The address of the slot that a queue's next record lies in (R379). -/
def RingCfg.slotAt (r : RingCfg) : Nat := r.base + 64 * (r.head.toNat % r.size)

/-- Could a launch unit take a record of a world now: it has one, and nothing of a launch taken before, or of the slot's own
read, is still waited for? A world that waits delays no other (R260). -/
def State.canTake (s : State) (w : Nat) : Bool :=
  match s.nextQueue w with
  | none => false
  | some q =>
    let r := (s.world w).lq q
    (s.unread w).isNone && !s.unitParked w (.slot q) && (!r.loc || (s.unitRead w r.slotAt 64 (.slot q)).2 != .busy)

/-- Is it this world's turn at its launch unit (R260): no world of the unit between the one served last and it could be served
now? -/
def State.launchTurn (s : State) (w : Nat) : Bool :=
  let u := s.launchUnit w
  ((List.range 63).map (fun i => (tabGet 0 s.rrWorld u + 1 + i) % 64)).takeWhile (· != w) |>.all (fun v =>
    s.launchUnit v != u || !s.canTake v)

/-- The slot has been read: the record is taken and checked, and then its header (R381, R438). -/
def State.takeRecord (s : State) (w q : Nat) (l : List Byte) : State :=
  let lid := s.nextLid
  let seq := (s.world w).launchSeq + 1
  let s := s.modLq w q (fun r => { r with head := r.head + 1 })
  let s := s.modWorld w (fun v => { v with launchSeq := seq })
  let s :=
    { s with
      launches := tabPut s.launches lid (recordOf w q seq s.now l)
      nextLid := lid + 1
      rrWorld := tabSet 0 s.rrWorld (s.launchUnit w) w }
  if s.recordOk w l then s.readHeader lid else s.refuseLaunch lid 2

/-- LAUNCH_TAKE (R260, R381, R438): the launch unit goes on with a header that it has still to read; else it reads the
slot of the oldest record of the world's highest-priority queue, and takes it. -/
def execLaunchTake (w : Nat) (s : State) : Out :=
  match s.unread w with
  | some lid => .next (s.readHeader lid)
  | none =>
    match s.nextQueue w with
    | none => .next s
    | some q =>
      let r := (s.world w).lq q
      let at_ := r.slotAt
      if !s.launchTurn w || s.unitParked w (.slot q) then .next s
      else if !r.loc then
        .next (if s.hostFails.contains at_ then (s.hostFailed at_).stopQueue w q 1 r.head.toNat
          else s.takeRecord w q (s.hostBytes at_ 64))
      else
        match s.unitRead w at_ 64 (.slot q) with
        | (s, .bytes l) => .next (s.takeRecord w q l)
        | (s, .failed _) => .next (s.stopQueue w q 1 r.head.toNat)
        | (s, .parked) => .next s
        | (s, .busy) => .next s

/-! ## Placing a ring (R262, R263) -/

/-- May a launch with SERIAL be placed: every earlier launch of its queue has completed (R381)? -/
def State.serialOk (s : State) (l : Launch) : Bool :=
  !l.serial || s.launches.all (fun p =>
    p.2.world != l.world || p.2.queue != l.queue || decide (l.seq ≤ p.2.seq) || p.2.past)

/-- The troupes that a core holds. -/
def State.residents (s : State) (c : Nat) : List Nat :=
  (s.troupes.filter (fun p => p.2.resident && p.2.core == c)).map (·.1)

/-- Do the limits of R264 let one more troupe of a launch in? -/
def State.fitsCore (s : State) (c lid : Nat) (h : Header) : Bool :=
  let rs := s.residents c
  rs.all (fun k => (s.troupe k).lid == lid) && decide (rs.length < 4) &&
    (List.range 4).all (fun q => decide (slotsNeeded h q ≤ ((s.core c).freeSlots h q).length)) &&
    decide ((rs.length + 1) * h.spad ≤ 7)

/-- Is a waiting troupe passed over as absent: its ring frozen, or held for the debugger (R263, R422)? -/
def State.passedOver (s : State) (tid : Nat) : Bool :=
  let t := s.troupe tid
  s.frozenRing (s.launch t.lid) || t.held

/-- Can a core take one troupe of a launch at once (R262, R264, R265): would it head the wait list, and fit? -/
def State.takesAtOnce (s : State) (c lid : Nat) (h : Header) : Bool :=
  let l := s.launch lid
  ((s.core c).waitList.all (fun k =>
    s.passedOver k || ((s.troupe k).reached.isNone && decide (l.queue < (s.launch (s.troupe k).lid).queue)))) &&
    s.fitsCore c lid h && decide ((s.residents c).length + 1 ≤ s.freeTroupeSlots l.world c)

/-- The origin of a ring (R262): the named one; else the first where every core can take a troupe at once; else the
first. -/
def State.chooseOrigin (s : State) (lid : Nat) (h : Header) : Option (Nat × Nat) :=
  let l := s.launch lid
  if l.onamed then some (l.ox, l.oy)
  else
    let os := s.origins l
    let open_ (o : Nat × Nat) : Bool :=
      (ringCores l o.1 o.2).all (fun c => s.takesAtOnce c lid h)
    match os.find? open_ with
    | some o => some o
    | none => os.head?

/-- The coordinates of a ring's troupes. -/
def ringCoords (l : Launch) : List (Nat × Nat × Nat) :=
  (List.range l.rz).flatMap (fun z => (List.range l.rh).flatMap (fun y => (List.range l.rw).map (fun x => (x, y, z))))

/-- A group with its launch values (R34, R40, R49). -/
def newGroup (l : Launch) (h : Header) (tid x y z i : Nat) : Group :=
  { tid, grpid := i, w := h.w, r := h.r, p := h.p, quarter := quarterOf h i
    pc := (l.scodeBase + h.entry) % 2 ^ 64
    exm := allLanes h.w
    dither := BitVec.ofNat 32 (16 * (l.rw * l.rh * z + l.rw * y + x) + i)
    oldlane := (List.range h.w).foldl (fun t k => tabSet 0 t k (BitVec.ofNat 32 (i * h.w + k))) []
    sregs := if h.twin ∧ i % 2 = 1 then [] else tabSet 0 [] 1 l.args
    twin := h.twin }

/-- A troupe of a ring is bound to its core, and enters the core's wait list (R33, R263, R336). -/
def State.addTroupe (s : State) (lid : Nat) (h : Header) (ox oy x y z : Nat) : State :=
  let l := s.launch lid
  let tid := s.nextTid
  let c := coreAt (ox + x) (oy + y)
  let t : Troupe :=
    { lid, x, y, z, core := c, entered := s.now, held := l.stopped, takesOn := h.taken != 0 && (s.areaPart l.world 1 c).isSome }
  let s :=
    { s with
      troupes := tabPut s.troupes tid t
      nextTid := tid + 1
      groups := (List.range h.grps).foldl (fun g i => tabPut g (16 * tid + i) (newGroup l h tid x y z i)) s.groups }
  s.modCore c (fun v => { v with waitList := v.waitList ++ [tid] })

/-- RING_PLACE (R262, R381). -/
def execRingPlace (lid : Nat) (s : State) : Out :=
  let l := s.launch lid
  match l.hdr with
  | none => .next s
  | some h =>
    if l.placed || l.ended || l.micro || s.anyFrozen l.world || !s.serialOk l then .next s
    else
      match s.chooseOrigin lid h with
      | none => .next s
      | some (ox, oy) =>
        let s := s.modLaunch lid (fun l => { l with placed := true, ox, oy })
        .next ((ringCoords l).foldl (fun s p => s.addTroupe lid h ox oy p.1 p.2.1 p.2.2) s)

/-! ## Starting a microkernel (R240, R382) -/

/-- The four sections of a microkernel, read through the world's tables: `.scode`, `.lcode`, `.const`, `.data`. -/
def State.readSections (s : State) (lid : Nat) (h : Header) : State × List (List Byte) × Option Got :=
  let l := s.launch lid
  [(h.scodeOff, h.scodeSize), (h.lcodeOff, h.lcodeSize), (h.constOff, h.constSize), (h.dataOff, h.dataSize)].foldl
    (fun (r : State × List (List Byte) × Option Got) p =>
      match r.2.2 with
      | some _ => r
      | none =>
        match r.1.unitRead l.world ((l.obj + p.1) % 2 ^ 64) p.2 (.launch lid) with
        | (s, .bytes b) => (s, r.2.1 ++ [b], none)
        | (s, g) => (s, r.2.1, some g)) (s, [], none)

/-- The base-die core of a slice, set up for a microkernel (R240). -/
def Bdc.start (c : Bdc) (lid : Nat) (l : Launch) (h : Header) (secs : List (List Byte)) : Bdc :=
  let sec (i : Nat) : Tab Byte := rowTab (secs.getD i [])
  { (c.storePut 0 (secs.getD 3 [])) with
    lid := some lid
    sregs := tabSet 0 [] 1 (BitVec.ofNat 64 (l.args.toNat % 65536))
    pc := (l.scodeBase + h.entry) % 2 ^ 64
    fmt := 0
    fflags := 0
    tcause := 0
    tepc := 0
    tval := 0
    scodeBase := l.scodeBase
    scode := sec 0
    scodeSize := h.scodeSize
    lcodeBase := l.lcodeBase
    lcode := sec 1
    lcodeSize := h.lcodeSize
    konst := sec 2
    constBase := l.constBase
    constSize := h.constSize
    opened := []
    brun := none
    wait := none
    halted := false }

/-- MICROKERNEL_START (R240, R382): a section that cannot be read ends the microkernel at its entry. -/
def execMicrokernelStart (lid : Nat) (s : State) : Out :=
  let l := s.launch lid
  match l.hdr, (s.world l.world).slices[l.slice]? with
  | some h, some sl =>
    if !l.micro || l.placed || l.ended || (s.bdc sl).lid.isSome || s.anyFrozen l.world || !s.serialOk l ||
        s.unitParked l.world (.launch lid) then .next s
    else
      let start (s : State) (secs : List (List Byte)) : State :=
        (s.modLaunch lid (fun l => { l with placed := true, denied := none })).modBdc sl (fun c => c.start lid l h secs)
      let fail (s : State) (va : Nat) : State :=
        (start s []).trapBdc sl { cls := 4, cause := 0, tval := BitVec.ofNat 64 va } ((l.scodeBase + h.entry) % 2 ^ 64)
      match l.denied with
      | some va => .next (fail s va)
      | none =>
        match s.readSections lid h with
        | (s, secs, none) => .next (start s secs)
        | (s, _, some (.failed va)) => .next (fail s va)
        | (s, _, some _) => .next s
  | _, _ => .next s

/-! ## Completion (R383) -/

/-- The first four bytes of the completion record. -/
def Launch.cplWord (l : Launch) : Nat := packBits [(l.status % 256, 0), (l.endc % 256, 8), (l.cls % 256, 16), (1, 31)]

/-- The 32 bytes of the completion record. -/
def State.cplBytes (s : State) (l : Launch) : List Byte :=
  natBytes 4 l.cplWord ++ natBytes 4 l.tag ++ natBytes 8 l.seq ++ natBytes 8 (s.now - l.taken) ++ natBytes 8 0

/-- The cores of a launch's troupes. -/
def State.launchCores (s : State) (lid : Nat) : List Nat := ((s.troupesOf lid).map (fun k => (s.troupe k).core)).eraseDups

/-- Is every store of the launch that has left its queue at its home, and every engine's write to a peer device
acknowledged (R286, R383)? -/
def State.launchStored (s : State) (lid : Nat) : Bool :=
  let mine (e : WEntry) : Bool := (s.troupesOf lid).contains (e.gid / 16)
  s.cores.all (fun p => p.2.wbuf.all (fun e => e.side == 1 || !mine e)) && s.engineOut.all (fun e => !mine e)

/-- The launch is over; its completion has been given. -/
def State.closeLaunch (s : State) (lid : Nat) : State :=
  s.modLaunch lid (fun l => { l with past := true, denied := none })

/-- COMPLETION_RECORD (R383, R438): once everything of the launch has been performed, its record is written, or an entry
of KIND 0x17 takes its place. -/
def execCompletionRecord (lid : Nat) (s : State) : Out :=
  let l := s.launch lid
  if !l.ended || l.past || !(s.launchGroups lid).isEmpty || !s.launchStored lid || s.unitParked l.world (.launch lid) then
    .next s
  else
    match (s.launchCores lid).foldl (fun (r : State × Bool) c =>
        let t := r.1.writeBackAll c (r.1.core c).dirtySectors (fun e => e.side == 1)
        (t.1, r.2 && t.2)) (s, true) with
    | (s, false) => .next s
    | (s, true) =>
      let fail (s : State) : State :=
        (s.log l.world (s.logHead 0x17 l.world l.seq |||
          packBits [(l.cplWord, 128), (l.tag, 160), (l.cpl, 192)])).closeLaunch lid
      if l.cpl % 32 ≠ 0 ∨ l.denied.isSome = true then .next (fail s)
      else
        match s.unitWrite l.world l.cpl (s.cplBytes l) (.launch lid) with
        | (s, .bytes _) => .next (s.closeLaunch lid)
        | (s, .failed _) => .next (fail s)
        | (s, _) => .next s

end Sys2Proof.Machine
end

