-- ==== Sys2Proof/Machine/Matrix.lean ====
section
/-! DEFINITION. The matrix forms (spec/08_isa_matrix_engines.md R198 to R215, spec/03_numbers.md R77 to R80): their
checks, what they read, the term array with the event that completes a form, `MZERO`, and `MGUIDE` with its
rendezvous. -/

namespace Sys2Proof.Machine

/-! ## Formats and layout (R199 to R201) -/

/-- The format of a class under an FMT: the small classes come from FMT, codes 3 and 4 are FP16 and BF16 (R199). -/
def clsFmt (fmt : Word32) (c : ACls) : Fmt :=
  match c with
  | .a4 => fmtClass fmt 3
  | .a6 => fmtClass fmt 2
  | .a8 => fmtClass fmt 1
  | .af16 => .f16
  | .abf16 => .bf16

/-- Does a mode allow the format that FMT gives a class (R199)? -/
def modeFmtOk (m : MmaMode) (f : Fmt) : Bool :=
  match m with
  | .f => fmtIsFloat f
  | .i => f == .i8 || f == .n8 || f == .i4 || f == .n4
  | .l => f == .lg6

/-- The class of a code (R198, R201). -/
def clsOf (n : Nat) : Option ACls :=
  match n with
  | 0 => some .a4
  | 1 => some .a6
  | 2 => some .a8
  | 3 => some .af16
  | 4 => some .abf16
  | _ => none

/-- SPAN of a layout word. -/
def layoutSpan (v : Nat) : Nat := bitsOf v 31 29
/-- PL of a layout word. -/
def layoutPl (v : Nat) : Nat := bitsOf v 28 24
/-- T of a layout word. -/
def layoutT (v : Nat) : Bool := bitOf v 23
/-- The B class of a layout word. -/
def layoutCls (v : Nat) : Option ACls := clsOf (bitsOf v 22 20)

/-- Bits of an element of a class. -/
def clsBits (c : ACls) : Nat :=
  match c with
  | .a4 => 4
  | .a6 => 6
  | .a8 => 8
  | .af16 => 16
  | .abf16 => 16

/-- RB: the bytes of a row of the tile (R201). -/
def rowBytes (v n : Nat) (b : ACls) : Nat := ceilDiv ((if layoutT v then 32 else n) * clsBits b) 8

/-- TR: the rows of the tile (R201). -/
def tileRows (v n : Nat) : Nat := if layoutT v then n else 32

/-- The logical offset of a row (R201). -/
def rowAt (baddr v r : Nat) : Nat := baddr + r * 2 ^ layoutPl v

/-- The logical offset of the scale of a column (R201). -/
def scaleAt (baddr v n col : Nat) : Nat := rowAt baddr v (tileRows v n) + 2 * col

/-- Is a layout word legal with a B offset, for a mode and N (R201, R205)? -/
def layoutOk (baddr v n : Nat) (m : MmaMode) : Bool :=
  match layoutCls v with
  | none => false
  | some b =>
    v % 2 ^ 20 == 0 && matClassOk m b && 4 ≤ layoutPl v && layoutPl v ≤ 16 && rowBytes v n b ≤ 2 ^ layoutPl v &&
      baddr % 16 == 0

/-- The physical ranges of the tile and its scales, in pieces that swizzling keeps together (R201). -/
def tilePieces (baddr v n : Nat) (b : ACls) : List (Nat × Nat) :=
  let k := layoutSpan v
  let pieces (a len : Nat) : List (Nat × Nat) :=
    (List.range (ceilDiv len 16 + 1)).filterMap (fun i =>
      let lo := max a ((a / 16 + i) * 16)
      let hi := min (a + len) ((a / 16 + i + 1) * 16)
      if lo < hi then some (swz lo k, hi - lo) else none)
  ((List.range (tileRows v n)).flatMap (fun r => pieces (rowAt baddr v r) (rowBytes v n b))) ++
    pieces (scaleAt baddr v n 0) (2 * n)

/-- The lowest of some numbers. -/
def lowest : List Nat → Option Nat
  | [] => none
  | x :: l => some (l.foldl min x)

/-- The lowest physical offset of the tile at or beyond the size of the scratchpad (R205 step 4). -/
def tileBeyond (pieces : List (Nat × Nat)) (size : Nat) : Option Nat :=
  lowest (pieces.filterMap (fun p => if size < p.1 + p.2 then some (max p.1 size) else none))

/-- The lowest segment of the tile whose span tag differs (R202). -/
def tileMismatch (t : Troupe) (pieces : List (Nat × Nat)) (k : Nat) : Option Nat :=
  lowest (pieces.filterMap (fun p =>
    if tabGet 0 t.tags (p.1 / 2048) = k then none else some (p.1 / 2048 * 2048)))

/-! ## Checks (R205) -/

/-- The halves that a matrix word issues in. -/
def matHalves (s : State) (gid : Nat) (pair : Bool) : List Nat := if pair then s.halvesOf gid else [gid]

/-- Step 3 of R205 beyond the register limits: the cause of the illegal-operand trap. -/
def State.matCause (s : State) (hs : List Nat) (m : MmaMode) (acls : ACls) (n baddr v : Nat) : Option Nat :=
  let fmts := hs.map (fun k => (s.group k).headRun.fmt)
  if !fmts.all (fun f => modeFmtOk m (clsFmt f acls)) then some 4
  else if !layoutOk baddr v n m then some 6
  else
    let b := (layoutCls v).getD .a4
    if !fmts.all (fun f => modeFmtOk m (clsFmt f b)) then some 4
    else if !fmts.all (fun f =>
        clsFmt f acls == clsFmt (fmts.headD 0) acls && clsFmt f b == clsFmt (fmts.headD 0) b) then some 4
    else none

/-- The rows of a half, as its registers stand at issue; and what cancelling the form restores (R335). -/
def Group.arrayRows (g : Group) (gid : Nat) (h : LaneHead) (acls : ACls) (n : Nat) : ArrayRows :=
  let act := g.runActive
  let grab (base cnt : Nat) : Tab Word32 :=
    (List.range cnt).flatMap (fun k => (lanesOf g.w act).filterMap (fun l =>
      if g.vr (base + k) l = 0 then none else some (64 * k + l, g.vr (base + k) l)))
  { gid, active := act, fmt := g.headRun.fmt, a := grab h.va.toNat (aRegs acls + 1), c := grab h.vd.toNat n,
    run := some g.headRun, latch := g.latch, aid := g.nextAid }

/-- The latch after a matrix form that executes (R204). -/
def Group.useLatch (g : Group) (h : LaneHead) (acls : ACls) : Group :=
  { g with latch := if h.k then some { base := h.va.toNat, cls := acls } else none }

/-- A half that a check or wait of a matrix word stops: what becomes of the word. -/
def State.firstHeld (s : State) (hs : List Nat) (i : Instr) : Option State := hs.findSome? (fun k => s.laneHeld k i)

/-- Poison in the registers that the halves' rows read (R340): rows die, or the word stops. -/
def State.consumeHalves (s : State) (hs : List Nat) (i : Instr) (h : LaneHead) : State × Bool :=
  let looks := hs.map (fun k => (k, s.consume k i h []))
  match looks.findSome? (fun p => p.2.1) with
  | some t => (t, true)
  | none => (looks.foldl (fun s p => s.killLanes p.1 (s.headAddr p.1) p.2.2) s, false)

/-- May a matrix word enter its quarter's term array: it is free, and no word reached it before that still waits (R269)?
-/
def State.arrayFree (s : State) (core q gid : Nat) : Bool :=
  (tabGet none (s.core core).arrays q).isNone &&
    (((tabGet [] (s.core core).arrayq q).filter (fun k => (s.group k).lwait == some .array)).head?.getD gid) == gid

/-- A matrix word that finds the array busy waits in the order in which words reach it (R269). -/
def State.arrayWait (s : State) (core q gid : Nat) : State :=
  let live := (tabGet [] (s.core core).arrayq q).filter (fun k => (s.group k).lwait == some .array)
  (s.modCore core (fun c =>
    { c with arrayq := tabSet [] c.arrayq q (if live.contains gid then live else live ++ [gid]) })).laneWaits gid .array

/-- Note that the last word of a group's run was a matrix form (R422). -/
def Group.afterMatrix (g : Group) : Group :=
  { g with
    laneq := match g.laneq with
      | [] => []
      | r :: l => { r with matrixLast := true } :: l }

/-- The word issues in the halves `hs`: their runs go on. -/
def State.matDone (s : State) (gid : Nat) (hs : List Nat) (e : Bool) : State :=
  hs.foldl (fun s k => s.modGroup k Group.afterMatrix)
    (if hs.length = 2 then s.laneDoneBoth gid e else s.laneDone gid e)

/-- `MMA` and `MMAT` (R203 to R206, R209): checked in the order of R205, then taken into the quarter's term array with
the registers as they stand. -/
def State.matIssue (s : State) (gid : Nat) (i : Instr) (h : LaneHead) (m : MmaMode) (acls : ACls) (n32 pair : Bool) :
    State :=
  let hs := matHalves s gid pair
  let n := if n32 then 32 else 16
  let once := hs.length == 2
  match s.firstHeld hs i with
  | some t => t
  | none =>
    let e := s.laneEnv gid []
    let baddr := (e.s64 h.vb).toNat % 2 ^ 32
    let v := (e.s64 h.vc).toNat % 2 ^ 32
    match s.matCause hs m acls n baddr v with
    | some c => s.laneTrap gid once 2 c
    | none =>
      if hs.all (fun k => (s.group k).runActive == 0) then s.matDone gid hs h.e
      else
        let t := s.troupe (s.group gid).tid
        let pieces := tilePieces baddr v n ((layoutCls v).getD .a4)
        match tileBeyond pieces (spadBytes (s.headerOf gid)), tileMismatch t pieces (layoutSpan v) with
        | some o, _ => s.raiseLane gid once { cls := 4, cause := 4, tval := BitVec.ofNat 64 o }
        | none, some o => s.raiseLane gid once { cls := 5, cause := 0, tval := BitVec.ofNat 64 o }
        | none, none =>
          let core := s.coreOf gid
          let q := (s.group gid).quarter
          if !s.arrayFree core q gid then s.arrayWait core q gid
          else if hs.any (fun k => 63 ≤ (s.group k).count .mtx) then s.laneWaits gid (.counter .mtx 62)
          else
            match s.consumeHalves hs i h with
            | (t, true) => t
            | (t, false) =>
              let form : ArrayForm :=
                { gid, other := if hs.length = 2 then some (leadOf gid + 1) else none, vd := h.vd.toNat, n, acls,
                  baddr, layout := v, rows := hs.map (fun k => (t.group k).arrayRows k h acls n), w := (t.group gid).w,
                  unshared := pair && hs.length != 2, addr := s.headAddr gid }
              let t := hs.foldl (fun t k => t.modGroup k (fun g => (g.useLatch h acls).addCount .mtx 1)) t
              let t := t.modCore core (fun c =>
                { c with
                  arrays := tabSet none c.arrays q (some form)
                  arrayq := tabSet [] c.arrayq q ((tabGet [] c.arrayq q).filter (· != gid)) })
              t.matDone gid hs h.e

/-- MMA (R198 to R206). -/
def execMma (h : LaneHead) (m : MmaMode) (acls : ACls) (n32 : Bool) (s : State) : Out :=
  let i := Instr.mma h m acls n32
  laneWord i h.e false (fun gid s => s.matIssue gid i h m acls n32 false) s

/-- `MMAT` and `MGUIDE` are for the halves of a pair (R205 step 2), which is checked after the operand values of R103. -/
def pairOnly (i : Instr) (g : Group) : Option Nat := if g.twin || (sharedFault g.r g.p i).isSome then none else some 7

/-- MMAT (R205, R209, R212). -/
def execMmat (h : LaneHead) (m : MmaMode) (acls : ACls) (n32 : Bool) (s : State) : Out :=
  let i := Instr.mmat h m acls n32
  laneWordPre i h.e true (pairOnly i)
    (fun gid s => s.matIssue gid i h m acls n32 true) s

/-! ## The array: reads, values, counters (R203, R206, R207) -/

/-- Element `k` of a bit string of little-endian bytes, `w` bits wide (R200, R201). -/
def elementAt (bits w k : Nat) : Nat := (bits >>> (w * k)) % 2 ^ w

/-- B: the elements by k and column, and the scales by column, read from the scratchpad (R201). -/
structure Tile where
  b : Nat → Nat → Nat
  scale : Nat → Nat

/-- Read a row of the tile through the swizzle, as a number. -/
def Troupe.spadRow (t : Troupe) (a n k : Nat) : Nat :=
  bytesNat ((List.range n).map (fun i => t.spadByte (swz (a + i) k)))

/-- The tile of a form (R201). -/
def ArrayForm.tile (f : ArrayForm) (t : Troupe) : Tile :=
  let cls := (layoutCls f.layout).getD .a4
  let w := clsBits cls
  let k := layoutSpan f.layout
  let rows := (List.range (tileRows f.layout f.n)).map (fun r =>
    t.spadRow (rowAt f.baddr f.layout r) (rowBytes f.layout f.n cls) k)
  let scales := (List.range f.n).map (fun c => t.spadRow (scaleAt f.baddr f.layout f.n c) 2 k)
  { b := fun kk n => if layoutT f.layout then elementAt (rows.getD n 0) w kk else elementAt (rows.getD kk 0) w n
    scale := fun n => scales.getD n 0 }

/-- The scratchpad offsets of the bytes that a form reads. -/
def ArrayForm.offsets (f : ArrayForm) : List Nat :=
  (tilePieces f.baddr f.layout f.n ((layoutCls f.layout).getD .a4)).flatMap (fun p =>
    (List.range p.2).map (fun i => p.1 + i))

/-- The A elements of a row, 32 of them (R200). -/
def ArrayRows.aRow (r : ArrayRows) (acls : ACls) (l : Nat) : List Nat :=
  let bits := (List.range (aRegs acls)).foldl (fun acc k => acc + (tabGet 0 r.a (64 * k + l)).toNat * 2 ^ (32 * k)) 0
  (List.range 32).map (fun k => elementAt bits (clsBits acls) k)

/-- The A scale of a row (R200). -/
def ArrayRows.aScale (r : ArrayRows) (acls : ACls) (l : Nat) : Nat := (tabGet 0 r.a (64 * aRegs acls + l)).toNat % 1024

/-- The values that a half's rows get, and the flags (R203, R78). -/
def ArrayRows.compute (r : ArrayRows) (acls bcls : ACls) (n : Nat) (tile : Tile) : ArrayRows :=
  let fa := clsFmt r.fmt acls
  let fb := clsFmt r.fmt bcls
  let bs := fmtBs r.fmt
  let outs := (lanesOf 64 r.active).flatMap (fun l =>
    let a := r.aRow acls l
    let sa := scaleVal bs (r.aScale acls l)
    (List.range n).map (fun c =>
      let col := (List.range 32).map (fun k => tile.b k c)
      let v := accumulate r.fmt (tabGet 0 r.c (64 * c + l)).toNat (blockDot r.fmt fa fb a col sa (scaleVal bs (tile.scale c)))
      (64 * c + l, v)))
  { r with
    writes := outs.foldl (fun t o => tabPut t o.1 (BitVec.ofNat 32 o.2.1)) []
    flags := outs.foldl (fun f o => f ||| o.2.2) 0 }

/-- D: the digit width of a format (R207). -/
def digitWidth (f : Fmt) : Nat :=
  match f with
  | .e2m1 => 2
  | .e3m2 => 3
  | .e2m3 => 4
  | .e4m3 => 4
  | .e5m2 => 3
  | .f16 => 11
  | .bf16 => 8
  | .i4 => 4
  | .n4 => 4
  | .i8 => 8
  | .n8 => 8
  | _ => 12

/-- The rows of a form by their index: A elements, and which pass holds them (R80). A converged `MMAT` of W = 64 has the lead's
rows in the first pass and the double's in the second (DESIGN CHOICE, entry 58). -/
def ArrayForm.rowList (f : ArrayForm) : List (Nat × List Nat) :=
  (indexed f.rows).flatMap (fun p => (lanesOf 64 p.2.active).map (fun l => (p.1 * f.w + l, p.2.aRow f.acls l)))

/-- A zero of either sign (R80), of the stored encoding: a subnormal that FZ16 makes the product read as zero (R60) is no
zero here (DESIGN CHOICE, entry 57). -/
def zeroCode (f : Fmt) (c : Nat) : Bool := xIsZero (rawVal f c)

/-- What one pass adds to the five counters (R207): the terms done, skipped, k skipped, waits. -/
def passCounts (fa fb : Fmt) (n : Nat) (rows : List (List Nat)) (tile : Tile) : List Nat :=
  (List.range 32).foldl (fun (acc : List Nat) k =>
    let live := (rows.map (fun r => r.getD k 0)).filter (fun a => !zeroCode fa a)
    if live.isEmpty then [acc.getD 0 0, acc.getD 1 0, acc.getD 2 0 + 1, acc.getD 3 0]
    else
      let cost (c : Nat) : List Nat := live.map (fun a => costOf fa fb a (tile.b k c))
      let costs := (List.range n).map cost
      let most (l : List Nat) : Nat := l.foldl max 0
      let group (c : Nat) : Nat := most ((List.range 16).map (fun j => most (costs.getD (c / 16 * 16 + j) [])))
      let done := costs.foldl (fun t l => t + l.foldl (· + ·) 0) 0
      let skipped := costs.foldl (fun t l => l.foldl (fun t c => t + (digitWidth fb - c)) t) 0
      let waits := (List.range n).foldl (fun t c => t + (group c - most (costs.getD c []))) 0
      [acc.getD 0 0 + done, acc.getD 1 0 + skipped, acc.getD 2 0, acc.getD 3 0 + waits]) [0, 0, 0, 0]

/-- What a form adds to the counters of its quarter (R207), over its passes. -/
def ArrayForm.counts (f : ArrayForm) (tile : Tile) : List Nat :=
  let fmt := (f.rows.map (·.fmt)).headD 0
  let fa := clsFmt fmt f.acls
  let fb := clsFmt fmt ((layoutCls f.layout).getD .a4)
  let passes := ceilDiv (f.w * f.rows.length) 64
  let sum := (List.range passes).foldl (fun (acc : List Nat) p =>
    let rows := (f.rowList.filter (fun r => r.1 / 64 == p)).map (·.2)
    (acc.zip (passCounts fa fb f.n rows tile)).map (fun x => x.1 + x.2)) [0, 0, 0, 0]
  sum ++ [if f.unshared then 1 else 0]

/-- The form in a quarter's array. -/
def State.arrayOf (s : State) (core q : Nat) : Option ArrayForm := tabGet none (s.core core).arrays q

/-- Put a form in a quarter's array, or free it. -/
def State.setArray (s : State) (core q : Nat) (f : Option ArrayForm) : State :=
  s.modCore core (fun c => { c with arrays := tabSet none c.arrays q f })

/-- A form is cancelled (R335): it leaves the array with its counters, each issuing half's run stands at it again, and what
later words of the half wait for is taken back. -/
def State.cancelForm (s : State) (core q : Nat) (f : ArrayForm) : State :=
  f.rows.foldl (fun s r =>
    let fresh (a : Access) : Bool :=
      a.laneWord && decide (r.aid ≤ a.aid) && !a.left && a.lanes.all (fun l => l.stage != .done)
    let s := ((s.group r.gid).accs.filter fresh).foldl (fun s a => s.cancelAccess r.gid a.aid) s
    s.modGroup r.gid (fun g =>
      let g := if f.reads then g else g.addCount .mtx (-1)
      let g := match r.run with
        | some q => g.restoreRun q
        | none => g
      { g with latch := r.latch, lwait := none })) (s.setArray core q none)

/-- A pipeline error of a matrix form (R335, R338, R340), in the unit of `cause`: the form is cancelled, and the trap is
precise at it, once for a converged pair (R215). -/
def State.formError (s : State) (core q cause : Nat) (f : ArrayForm) : State :=
  (s.cancelForm core q f).lanePipeline f.gid cause f.addr f.other.isSome

/-- A form's reads of B complete (R206): the values are computed, and the MTX counters fall. The bytes are those of now, or
those read ahead where no order forbids it (R284). Poison in them kills every row that issued, or is a pipeline error of a
troupe with takes whose own it is (R205, R340). -/
def State.arrayReads (s : State) (core q : Nat) (f : ArrayForm) : State :=
  let t := s.troupe (s.group f.gid).tid
  let hurt := s.spadHurts f.gid f.offsets
  if hurt = .own then s.formError core q 1 f
  else
    let tile := f.tile (match (s.group f.gid).ahead with
      | some b => { t with spad := b }
      | none => t)
    let bcls := (layoutCls f.layout).getD .a4
    let s := f.rows.foldl (fun s r => s.modGroup r.gid (fun g => g.addCount .mtx (-1))) s
    let s := s.setArray core q (some
      { f with
        reads := true
        rows := if hurt = .none then f.rows.map (fun r => r.compute f.acls bcls f.n tile) else f.rows
        terms := f.counts tile })
    if hurt = .none then s
    else
      f.rows.foldl (fun s r =>
        (lanesOf 64 r.active).foldl (fun s l => s.killLane r.gid l false f.baddr f.addr) s) s

/-- A form completes (R206, R207): its C registers and flags are written, the counters rise, the array is free. -/
def State.arrayWrites (s : State) (core q : Nat) (f : ArrayForm) : State :=
  let s := s.setArray core q none
  let s := f.rows.foldl (fun s r =>
    s.modGroup r.gid (fun g =>
      (r.writes.foldl (fun g p => g.setV (f.vd + p.1 / 64) (p.1 % 64) p.2) g).orFlags r.flags)) s
  s.modCore core (fun c =>
    { c with terms := (indexed f.terms).foldl (fun t p =>
        tabSet 0 t (5 * q + p.1) (tabGet 0 t (5 * q + p.1) + BitVec.ofNat 64 p.2)) c.terms })

/-- MATRIX_FORM_COMPLETION (R206, R207): the reads of the form in a quarter's array complete, or the form does. -/
def execMatrixFormCompletion (core quarter : Nat) (reads : Bool) (s : State) : Out :=
  match s.arrayOf core quarter with
  | none => .next s
  | some f =>
    if reads then .next (if f.reads then s else s.arrayReads core quarter f)
    else .next (if f.reads then s.arrayWrites core quarter f else s)

/-! ## MZERO (R208) -/

/-- MZERO (R208). -/
def execMzero (h : LaneHead) (cnt : BitVec 5) (s : State) : Out :=
  let i := Instr.mzero h cnt
  laneWord i h.e false (fun gid s =>
    match s.laneReady gid i h noExtra with
    | .stop t => t
    | .go t e lanes _ =>
      (t.modGroup gid (fun g =>
        (lanesOf e.g.w lanes).foldl (fun g l =>
          g.setVs h.vd.toNat l (List.replicate (cnt.toNat + 1) 0)) g)).laneDone gid h.e) s

/-! ## MGUIDE (R210, R213) -/

/-- One guided value: the new encoding and its flags (R210). -/
def guideVal (fmt : Word32) (s l d : Nat) : Nat × Word32 :=
  let r : Rnd := { rm := 0, fmt := fmt }
  let xl := readVal fmt .f32 l
  let xd := readVal fmt .f32 d
  let xs := readVal fmt .f32 s
  let df := xAdd false xl.1 (xOpp xd.1)
  let t := xRound .f32 r df
  let xt := readVal fmt .f32 t.1
  let y := xAdd false xd.1 (xMul xs.1 xt.1)
  let x := xRound .f32 r y
  (x.1, madeFlags [xl, xd] df ||| t.2 ||| madeFlags [xd, xs, xt] y ||| x.2)

/-- The effect of `MGUIDE` on a pair (R210), for the operands of the lead's word. -/
def State.guide (s : State) (lead : Nat) (r : Rendezvous) : State :=
  let a := s.group lead
  let b := s.group (lead + 1)
  let set := a.runActive &&& b.runActive
  let fmt := a.headRun.fmt
  let outs := (lanesOf a.w set).flatMap (fun l => (List.range r.count).map (fun i =>
    (l, i, guideVal fmt r.s.toNat (a.vr (r.va + i) l).toNat (b.vr (r.vb + i) l).toNat)))
  let fl := outs.foldl (fun f o => f ||| o.2.2.2) 0
  let put (g : Group) : Group :=
    (outs.foldl (fun g o => g.setV (r.vd + o.2.1) o.1 (BitVec.ofNat 32 o.2.2.1)) g).orFlags fl
  (s.modGroup lead put).modGroup (lead + 1) put

/-- The registers that `MGUIDE` reads in a pair, poisoned in a lane (R340): in the lead those from VA, in the double
those from VB, and the scalar register that VC names, by its operand value. -/
def State.guideHurt (s : State) (lead : Nat) (r : Rendezvous) (l : Nat) : Option Nat :=
  let find (g : Group) (base : Nat) : Option Nat :=
    (g.poison.find? (fun m => m.file == 0 && m.lane == l && decide (base ≤ m.num) &&
      decide (m.num < base + r.count))).map (·.num)
  let scalar : Option Nat :=
    if 384 ≤ r.vc ∧ ([lead, lead + 1].any (fun k => (s.group k).headRun.hurt.contains (r.vc - 384))) = true then some r.vc
    else none
  ((find (s.group lead) r.va).or (find (s.group (lead + 1)) r.vb)).or scalar

/-- The lanes of a pair in which `MGUIDE` consumes poison, each with the register. -/
def State.guideHits (s : State) (lead : Nat) (r : Rendezvous) : List (Nat × Nat) :=
  (lanesOf 64 ((s.group lead).runActive &&& (s.group (lead + 1)).runActive)).filterMap (fun l =>
    (s.guideHurt lead r l).map (fun n => (l, n)))

/-- `MGUIDE` is applied once to a pair: lanes that read poison die in both halves. -/
def State.guideOnce (s : State) (lead : Nat) (r : Rendezvous) : State :=
  ((s.guideHits lead r).foldl (fun s p =>
    (s.killLane lead p.1 true p.2 r.addr).killLane (lead + 1) p.1 true p.2 r.addr) s).guide lead r

/-- Does `MGUIDE` meet a pipeline error: poison of the registers of a troupe with takes (R340)? -/
def State.guideFails (s : State) (lead : Nat) (r : Rendezvous) : Bool := s.takesOn lead && !(s.guideHits lead r).isEmpty

/-- The operands of an `MGUIDE` word of a half. -/
def State.guideOperands (s : State) (gid : Nat) (h : LaneHead) (cnt : BitVec 5) : Rendezvous :=
  { partner := none, count := cnt.toNat + 1, vd := h.vd.toNat, va := h.va.toNat, vb := h.vb.toNat, vc := h.vc.toNat,
    s := ((s.laneEnv gid []).s64 h.vc).setWidth 32, addr := s.headAddr gid, e := h.e }

/-- MGUIDE (R205, R210, R213). -/
def execMguide (h : LaneHead) (cnt : BitVec 5) (s : State) : Out :=
  let i := Instr.mguide h cnt
  laneWordPre i h.e true (pairOnly i) (fun gid s =>
    let hs := s.halvesOf gid
    match s.firstHeld hs i with
    | some t => t
    | none =>
      let r := s.guideOperands gid h cnt
      if hs.length = 2 then
        if s.guideFails (leadOf gid) r then s.lanePipeline gid 0 r.addr true
        else (s.guideOnce (leadOf gid) r).laneDoneBoth gid h.e
      else if !s.live (partnerOf gid) then
        s.raiseLane gid false { cls := 6, cause := 2, tval := BitVec.ofNat 64 r.addr }
      else if (s.group (partnerOf gid)).jwait then
        s.raiseLane gid false { cls := 6, cause := 1, tval := BitVec.ofNat 64 r.addr }
      else s.modGroup gid (fun g => { g with rdv := some r, lwait := some .meeting })) s

/-- Do the fields of two `MGUIDE` words agree (R213): those that their operands stand in? E, by which each half's own run
ends, is not compared (DESIGN CHOICE, entry 57). -/
def Rendezvous.agrees (a b : Rendezvous) : Bool :=
  a.count == b.count && a.vd == b.vd && a.va == b.va && a.vb == b.vb && a.vc == b.vc && a.s == b.s

/-- MGUIDE_RENDEZVOUS (R213): both halves of a split pair have arrived, and `MGUIDE` is applied once; words that differ
trap in both. No effect otherwise. -/
def execMguideRendezvous (gid : Nat) (s : State) : Out :=
  let l := leadOf gid
  match (s.group l).rdv, (s.group (l + 1)).rdv with
  | some a, some b =>
    if a.partner.isSome || b.partner.isSome || !(s.group l).twin then .next s
    else
      let s := (s.modGroup l Group.leaveRdv).modGroup (l + 1) Group.leaveRdv
      if a.agrees b then
        .next (if s.guideFails l a then s.lanePipeline l 0 a.addr
          else ((s.guideOnce l a).laneDone l a.e).laneDone (l + 1) b.e)
      else
        let trap (s : State) (k : Nat) (r : Rendezvous) : State :=
          s.raiseLane k false { cls := 6, cause := 0, tval := BitVec.ofNat 64 r.addr }
        .next (trap (trap s l a) (l + 1) b)
  | _, _ => .next s

end Sys2Proof.Machine
end

