-- ==== Sys2Proof/Machine/Turn.lean ====
section
/-! DEFINITION. What the next word of a stream would do in the state as it is (spec/10_scheduling.md R269, R273): whether it
issues, or what it waits for. Nothing here changes the machine. -/

namespace Sys2Proof.Machine

/-- The next word of a stream, looked at and not issued: does it issue, and what does the stream wait for? -/
structure Look where
  issues : Bool
  wait : Option WaitOn
  deriving DecidableEq, Repr

/-- A scalar instruction as it issues: those that can wait by their own meaning, the others by their registers alone. -/
def tryScalar (i : Instr) (s : State) : Out :=
  match i with
  | .divergence p neg off => execDivergence p neg off s
  | .join => execJoin s
  | .bany p neg off => execBany p neg off s
  | .ball p neg off => execBall p neg off s
  | .bnone p neg off => execBnone p neg off s
  | .getexm d hsel => execGetexm d hsel s
  | .twjoin => execTwjoin s
  | .run g idx => execRun g idx s
  | .grd k => execGrd k s
  | .bg k off => execBg k off s
  | .sprr d n hsel => execSprr d n hsel s
  | .sprw n hsel a => execSprw n hsel a s
  | .sld d a disp => execSld d a disp s
  | .sst a b disp => execSst a b disp s
  | .sldk d a disp => execSldk d a disp s
  | .cpy g mode d a b => execCpy g mode d a b s
  | .cpyw g mode d a b => execCpyw g mode d a b s
  | .gth g d a b => execGth g d a b s
  | .sct g d a b => execSct g d a b s
  | .coll g mode d a b => execColl g mode d a b s
  | .bnk g done d a b => execBnk g done d a b s
  | .bar kind hr handle a sc => execBar kind hr handle a sc s
  | .fence kind sc => execFence kind sc s
  | .pfence a b sc => execPfence a b sc s
  | .waitp p n => execWaitp p n s
  | .satom op sc d a b => execSatom op sc d a b s
  | i => scalarWord .both i (fun a s => s.advance a) s

/-- A lane word as it issues: those that can wait by their own meaning, the others by their registers and queues alone. -/
def tryLane (i : Instr) (s : State) : Out :=
  match i with
  | .ld h size osx sc disp => execLd h size osx sc disp s
  | .st h size osx sc disp => execSt h size osx sc disp s
  | .lds h size osx disp => execLds h size osx disp s
  | .sts h size osx disp => execSts h size osx disp s
  | .ldc h size osx disp => execLdc h size osx disp s
  | .atom h op w64 sc nr osx disp => execAtom h op w64 sc nr osx disp s
  | .atoms h op w64 nr osx disp => execAtoms h op w64 nr osx disp s
  | .mma h mode acls n32 => execMma h mode acls n32 s
  | .mmat h mode acls n32 => execMmat h mode acls n32 s
  | .mguide h cnt => execMguide h cnt s
  | .regroup h count pd => execRegroup h count pd s
  | i =>
    match laneHead i with
    | none => .next s
    | some h =>
      laneWord i h.e false (fun gid s =>
        match s.laneReady gid i h noExtra with
        | .stop t => t
        | .go t _ _ _ => t.laneDone gid h.e) s

/-- A word that leaves its stream in a wait has not issued, unless an event of its own ends the wait: it has then begun. -/
def lookAt (w : Option WaitOn) : Look :=
  match w with
  | some w => if w.passive then { issues := true, wait := none } else { issues := false, wait := some w }
  | none => { issues := true, wait := none }

/-- The scalar instruction at the PC of a context. -/
def State.scalarLook (s : State) (c : Nat) : Look :=
  match s.nextScalar c with
  | (t, .idle) => { issues := false, wait := (t.group c).wait }
  | (t, .run i) =>
    match tryScalar i { t with cur := .group c } with
    | .next u => if u.mayIssue c then lookAt (u.group c).wait else { issues := false, wait := none }
    | _ => { issues := false, wait := none }

/-- The lane word that a group, or the half of a converged pair whose turn it is, stands at. -/
def State.laneLookOf (s : State) (gid : Nat) : Look :=
  let h := s.laneHalf gid
  match s.nextLane gid with
  | (t, .idle) => { issues := false, wait := (t.group h).lwait }
  | (t, .run i) =>
    match tryLane i { t with cur := .group h } with
    | .next u => if u.mayIssue h || u.finishing h then lookAt (u.group h).lwait else { issues := false, wait := none }
    | _ => { issues := false, wait := none }

end Sys2Proof.Machine
end

