-- ==== Sys2Proof/Machine/Sched.lean ====
section
/-! DEFINITION. The scheduler's events (spec/10_scheduling.md R262 to R272): residency, the start, promotion and discard
of runs, the quantum timer, and the halting of a troupe with its tile-task records (spec/13_faults.md R333, R334,
spec/22_debug.md R422, R423). -/

namespace Sys2Proof.Machine

/-- Insert an element where it comes before another one. -/
def insertBy {α : Type} (f : α → α → Bool) (x : α) : List α → List α
  | [] => [x]
  | y :: l => if f x y then x :: y :: l else y :: insertBy f x l

/-- A list in order; equal elements keep theirs. -/
def sortBy {α : Type} (f : α → α → Bool) : List α → List α
  | [] => []
  | x :: l => insertBy (fun a b => !f b a) x (sortBy f l)

/-- Are the first of two numbers that differ, in pairs, rising? -/
def lexLess : List (Nat × Nat) → Bool
  | [] => false
  | (a, b) :: l => if a = b then lexLess l else decide (a < b)

/-! ## The wait list (R263 to R266) -/

/-- The order of the wait list (R263). -/
def State.waitBefore (s : State) (a b : Nat) : Bool :=
  let key (k : Nat) : Nat × Nat × Nat × Nat :=
    let t := s.troupe k
    ((s.launch t.lid).queue, t.entered, t.z, k)
  let x := key a
  let y := key b
  let rest := [(x.2.1, y.2.1), (x.2.2.1, y.2.2.1), (x.2.2.2, y.2.2.2)]
  match (s.troupe a).reached, (s.troupe b).reached with
  | some m, some n => lexLess ((m, n) :: rest)
  | some _, none => true
  | none, some _ => false
  | none, none => lexLess ((x.1, y.1) :: rest)

/-- The wait list of a core in order, without the troupes that are passed over. -/
def State.waiting (s : State) (c : Nat) : List Nat :=
  sortBy s.waitBefore (((s.core c).waitList).filter (fun k => !s.passedOver k))

/-- The header of a troupe's kernel. -/
def State.troupeHeader (s : State) (tid : Nat) : Header := ((s.launch (s.troupe tid).lid).hdr).getD noHeader

/-- Do the limits of R264 let a waiting troupe in? -/
def State.fitsNow (s : State) (c tid : Nat) : Bool := s.fitsCore c (s.troupe tid).lid (s.troupeHeader tid)

/-- Does R265 let a troupe become resident? -/
def State.slotsAllow (s : State) (c tid : Nat) : Bool :=
  let w := (s.launch (s.troupe tid).lid).world
  (s.troupe tid).saved || decide ((s.residents c).length + 1 ≤ s.freeTroupeSlots w c)

/-- The troupe that becomes resident on a core now (R264, R265): the head of the wait list, or, while R265 alone holds
the head back, the first saved troupe. -/
def State.nextTroupe (s : State) (c : Nat) : Option Nat :=
  match s.waiting c with
  | [] => none
  | t :: rest =>
    if !s.fitsNow c t then none
    else if s.slotsAllow c t then some t
    else (rest.find? (fun k => (s.troupe k).saved)).filter (fun k => s.fitsNow c k)

/-- Troupes of a kernel that an empty core can hold, by the limits of R264. -/
def coreHolds (h : Header) : Nat :=
  (List.range 5).foldl (fun k n =>
    if (List.range 4).all (fun q => decide (n * slotsNeeded h q ≤ groupsFit h)) ∧ n * h.spad ≤ 7 then n else k) 0

/-- Lines leave an L1 that has become smaller, until it holds no more than it can; none while they cannot. -/
def State.shrinkL1 (s : State) (c : Nat) : Nat → Option State
  | 0 => some s
  | n + 1 =>
    if (s.core c).l1Held.length ≤ (s.core c).l1Lines then some s
    else
      match victimOf s.free (s.l1Leavers c) with
      | some l => (s.bumpFree.dropLine c l).shrinkL1 c n
      | none => none

/-- The split of an empty core that takes the first troupe of a launch (R15, R264): the L1 has the rest of the SRAM. None
while lines for which it has no more room cannot leave. -/
def State.splitCore (s : State) (c tid : Nat) : Option State :=
  if (s.residents c).isEmpty then
    let h := s.troupeHeader tid
    let s := s.modCore c (fun v => { v with split := coreHolds h * spadBytes h })
    s.shrinkL1 c (s.core c).l1Held.length
  else some s

/-- TROUPE_RESIDENT (R264 to R266): a bank that holds memory of its image or of its spill slots makes it wait (R244). -/
def execTroupeResident (c : Nat) (s : State) : Out :=
  match s.nextTroupe c with
  | none => .next s
  | some tid =>
    match s.splitCore c tid with
    | none => .next s
    | some t =>
      let t := t.seatTroupe tid
      .next (if s.spillHeld t tid || ((s.troupe tid).saved && s.imageHeld tid (s.troupe tid).saveSlot) then s else t)

/-! ## Runs (R146, R267, R268) -/

/-- The halves that one arbitration unit has: a converged pair is one (R268). -/
def State.unitOf (s : State) (gid : Nat) : List Nat := s.halvesOf gid

/-- The first word of a run, if it can be fetched and is an instruction. -/
def State.firstWord (s : State) (gid : Nat) (r : Run) : Option Instr :=
  match (s.fetchLane gid r).2 with
  | .bytes l =>
    match decodeLaneBytes l with
    | .ok i => some i
    | _ => none
  | _ => none

/-- The outstanding accesses that will write a register which a word of a group reads; an access whose service was refused
holds nothing back, since the word meets the refusal (R304). -/
def State.readsFrom (s : State) (gid : Nat) (i : Instr) : List Access :=
  ((s.group gid).accs.filter (fun a => !a.past &&
      (match a.dest with
       | .vreg base n => (laneSources i).any (fun p => spansMeet p base n)
       | _ => false)) ++ ((s.svalPending gid i).map (·.2)).toList).filter (fun a => a.refusal.isNone)

/-- The registers that the first word of a run reads have been written (R267). -/
def State.firstReady (s : State) (gid : Nat) (r : Run) : Bool :=
  match s.firstWord gid r with
  | none => true
  | some i =>
    (s.readsFrom gid i).isEmpty && (s.core (s.coreOf gid)).arrays.all (fun p =>
      match p.2 with
      | some f => !((f.gid == gid || f.other == some gid) && (laneSources i).any (fun q => spansMeet q f.vd f.n))
      | none => true)

/-- Does the first word of a group's head run read the old value of an atomic that has not come (R270)? -/
def State.headAwaitsAtom (s : State) (gid : Nat) : Bool :=
  match (s.group gid).laneq with
  | [] => false
  | r :: _ => ((s.firstWord gid r).map (fun i => (s.readsFrom gid i).any (fun a => a.path == .atom))).getD false

/-- Is a run at the head of a lane queue not held under a guard (R146)? -/
def State.headFree (s : State) (gid : Nat) (r : Run) : Bool :=
  r.admitted ||
    (match r.guard with
     | some k => decide ((s.guard gid k).st = .resolvedTrue)
     | none => true)

/-- Is the head run of one half eligible, apart from its partner (R146, R267)? -/
def State.headEligible (s : State) (gid : Nat) : Bool :=
  match (s.group gid).laneq with
  | [] => false
  | r :: _ =>
    r.slice.isNone && s.laneMayIssue gid && s.firstReady gid r && s.headFree gid r

/-- Is a unit's run eligible (R267, R268)? -/
def State.eligible (s : State) (gid : Nat) : Bool := (s.unitOf gid).all s.headEligible

/-! ## The stall reason (R269, R273) -/

/-- Does a wait of a group hang on a parked access or fetch? -/
def State.waitParked (s : State) (gid : Nat) (w : Option WaitOn) : Bool :=
  match w with
  | some .fetch => true
  | some .parked => true
  | some (.operand k aid) => ((s.group k).acc aid).any Access.isParked
  | some (.trans aid) => ((s.group gid).acc aid).any Access.isParked
  | _ => false

/-- Is the head of a group's lane queue, or one of its commands, held under a pending guard? -/
def State.guardHeld (s : State) (gid : Nat) : Bool :=
  s.guardedCmd gid ||
    (match (s.group gid).laneq with
     | r :: _ =>
       (match r.guard with
        | some k => !r.admitted && decide ((s.guard gid k).st = .pending)
        | none => false)
     | [] => false)

/-- The code of a wait in R273, 12 for none. -/
def waitCode : Option WaitOn → Nat
  | none => 12
  | some w =>
    match w with
    | .barrier _ _ => 4
    | .barFence => 4
    | .queue _ _ => 5
    | .rejoin => 6
    | .meeting => 6
    | .counter _ _ => 7
    | .fence => 7
    | .pathFence _ => 7
    | .guardRoom _ _ => 8
    | .guardResolved _ => 8
    | .issued => 10
    | .drained => 10
    | .retire => 10
    | .parked => 2
    | .fetch => 2
    | .take => 1
    | .brun => 12
    | .mailbox => 12
    | _ => 9

/-- Can the scalar instruction at the PC of a context issue now (R269)? -/
def State.scalarCan (s : State) (c : Nat) : Bool := (s.scalarLook c).issues

/-- The group that a quarter's scalar unit chooses (R269): round-robin by slot, from the one after the group chosen last. No
rule says where the rotation begins: at slot 0 (DESIGN CHOICE, entry 57). -/
def State.scalarTurn (s : State) (core quarter : Nat) : Option Nat :=
  let last := tabGet 15 (s.core core).rr quarter
  (List.range 16).findSome? (fun i =>
    match tabFind (s.core core).slots (16 * quarter + (last + 1 + i) % 16) with
    | some k => if s.ctxOf k = k && s.scalarCan k then some k else none
    | none => none)

/-- The choice has been made: the rotation goes on from this group (R269). -/
def State.turnTaken (s : State) (gid : Nat) : State :=
  let g := s.group gid
  s.modCore (s.coreOf gid) (fun c => { c with rr := tabSet 15 c.rr g.quarter g.slot })

/-- Does a lane word of the group, or of its converged pair, issue in a cycle? -/
def State.laneNow (s : State) (gid : Nat) : Bool := (s.laneLookOf gid).issues

/-- Does a group, or a half of a pair, issue a scalar instruction or a lane word in a cycle that finds the state as it is? -/
def State.issuesNow (s : State) (gid : Nat) : Bool :=
  s.scalarTurn (s.coreOf gid) (s.group gid).quarter == some (s.ctxOf gid) || s.laneNow gid

/-- Does the head run of a group wait to start for a register that its first word reads (R267)? -/
def State.headUnready (s : State) (gid : Nat) : Bool :=
  match (s.group gid).laneq with
  | [] => false
  | r :: _ => r.slice.isNone && s.laneMayIssue gid && s.headFree gid r && !s.firstReady gid r

/-- What the scalar stream of a group waits for: as it stood at the save in a saved troupe. -/
def State.scalarWaitOf (s : State) (gid : Nat) : Option WaitOn :=
  let c := s.ctxOf gid
  if (s.troupe (s.group gid).tid).saved then (s.group c).cueWait else (s.scalarLook c).wait

/-- What its lane stream waits for. -/
def State.laneWaitOf (s : State) (gid : Nat) : Option WaitOn :=
  if (s.troupe (s.group gid).tid).saved then (s.group gid).cueLwait else (s.laneLookOf gid).wait

/-- The stall reason of a group, or of a half of a pair: 0 when it issues, else the lowest code of its conditions (R273;
entry 23). -/
def State.stallCode (s : State) (gid : Nat) : Nat :=
  let g := s.group gid
  let k := s.ctxOf gid
  let c := s.group k
  let w := s.scalarWaitOf gid
  let v := s.laneWaitOf gid
  if s.issuesNow gid then 0
  else if (s.troupe g.tid).resident && !s.mayIssue gid then 1
  else if s.waitParked k w || s.waitParked (s.laneHalf gid) v || g.engq.any (fun k => !k.past && k.parked.isSome) then 2
  else if !c.deferred.isEmpty || !g.deferred.isEmpty then 3
  else
    let n := min (min (waitCode w) (waitCode v)) (min (if s.guardHeld gid then 8 else 12) (if s.headUnready gid then 9 else 12))
    if n < 12 then n else if s.scalarCan k || s.eligible k then 11 else 0

/-- Is a group blocked in the sense of R270, in a cycle that finds the state as it is: by its code, at the ATOM path, or for
the old value of an atomic, which its head run may wait for before it starts? -/
def State.blocked (s : State) (gid : Nat) : Bool :=
  let n := s.stallCode gid
  let atomOld (w : Option WaitOn) : Bool :=
    match w with
    | some (.operand k aid) => ((s.group k).acc aid).any (fun a => a.path == .atom)
    | some (.counter .atom _) => true
    | _ => false
  !s.issuesNow gid &&
    (n == 4 || n == 5 || n == 6 || n == 8 || atomOld (s.scalarWaitOf gid) || atomOld (s.laneWaitOf gid) ||
      (s.headUnready gid && s.headAwaitsAtom gid))

/-- Is a troupe blocked: every group of it that has not retired (R270)? -/
def State.troupeBlocked (s : State) (tid : Nat) : Bool :=
  (s.troupe tid).resident && (s.groupsOf tid).all s.blocked

/-! ## The choice of runs (R268) -/

/-- The arbitration units of a quarter, by slot. -/
def State.unitsOf (s : State) (c quarter : Nat) : List Nat :=
  ((s.core c).slots.filter (fun p => p.1 / 16 == quarter)).filterMap (fun p =>
    if s.ctxOf p.2 = p.2 then some p.2 else none)

/-- When the head run of a unit became eligible: now, if that has not been noted. -/
def State.eligibleSince (s : State) (gid : Nat) : Nat :=
  match (s.group gid).laneq with
  | r :: _ => r.eligible.getD s.now
  | [] => s.now

/-- When the head run of a unit became promoted: after 256 cycles of eligibility (R267). -/
def State.promotedAt (s : State) (gid : Nat) : Option Nat :=
  match (s.group gid).laneq with
  | r :: _ =>
    match r.promoted with
    | some p => some p
    | none => if s.eligibleSince gid + 256 ≤ s.now then some (s.eligibleSince gid + 256) else none
  | [] => none

/-- The order of choice among eligible runs (R268). -/
def State.runBefore (s : State) (a b : Nat) : Bool :=
  let rest := [((s.launchOf a).queue, (s.launchOf b).queue), (s.eligibleSince a, s.eligibleSince b),
    ((s.group a).slot, (s.group b).slot)]
  match s.promotedAt a, s.promotedAt b with
  | some m, some n => lexLess ((m, n) :: rest)
  | some _, none => true
  | none, some _ => false
  | none, none => lexLess rest

/-- Datapath slices of a quarter (R13). -/
def quarterSlices : Nat := 4

/-- Is a datapath slice of a quarter free: no run there holds it (R268)? -/
def State.sliceFree (s : State) (c quarter slice : Nat) : Bool :=
  ((s.core c).slots.filter (fun p => p.1 / 16 == quarter)).all (fun p =>
    match (s.group p.2).laneq with
    | r :: _ => r.slice != some slice
    | [] => true)

/-- The head run of a half starts in a slice: its guard, read as true, no longer counts it (R146). -/
def State.startRun (s : State) (gid slice : Nat) : State :=
  match (s.group gid).laneq with
  | [] => s
  | r :: l =>
    let s := if r.admitted then s else s.dropGuard gid r.guard
    s.modGroup gid (fun g => { g with laneq := { r with slice := some slice, admitted := true } :: l, lwait := none })

/-- RUN_START (R268): a free slice of a quarter starts the first eligible run in the order of choice. -/
def execRunStart (c quarter slice : Nat) (s : State) : Out :=
  if quarterSlices ≤ slice ∨ s.sliceFree c quarter slice = false then .next s
  else
    match sortBy s.runBefore ((s.unitsOf c quarter).filter s.eligible) with
    | [] => .next s
    | gid :: _ => .next ((s.unitOf gid).foldl (fun s k => s.startRun k slice) s)

/-- RUN_PROMOTION (R267): a run that has been eligible for 256 cycles is promoted. -/
def execRunPromotion (gid : Nat) (s : State) : Out :=
  let c := s.ctxOf gid
  match s.promotedAt c with
  | some n =>
    if s.eligible c then
      .next ((s.unitOf c).foldl (fun s k => s.modGroup k (fun g =>
        { g with
          laneq := match g.laneq with
            | [] => []
            | r :: l => { r with eligible := some (n - 256), promoted := some n } :: l })) s)
    else .next s
  | none => .next s

/-- The head entry of a half is discarded (R146). -/
def State.discardHead (s : State) (gid : Nat) : State :=
  match (s.group gid).laneq with
  | [] => s
  | r :: l => (s.dropGuard gid r.guard).modGroup gid (fun g => { g with laneq := l, lwait := none })

/-- Is the head entry of a half held under a guard that is resolved false (R146)? -/
def State.headDiscards (s : State) (gid : Nat) : Bool :=
  match (s.group gid).laneq with
  | [] => false
  | r :: _ =>
    match r.guard with
    | some k => !r.admitted && decide ((s.guard gid k).st = .resolvedFalse)
    | none => false

/-- GUARDED_ENTRY_DISCARD (R146); frozen entries stay (R331). -/
def execGuardedEntryDiscard (gid : Nat) (s : State) : Out :=
  let hs := s.halvesOf gid
  if s.mayIssue gid && !(s.group (s.ctxOf gid)).trapMode && hs.all s.headDiscards then
    .next (hs.foldl State.discardHead s)
  else .next s

/-! ## The quantum timer (R263, R270) -/

/-- The world that owns a core, and its quantum in cycles (R270). -/
def State.quantumOf (s : State) (c : Nat) : Option Nat :=
  match (s.core c).owner with
  | some w => if (s.world w).present then some (1200 * (s.world w).quantum) else none
  | none => none

/-- An expiry counts in the wait of each troupe on the list (R263). -/
def State.countExpiry (s : State) (c : Nat) : State :=
  (s.waiting c).foldl (fun s k => s.modTroupe k (fun t =>
    { t with
      waited := t.waited + 1
      reached := if t.waited + 1 = 8 then some s.now else t.reached })) s

/-- The first of a list by a number. -/
def leastBy (f : Nat → Nat) : List Nat → Option Nat
  | [] => none
  | x :: l =>
    match leastBy f l with
    | some y => some (if f x ≤ f y then x else y)
    | none => some x

/-- Does a troupe halt for a take or a rollback, after which it goes on? -/
def Troupe.takes (t : Troupe) : Bool := t.halting == some .take || t.halting == some .rollback

/-- The resident troupes of a core that the timer may save. -/
def State.savable (s : State) (c : Nat) : List Nat :=
  (s.residents c).filter (fun k => ((s.troupe k).halting.isNone || (s.troupe k).takes) && !(s.troupe k).held)

/-- The timer saves a troupe: after the take or rollback that it halts for. -/
def State.askSave (s : State) (tid : Nat) : State :=
  if (s.troupe tid).takes then s.modTroupe tid (fun t => { t with saveDue := true }) else s.askHalt tid .save

/-- Has a troupe been blocked for the whole quantum since `last` (R270)? -/
def State.blockedAll (s : State) (last tid : Nat) : Bool :=
  let t := s.troupe tid
  s.troupeBlocked tid && decide (t.residentSince ≤ last) &&
    (match t.blockedSince with
     | some b => decide (b ≤ last)
     | none => false)

/-- The action of an expiry (R270). -/
def State.quantumAction (s : State) (c last head : Nat) : State :=
  let lid := (s.troupe head).lid
  let rs := s.savable c
  if (s.residents c).any (fun k => (s.troupe k).lid != lid) then rs.foldl (fun s k => s.askSave k) s
  else
    match leastBy (fun k => ((s.troupe k).blockedSince).getD s.now) (rs.filter (s.blockedAll last)) with
    | some k => s.askSave k
    | none =>
      let lower := rs.filter (fun k => decide ((s.launch lid).queue ≤ (s.launch (s.troupe k).lid).queue))
      match leastBy (fun k => (s.troupe k).residentSince) lower with
      | some k => s.askSave k
      | none => s

/-- QUANTUM_EXPIRY (R263, R270): a quantum that has changed counts from the expiry on (R419). -/
def execQuantumExpiry (c : Nat) (s : State) : Out :=
  match s.quantumOf c with
  | none => .next s
  | some q =>
    let last := (s.core c).lastExpiry
    if s.now < last + (s.core c).period.getD q then .next s
    else
      let s := (s.modCore c (fun v => { v with lastExpiry := s.now, period := some q })).countExpiry c
      match s.waiting c with
      | [] => .next s
      | head :: _ => .next (s.quantumAction c last head)

/-! ## Halting (R333, R422, R423) -/

/-- The oldest unfinished command of a group: the unit that holds it and its sequence number there (R423). Its head run, its
engine commands and its atomics, by when they came: after how many runs, and, between two runs, after how many accesses. A
sequence number that no rule gives is left free. -/
def State.oldestUnit (s : State) (gid : Nat) : Nat × Nat :=
  let g := s.group gid
  let engine (p : Path) : Nat :=
    match p with
    | .copy => 3
    | .gath => 4
    | .coll => 5
    | .bank => 6
    | _ => 7
  let run : List (Nat × Nat × Nat × Nat) := (g.laneq.take 1).map (fun r => (r.id + 1, 0, 0, g.runsQueued % 65536))
  let atoms : List (Nat × Nat × Nat × Nat) := (g.accs.filter (fun a => !a.past && a.path == .atom)).map (fun a =>
    (a.runsAt, 2 * a.aid + 2, 7, (Config.freeWord s.free).toNat % 65536))
  let cmds : List (Nat × Nat × Nat × Nat) := (g.engq.filter (fun c => !c.past)).map (fun c =>
    (c.runsAt, 2 * c.aidAt + 1, engine c.path, c.seq % 65536))
  match sortBy (fun a b => lexLess [(a.1, b.1), (a.2.1, b.2.1)]) (run ++ atoms ++ cmds) with
  | [] => (1, 0)
  | x :: _ => x.2.2

/-- The tile-task record of a group (R423), as it is about to halt. -/
def State.taskRecord (s : State) (gid : Nat) : List Byte :=
  let g := s.group gid
  let t := s.troupe g.tid
  let c := s.group (s.ctxOf gid)
  let u := s.oldestUnit gid
  let run := g.laneq.headD { next := 0, exm := 0, fmt := 0, svals := [] }
  let rem := (run.rep.map (fun r => r.count - r.done)).getD 0
  natBytes 8 (packBits [(u.1, 0), (s.stallCode gid, 4), (t.z, 8), (g.grpid, 10), (if g.isDouble then 1 else 0, 14),
      (if c.trapMode then 1 else 0, 15), (if g.part then 1 else 0, 16), (u.2, 32)]) ++
    natBytes 8 c.pc ++ natBytes 8 (packBits [(run.next % 2 ^ 32, 0), (rem % 64, 32)]) ++
    natBytes 8 ((s.now - (s.core t.core).clockBase) % 2 ^ 64)

/-- Where the record of a group lies (R423, R417). -/
def State.taskPa (s : State) (gid : Nat) : Option Nat :=
  let g := s.group gid
  let t := s.troupe g.tid
  (s.areaPart (s.worldOf gid) 0 t.core).map (fun p =>
    p.1 + 32 * (32 * t.z + 2 * g.grpid + (if g.isDouble then 1 else 0)))

/-- The record of a group that halts for the debugger is made (R423), once at each halt. -/
def State.makeRecord (s : State) (gid : Nat) : State :=
  if (s.group gid).recorded then s
  else
    let inside : Bool :=
      match (s.group gid).laneq with
      | r :: _ => r.begun && !r.matrixLast
      | [] => false
    let s := s.modGroup gid (fun g => { g with part := inside })
    s.bumpFree.modGroup gid (fun g => { g with recorded := true, record := some (s.taskRecord gid) })

/-- A record that has been made is written, when its bank takes it (R22, R423). -/
def State.writeRecord (s : State) (gid : Nat) : State :=
  match (s.group gid).record, s.taskPa gid with
  | some l, some pa =>
    if s.rangeBusy (s.worldOf gid) pa l.length then s
    else
      (s.homeWriteAll (s.worldOf gid) pa l false (portOf (s.coreOf gid))).modGroup gid (fun g => { g with record := none })
  | some _, none => s.modGroup gid (fun g => { g with record := none })
  | none, _ => s

/-- The records that have been made and not written. -/
def State.writeRecords (s : State) : State :=
  ((s.groups.filter (fun p => p.2.record.isSome)).map (·.1)).foldl State.writeRecord s

/-- A group halts for the debugger (R422, R423), and stays in place. -/
def State.haltForDebug (s : State) (gid : Nat) : State :=
  (((s.makeRecord gid).haltGroup gid).storeHeld gid).modGroup gid (fun g => { g with halted := true })

/-- Have all groups of a troupe come to a boundary where a stop for the debugger halts them (R422)? -/
def State.atBoundary (s : State) (tid : Nat) : Bool := (s.groupsOf tid).all (fun k => !s.finishing k)

/-- PREEMPTION_HALT (R333, R334, R422): the groups of a troupe that is asked to halt have drained; it is saved, or halted
in place for the debugger. A troupe that halts for a take or a rollback goes on with those events. -/
def execPreemptionHalt (tid : Nat) (s : State) : Out :=
  let t := s.troupe tid
  match t.halting with
  | none => .next s
  | some why =>
    if !t.resident then .next (s.modTroupe tid (fun t => { t with halting := none }))
    else if !s.troupeDrained tid || !s.released tid || s.slotsHeld tid then .next s
    else
      let save : State := if s.imageHeld tid (s.openSlot (s.launch t.lid).world t.core) then s else s.saveTroupe tid
      match why with
      | .save => .next save
      | .freeze => .next save
      | .debug =>
        if s.atBoundary tid then
          .next (((s.groupsOf tid).foldl State.haltForDebug s).modTroupe tid (fun t => { t with halting := none }))
        else .next s
      | .take => .next s
      | .rollback => .next s

end Sys2Proof.Machine
end

