-- ==== Sys2Proof/Machine/Cue.lean ====
section
/-! DEFINITION. The ends of waits: the scalar wait (spec/06_isa_scalar.md R116), retirement (R135), rejoining (R144, R214),
deferred traps (spec/13_faults.md R332), and the cue sheet that finds the waits which never end (spec/12_sync.md R320 to
R323). -/

namespace Sys2Proof.Machine

/-! ## The ends of waits -/

/-- Is what a group's scalar instruction waits for over (R116)? Waits that an event of their own ends are not over
here; a wait on a fence is looked at again. -/
def State.groupWaitOver (s : State) (gid : Nat) (w : WaitOn) : Bool :=
  match w with
  | .trans _ => false
  | .issued => s.lanesIssued gid
  | .completed => s.lanesCompleted gid
  | .predicates => s.lanesIssued gid
  | .drained => s.lanesCompleted gid
  | .parked => !s.anyParked gid
  | .counter p n => (s.halvesOf gid).all (fun k => decide ((s.group k).count p ≤ n))
  | .laneRoom => (s.halvesOf gid).all (fun k => decide ((s.group k).laneq.length < laneRoom))
  | .guardRoom k n => decide ((s.guard gid k).count + n ≤ guardMax)
  | .guardResolved k => decide ((s.guard gid k).st ≠ .pending)
  | .barrier key phase => decide ((s.barrier key).phase ≠ phase)
  | .rejoin => false
  | .fence => true
  | .pathFence _ => true
  | .barFence => true
  | .retire => false
  | .brun => false
  | .mailbox => true
  | .take => true
  | .fetch => false
  | .queue _ _ => true
  | .operand k aid => ((s.group k).acc aid).isNone
  | .array => !s.inArray gid
  | .meeting => false

/-- SCALAR_WAIT_END (R116, R313): a scalar instruction whose wait is over issues again; a completed barrier phase lets its
`BAR` go on. -/
def execScalarWaitEnd (a : Agent) (s : State) : Out :=
  match a with
  | .none => .next s
  | .group gid =>
    let c := s.ctxOf gid
    match (s.group c).wait with
    | some w =>
      if s.mayIssue c && s.groupWaitOver c w then .next (s.modGroup c (fun g => { g with wait := none })) else .next s
    | none => .next s
  | .bdc sl =>
    match (s.bdc sl).wait with
    | some .mailbox =>
      .next (if (s.bdc sl).mbx.isEmpty then s else s.modBdc sl (fun c => { c with wait := none }))
    | _ => .next s

/-- DEFERRED_TRAP_DELIVERY (R327, R332): at a scalar boundary, a waiting instruction's included. -/
def execDeferredTrapDelivery (gid : Nat) (s : State) : Out :=
  let c := s.ctxOf gid
  .next (if s.mayIssue c && decide ((s.group c).delay = 0) then s.deliverWaiting c else s)

/-- May a context at `EXIT` retire (R135): every run completed or absent, nothing outstanding, no deferred trap that is
still to be taken? -/
def State.mayRetire (s : State) (gid : Nat) : Bool :=
  let g := s.group gid
  s.mayIssue gid && decide (g.wait = some .retire) && (g.trapMode || g.deferred.isEmpty) && s.lanesCompleted gid &&
    (s.halvesOf gid).all (fun k => (s.group k).accs.isEmpty && (s.group k).engq.isEmpty && !s.inArray k)

/-- Is the group, with its halves, the last of its troupe? -/
def State.lastOfTroupe (s : State) (gid : Nat) : Bool :=
  (s.groupsOf (s.group gid).tid).all (fun k => (s.halvesOf gid).contains k)

/-- GROUP_RETIRE (R135, R144, R213, R304, R314): a group that waits at `EXIT` retires; a refused access traps there. The
stores that a take still holds are performed before a troupe's last group retires. -/
def execGroupRetire (gid : Nat) (s : State) : Out :=
  let c := s.ctxOf gid
  if !s.mayIssue c || decide ((s.group c).wait ≠ some .retire) then .next s
  else if (s.refusedOf c).isSome then .next (s.waitsOrRefused c .retire)
  else if !s.mayRetire c then .next s
  else
    let tid := (s.group c).tid
    match (if s.lastOfTroupe c then s.releaseHold tid else some s) with
    | none => .next s
    | some s =>
      if s.lastOfTroupe c && !s.released tid then .next s
      else
        let hs := s.halvesOf c
        let s := if hs.length = 1 ∧ (s.group c).twin = true then s.breakGuide (partnerOf c) 2 else s
        .next (hs.foldl State.retire s)

/-- TWIN_REJOIN (R144, R214): a half that waits at `TWJOIN` sets JWAIT once no command is held under a guard, goes on
alone when its partner has retired, and rejoins it when both wait. -/
def execTwinRejoin (gid : Nat) (s : State) : Out :=
  let g := s.group gid
  let p := partnerOf gid
  if !s.mayIssue gid || !g.split || decide (g.wait ≠ some .rejoin) then .next s
  else if !s.live p then .next ((s.modGroup gid (fun g => { g with jwait := false })).advance (.group gid))
  else if g.jwait then
    .next (if (s.group p).jwait && decide ((s.group p).wait = some .rejoin) then s.rejoin gid else s)
  else if s.guardedCmd gid then .next s
  else .next ((s.modGroup gid (fun g => { g with jwait := true })).breakGuide p 1)

/-! ## The cue sheet (R320) -/

/-- A record of the cue sheet: the object's kind code, its OBJID of R322, the remaining signallers, and the SIG field. -/
structure CueRec where
  obj : Nat
  objid : Nat
  signallers : List Nat
  sig : Nat
  deriving DecidableEq, Repr

/-- The mask of groups of one troupe by GRPID. -/
def grpMask (l : List Nat) : Nat := (List.range 16).foldl (fun m i => if l.any (fun k => k % 16 = i) then m + 2 ^ i else m) 0

/-- What a group's scalar stream waits for, as its record shows it: as it stood at the save for a saved troupe. -/
def State.cueWaitOf (s : State) (gid : Nat) : Option WaitOn :=
  let g := s.group (s.ctxOf gid)
  if (s.troupe g.tid).saved then g.cueWait else g.wait

/-- The same for its lane stream. A converged pair waits at a queue in both halves, though one alone is at the word (R160). -/
def State.cueLwaitOf (s : State) (gid : Nat) : Option WaitOn :=
  let own (k : Nat) : Option WaitOn :=
    if (s.troupe (s.group k).tid).saved then (s.group k).cueLwait else (s.group k).lwait
  match own gid, (if (s.group gid).converged then own (partnerOf gid) else none) with
  | none, some (.queue q push) => some (.queue q push)
  | w, _ => w

/-- The record of a wait at a barrier: none once its phase has completed. -/
def State.cueBarrier (s : State) (gid key phase : Nat) : Option CueRec :=
  let b := s.barrier key
  let level := key / 16 % 4
  let num := key % 16
  if b.phase ≠ phase then none
  else
    let rest := (s.membersOf gid level num).filter (fun k => !b.arrived.contains k)
    some { obj := 0, objid := packBits [(level, 10), (num, 6)], signallers := rest,
           sig := if level ≤ 1 then grpMask rest else rest.length }

/-- The record of a wait at a queue, while it still has to wait and some signaller has not retired (R317). -/
def State.cueQueue (s : State) (gid q : Nat) (push : Bool) : Option CueRec :=
  let tid := (s.group gid).tid
  let h := s.headerOf gid
  let size := (tabGet [] (s.troupe tid).queues q).length
  let mask := tabGet 0 (if push then h.qcons else h.qprod) q
  let rest := (s.groupsOf tid).filter (fun k => bitOf mask (k % 16))
  if rest.isEmpty || (if push then decide (size < 8) else decide (0 < size)) then none
  else some { obj := if push then 2 else 1, objid := q, signallers := rest, sig := grpMask rest }

/-- The rendezvous that a group waits at in its lane stream, as its record shows it. -/
def State.cueRdvOf (s : State) (gid : Nat) : Option Rendezvous :=
  let g := s.group gid
  if s.cueLwaitOf gid ≠ some .meeting then none else if (s.troupe g.tid).saved then g.cueRdv else g.rdv

/-- Does a group wait at `TWJOIN`, as its record shows it? -/
def State.cueJoins (s : State) (gid : Nat) : Bool :=
  s.cueWaitOf gid == some .rejoin && (s.group gid).jwait

/-- The record of a rendezvous with a group of the troupe: none once the partner has come to it too, or has retired, since
the wait is then over (R144, R187, R213). -/
def State.cueMeeting (s : State) (partner : Nat) (met : Bool) : Option CueRec :=
  if met || !s.live partner then none
  else some { obj := 4, objid := partner % 16, signallers := [partner], sig := grpMask [partner] }

/-- The groups whose lane queues feed a context's guards (R320). -/
def State.cueUnit (s : State) (gid : Nat) : List Nat := s.halvesOf gid

/-- The pending guard under which the head entry of a group's lane queue is held. -/
def State.headGuard (s : State) (gid : Nat) : Option Nat :=
  match (s.group gid).laneq with
  | r :: _ =>
    match r.guard with
    | some k => if !r.admitted && decide ((s.guard gid k).st = .pending) then some k else none
    | none => none
  | [] => none

/-- Can no `VGUARD` of the group resolve its guards any more (R320)? -/
def State.noVguard (s : State) (gid : Nat) : Bool :=
  (s.cueUnit gid).all (fun k => (s.group k).laneq.isEmpty || (s.headGuard k).isSome)

/-- The pending guard under which an engine command is held. -/
def State.heldUnder (s : State) (gid : Nat) (c : Cmd) : Option Nat :=
  match c.guard with
  | some k => if !c.past && !c.started && decide ((s.guard gid k).st = .pending) then some k else none
  | none => none

/-- The pending guard of an engine command that has not started, on the paths of a test. -/
def State.cmdGuard (s : State) (gid : Nat) (f : Path → Bool) : Option Nat :=
  (s.halvesOf gid).findSome? (fun h => (s.group h).engq.findSome? (fun c => if f c.path then s.heldUnder gid c else none))

/-- The pending guard that keeps the counter of a path above `n`: since it falls in the order of issue (R53), a held command
keeps itself and those behind it. -/
def State.countGuard (s : State) (gid : Nat) (p : Path) (n : Nat) : Option Nat :=
  (s.halvesOf gid).findSome? (fun h =>
    let l := (s.group h).engq.filter (fun c => c.path == p)
    (indexed l).findSome? (fun c => if n < l.length - c.1 then s.heldUnder gid c.2 else none))

/-- The guard that a scalar wait cannot end without (R320). -/
def State.waitGuard (s : State) (gid : Nat) (w : WaitOn) : Option Nat :=
  match w with
  | .guardResolved k => if (s.guard gid k).st = .pending then some k else none
  | .guardRoom k _ => if (s.guard gid k).st = .pending then some k else none
  | .counter p n => s.countGuard gid p n
  | .fence => s.cmdGuard gid (fun _ => true)
  | .barFence => s.cmdGuard gid (fun _ => true)
  | .pathFence p => s.cmdGuard gid (fun q => q == p)
  | .retire => s.cmdGuard gid (fun _ => true)
  | .rejoin => s.cmdGuard gid (fun _ => true)
  | _ => none

/-- The record of a wait on an unreachable guard: the lane queue's head, or the scalar wait (R320). -/
def State.cueGuard (s : State) (gid : Nat) : Option CueRec :=
  let c := s.ctxOf gid
  if !s.noVguard gid then none
  else
    let k :=
      match (s.cueUnit gid).findSome? s.headGuard with
      | some k => some k
      | none => (s.cueWaitOf gid).bind (fun w => s.waitGuard c w)
    k.map (fun k => { obj := 3, objid := k, signallers := [], sig := 0 })

/-- The cue-sheet record of a group, if it has one (R320). -/
def State.cueOf (s : State) (gid : Nat) : Option CueRec :=
  let g := s.group gid
  let tid := g.tid
  let scalar : Option CueRec :=
    match s.cueWaitOf gid with
    | some (.barrier key phase) => s.cueBarrier gid key phase
    | some .rejoin => if g.jwait then s.cueMeeting (partnerOf gid) (s.cueJoins (partnerOf gid)) else none
    | _ => none
  let lane : Option CueRec :=
    match s.cueLwaitOf gid with
    | some (.queue q push) => s.cueQueue gid q push
    | some .meeting => (s.cueRdvOf gid).bind (fun r =>
        match r.partner with
        | some p => s.cueMeeting (16 * tid + p) ((s.cueRdvOf (16 * tid + p)).any (fun q => q.partner == some (gid % 16)))
        | none => s.cueMeeting (partnerOf gid) ((s.cueRdvOf (partnerOf gid)).any (fun q => q.partner.isNone)))
    | _ => none
  (scalar.or lane).or (s.cueGuard gid)

/-! ## The walk (R321 to R323) -/

/-- Does a group with this record leave the set in a pass of the walk (R321)? -/
def CueRec.leaves (r : CueRec) (d : List Nat) : Bool :=
  if r.obj = 0 ∨ r.obj = 4 then !r.signallers.isEmpty && r.signallers.all (fun k => !d.contains k)
  else if r.obj = 1 ∨ r.obj = 2 then r.signallers.any (fun k => !d.contains k)
  else false

/-- The passes of the walk: each group that may leave does, until none does. -/
def cuePasses : Nat → List (Nat × CueRec) → List (Nat × CueRec)
  | 0, d => d
  | n + 1, d => cuePasses n (d.filter (fun p => !p.2.leaves (d.map (·.1))))

/-- The deadlocked groups of a ring with their records (R321), in the order of R322. -/
def State.stuck (s : State) (lid : Nat) : List (Nat × CueRec) :=
  let d := (s.launchGroups lid).filterMap (fun k => (s.cueOf k).map (fun r => (k, r)))
  let key (k : Nat) : Nat × Nat × Nat × Nat :=
    let t := s.troupe (s.group k).tid
    (t.z, coreY t.core, coreX t.core, k % 16)
  sortBy (fun a b =>
    let x := key a.1
    let y := key b.1
    lexLess [(x.1, y.1), (x.2.1, y.2.1), (x.2.2.1, y.2.2.1), (x.2.2.2, y.2.2.2)]) (cuePasses d.length d)

/-- One entry of a deadlock record (R322). -/
def State.cueEntry (s : State) (gid : Nat) (r : CueRec) : Nat :=
  let t := s.troupe (s.group gid).tid
  packBits [(coreX t.core, 0), (coreY t.core, 5), (t.z, 10), (gid % 16, 12),
    (if (s.group gid).isDouble then 1 else 0, 16), (r.obj, 17), (r.objid % 4096, 20), (r.sig % 65536, 32)]

/-- The deadlock record of a set (R322). -/
def State.logDeadlock (s : State) (lid : Nat) (d : List (Nat × CueRec)) : State :=
  let l := s.launch lid
  let entries := (indexed (d.take 8)).map (fun p => (s.cueEntry p.2.1 p.2.2, 128 + 48 * p.1))
  s.log l.world (packBits ([(0x12, 0), (min d.length 255, 8), (l.world, 16), (l.seq % 2 ^ 32, 32), (s.now % 2 ^ 64, 64)] ++
    entries))

/-- The log entry of a termination for deadlock (R387, KIND 0x10). -/
def State.logStuckEnd (s : State) (lid : Nat) : State :=
  let l := s.launch lid
  s.log l.world (s.logHead 0x10 l.world l.seq ||| packBits [(2, 320)])

/-- A deadlocked set as later walks know it: its groups with their objects (R322). -/
def setOf (d : List (Nat × CueRec)) : List (Nat × Nat × Nat) := d.map (fun p => (p.1, p.2.obj, p.2.objid))

/-- One ring is walked (R321 to R323): a set that the last walk has not left unchanged is reported; under the terminate
policy, which a device in hardware mode applies (R384), the ring ends. -/
def State.walkRing (s : State) (lid : Nat) : State :=
  let l := s.launch lid
  if !l.placed || l.ended || l.micro then s
  else
    let d := s.stuck lid
    let s :=
      if d.isEmpty || l.reported == setOf d then s else s.logDeadlock lid d
    let s := s.modLaunch lid (fun l => { l with reported := setOf d })
    let v := s.world l.world
    if !d.isEmpty && v.policy && !v.assisted 1 then (s.logStuckEnd lid).endRing lid 2 0 else s

/-- CUE_SHEET_WALK (R321). -/
def execCueSheetWalk (lid : Nat) (s : State) : Out := .next (s.walkRing lid)

end Sys2Proof.Machine
end

