-- ==== Sys2Proof/Machine/Crypto.lean ====
section
/-! DEFINITION. The algorithms that spec/20_trust.md names for keys, tags and packets: SHA-256 and HMAC with the KDF of R393,
AES-256 with the key wrap of R392, the counter mode and GMAC of R394, GCM of R398, and P-256 for R392, R401 and R402. A
secret or a block is a number, its first byte the most significant (R393 states that order; for the other algorithms it is
that of the standards, entry 13). -/

namespace Sys2Proof.Machine

/-- The low `n` bytes of a number, most significant first. -/
def natBytesBe (n v : Nat) : List Byte := (natBytes n v).reverse

/-- The number that bytes hold, most significant first. -/
def bytesNatBe (l : List Byte) : Nat := bytesNat l.reverse

/-- A list cut into pieces of `n`; `fuel` bounds their number. -/
def cutUp {α : Type} (n : Nat) : Nat → List α → List (List α)
  | 0, _ => []
  | fuel + 1, l => if l.isEmpty then [] else l.take n :: cutUp n fuel (l.drop n)

/-- The ASCII bytes of a label (R393). -/
def labelBytes (l : String) : List Byte := l.toList.map (fun c => BitVec.ofNat 8 c.toNat)

/-! ## SHA-256, HMAC and the KDF (R393) -/

/-- Rotation of a 32-bit word to the right. -/
def rotr32 (x k : Nat) : Nat := (x >>> k ||| x <<< (32 - k)) % 2 ^ 32

/-- The round constants of SHA-256. -/
def shaRounds : List Nat :=
  [0x428a2f98, 0x71374491, 0xb5c0fbcf, 0xe9b5dba5, 0x3956c25b, 0x59f111f1, 0x923f82a4, 0xab1c5ed5] ++
  [0xd807aa98, 0x12835b01, 0x243185be, 0x550c7dc3, 0x72be5d74, 0x80deb1fe, 0x9bdc06a7, 0xc19bf174] ++
  [0xe49b69c1, 0xefbe4786, 0x0fc19dc6, 0x240ca1cc, 0x2de92c6f, 0x4a7484aa, 0x5cb0a9dc, 0x76f988da] ++
  [0x983e5152, 0xa831c66d, 0xb00327c8, 0xbf597fc7, 0xc6e00bf3, 0xd5a79147, 0x06ca6351, 0x14292967] ++
  [0x27b70a85, 0x2e1b2138, 0x4d2c6dfc, 0x53380d13, 0x650a7354, 0x766a0abb, 0x81c2c92e, 0x92722c85] ++
  [0xa2bfe8a1, 0xa81a664b, 0xc24b8b70, 0xc76c51a3, 0xd192e819, 0xd6990624, 0xf40e3585, 0x106aa070] ++
  [0x19a4c116, 0x1e376c08, 0x2748774c, 0x34b0bcb5, 0x391c0cb3, 0x4ed8aa4a, 0x5b9cca4f, 0x682e6ff3] ++
  [0x748f82ee, 0x78a5636f, 0x84c87814, 0x8cc70208, 0x90befffa, 0xa4506ceb, 0xbef9a3f7, 0xc67178f2]

/-- The initial hash value of SHA-256. -/
def shaStart : List Nat := [0x6a09e667, 0xbb67ae85, 0x3c6ef372, 0xa54ff53a, 0x510e527f, 0x9b05688c, 0x1f83d9ab, 0x5be0cd19]

/-- The message schedule of a block, newest word first: `n` words are still to come. -/
def shaSchedule : Nat → List Nat → List Nat
  | 0, l => l
  | n + 1, l =>
    let x := l.getD 14 0
    let y := l.getD 1 0
    let a := rotr32 x 7 ^^^ rotr32 x 18 ^^^ x >>> 3
    let b := rotr32 y 17 ^^^ rotr32 y 19 ^^^ y >>> 10
    shaSchedule n ((b + l.getD 6 0 + a + l.getD 15 0) % 2 ^ 32 :: l)

/-- One round, on the eight working words, with its constant and word of the schedule. -/
def shaRound (v : List Nat) (k : Nat × Nat) : List Nat :=
  match v with
  | [a, b, c, d, e, f, g, h] =>
    let t := h + (rotr32 e 6 ^^^ rotr32 e 11 ^^^ rotr32 e 25) + ((e &&& f) ^^^ ((2 ^ 32 - 1 - e) &&& g)) + k.1 + k.2
    let u := (rotr32 a 2 ^^^ rotr32 a 13 ^^^ rotr32 a 22) + ((a &&& b) ^^^ (a &&& c) ^^^ (b &&& c))
    [(t + u) % 2 ^ 32, a, b, c, (d + t) % 2 ^ 32, e, f, g]
  | _ => v

/-- A block of 64 bytes enters the hash. -/
def shaBlock (v : List Nat) (block : List Byte) : List Nat :=
  let words := (cutUp 4 16 block).map bytesNatBe
  let w := (shaSchedule 48 words.reverse).reverse
  (v.zip ((shaRounds.zip w).foldl shaRound v)).map (fun p => (p.1 + p.2) % 2 ^ 32)

/-- SHA-256 of a message, as 32 bytes. -/
def sha256 (l : List Byte) : List Byte :=
  let pad := List.replicate ((119 - l.length % 64) % 64) (0 : Byte)
  let m := l ++ 0x80 :: pad ++ natBytesBe 8 (8 * l.length)
  ((cutUp 64 (m.length / 64) m).foldl shaBlock shaStart).flatMap (natBytesBe 4)

/-- HMAC with SHA-256, of a key of 32 bytes. -/
def hmacSha256 (key : Nat) (l : List Byte) : List Byte :=
  let k := natBytesBe 32 key ++ List.replicate 32 0
  sha256 (k.map (· ^^^ 0x5c) ++ sha256 (k.map (· ^^^ 0x36) ++ l))

/-- KDF(KI, label, context) (R393). -/
def kdf (ki : Nat) (label : String) (context : List Byte) : Nat :=
  bytesNatBe (hmacSha256 ki (natBytesBe 4 1 ++ labelBytes label ++ 0 :: context ++ natBytesBe 4 0x100))

/-! ## AES-256 -/

/-- The S-box of AES and its inverse: entry `i` is byte `i % 32` of number `i / 32`. -/
def aesBox : List Nat :=
  [0xc072a49cafa2d4adf04759fa7dc982ca76abd7fe2b670130c56f6bf27b777c63,
   0x75b227ebe28012079a059618c323c7041531d871f1e5a534ccf73f362693fdb7,
   0xcf584c4a39becb6a5bb1fc20ed00d153842fe329b3d63b52a05a6e1b1a2c8309,
   0xd2f3ff1021dab6bcf5389d928f40a351a89f3c507f02f94585334d43fbaaefd0,
   0xdb0b5ede14b8ee4688902a22dc4f816073195d643d7ea7c41744975fec130ccd,
   0x08ae7a65eaf4566ca94ed58d6d37c8e779e4959162acd3c25c2406490a3a32e0,
   0x9e1dc186b95735610ef6034866b53e708a8bbd4b1f74dde8c6b4a61c2e2578ba,
   0x16bb54b00f2d99416842e6bf0d89a18cdf2855cee9871e9b948ed9691198f8e1]

/-- The inverse of the S-box. -/
def aesUnbox : List Nat :=
  [0xcbe9dec444438e3487ff2f9b8239e37cfbd7f3819ea340bf38a53630d56a0952,
   0x25d18b6d49a25b76b224d92866a12e084ec3fa420b954cee3d23c2a632947b54,
   0x849d8da75746155edab9edfd5048706c92b6655dcc5ca4d41698688664f6f872,
   0x6b8a130103bdafc1020f3fca8f1e2cd00645b3b80558e4f70ad3bc8c00abd890,
   0x6edf751ce837f9e28535ade72274ac9673e6b4f0cecff297eadc674f4111913a,
   0xf45acd78fec0db9a2079d2c64b3e56fc1bbe18aa0e62b76f89c5291d711af147,
   0xef9cc9939f7ae52d0d4ab519a97f51605fec8027591012b131c7078833a8dd1f,
   0x7d0c2155631469e126d677ba7e042b17619953833cbbebc8b0f52aae4d3be0a0]

/-- An entry of such a table. -/
def boxAt (t : List Nat) (x : Nat) : Nat := t.getD (x / 32) 0 >>> (8 * (x % 32)) % 256

/-- Multiplication by x in the field of AES. -/
def aesDouble (a : Nat) : Nat := if a < 128 then 2 * a else (2 * a ^^^ 0x11b)

/-- Multiplication in the field of AES by a factor below 16. -/
def aesTimes (k a : Nat) : Nat :=
  let part (i v : Nat) : Nat := if k.testBit i then v else 0
  part 0 a ^^^ part 1 (aesDouble a) ^^^ part 2 (aesDouble (aesDouble a)) ^^^
    part 3 (aesDouble (aesDouble (aesDouble a)))

/-- The S-box on each byte of a word. -/
def aesSubWord (w : Nat) : Nat :=
  (List.range 4).foldl (fun r i => r ||| boxAt aesBox (w >>> (8 * i) % 256) <<< (8 * i)) 0

/-- The key schedule of AES-256, newest word first: `n` words are still to come. -/
def aesSchedule : Nat → List Nat → List Nat
  | 0, l => l
  | n + 1, l =>
    let i := l.length
    let t := l.getD 0 0
    let u :=
      if i % 8 = 0 then aesSubWord ((t <<< 8 ||| t >>> 24) % 2 ^ 32) ^^^ (2 ^ (i / 8 - 1)) <<< 24
      else if i % 8 = 4 then aesSubWord t
      else t
    aesSchedule n ((l.getD 7 0 ^^^ u) :: l)

/-- The 15 round keys of a 256-bit key, each of 16 bytes. -/
def aesKeys (key : Nat) : List (List Nat) :=
  let w := (aesSchedule 52 ((List.range 8).map (fun i => key >>> (32 * i) % 2 ^ 32))).reverse
  cutUp 16 15 (w.flatMap (fun v => (List.range 4).map (fun i => v >>> (24 - 8 * i) % 256)))

/-- A round key is added. -/
def aesAdd (a b : List Nat) : List Nat := a.zipWith (· ^^^ ·) b

/-- Each byte of a block is taken from the place that a permutation names. -/
def aesShift (at_ : Nat → Nat) (a : List Nat) : List Nat := (List.range 16).map (fun i => a.getD (at_ i) 0)

/-- Each column is multiplied by the matrix of a row of factors. -/
def aesMix (f : List Nat) (a : List Nat) : List Nat :=
  (List.range 16).map (fun i =>
    (List.range 4).foldl (fun r j => r ^^^ aesTimes (f.getD ((j + 4 - i % 4) % 4) 0) (a.getD (i / 4 * 4 + j) 0)) 0)

/-- A block as its bytes, and bytes as a block. -/
def aesBytes (v : Nat) : List Nat := (natBytesBe 16 v).map (fun b => b.toNat)
/-- The block of 16 bytes. -/
def aesBlockOf (l : List Nat) : Nat := l.foldl (fun r b => 256 * r + b) 0

/-- AES-256 encryption of a block. -/
def aesEncrypt (key block : Nat) : Nat :=
  let round (a : List Nat) : List Nat := aesShift (fun i => (i + 4 * (i % 4)) % 16) (a.map (boxAt aesBox))
  match aesKeys key with
  | [] => 0
  | k :: ks =>
    let a := (ks.take 13).foldl (fun a k => aesAdd (aesMix [2, 3, 1, 1] (round a)) k) (aesAdd (aesBytes block) k)
    aesBlockOf (aesAdd (round a) (ks.getD 13 []))

/-- AES-256 decryption of a block. -/
def aesDecrypt (key block : Nat) : Nat :=
  let round (a : List Nat) : List Nat := (aesShift (fun i => (i + 12 * (i % 4)) % 16) a).map (boxAt aesUnbox)
  match (aesKeys key).reverse with
  | [] => 0
  | k :: ks =>
    let a := (ks.take 13).foldl (fun a k => aesMix [14, 11, 13, 9] (aesAdd (round a) k)) (aesAdd (aesBytes block) k)
    aesBlockOf (aesAdd (round a) (ks.getD 13 []))

/-- AES-256 in counter mode: bytes are combined with the encrypted counter blocks, one for each 16 bytes. -/
def aesCounter (key : Nat) (counter : Nat → Nat) (l : List Byte) : List Byte :=
  (indexed (cutUp 16 l.length l)).flatMap (fun p => p.2.zipWith (· ^^^ ·) (natBytesBe 16 (aesEncrypt key (counter p.1))))

/-- The six steps of AES-256 KW's unwrapping, from step `t` down, on the check value and the blocks of 64 bits (R392). -/
def kwSteps (key : Nat) : Nat → Nat × List Nat → Nat × List Nat
  | 0, r => r
  | t + 1, (a, l) =>
    let i := t % l.length
    let b := aesDecrypt key ((a ^^^ (t + 1)) * 2 ^ 64 + l.getD i 0)
    kwSteps key t (b / 2 ^ 64, l.set i (b % 2 ^ 64))

/-- Unwrapping with AES-256 KW (R392): none when the integrity check fails. -/
def kwUnwrap (key : Nat) (l : List Byte) : Option (List Byte) :=
  match (cutUp 8 l.length l).map bytesNatBe with
  | [] => none
  | a :: r =>
    let v := kwSteps key (6 * r.length) (a, r)
    if v.1 = 0xa6a6a6a6a6a6a6a6 then some (v.2.flatMap (natBytesBe 8)) else none

/-! ## GHASH, GMAC and GCM -/

/-- Multiplication in the field of GHASH: `n` bits of `x` are left, the highest first. -/
def ghashTimes (x : Nat) : Nat → Nat → Nat → Nat
  | 0, _, z => z
  | n + 1, v, z =>
    ghashTimes x n (if v % 2 = 0 then v / 2 else v / 2 ^^^ 0xe1 * 2 ^ 120) (if x.testBit n then z ^^^ v else z)

/-- Bytes as blocks of 128 bits, the last one filled up with zeros. -/
def blocksOf (l : List Byte) : List Nat := (cutUp 16 l.length l).map (fun b => bytesNatBe b * 2 ^ (8 * (16 - b.length)))

/-- GHASH under a hash key of bytes that are authenticated only, and of ciphertext. -/
def ghash (h : Nat) (auth cipher : List Byte) : Nat :=
  (blocksOf auth ++ blocksOf cipher ++ [8 * auth.length * 2 ^ 64 + 8 * cipher.length]).foldl
    (fun y x => ghashTimes (y ^^^ x) 128 h 0) 0

/-- The tag of GCM, of 128 bits, with a nonce of 96. -/
def gcmTag (key nonce : Nat) (auth cipher : List Byte) : Nat :=
  ghash (aesEncrypt key 0) auth cipher ^^^ aesEncrypt key (nonce * 2 ^ 32 + 1)

/-- The ciphertext of GCM. -/
def gcmCipher (key nonce : Nat) (plain : List Byte) : List Byte := aesCounter key (fun i => nonce * 2 ^ 32 + 2 + i) plain

/-- The top 64 bits of GMAC. -/
def gmac64 (key nonce : Nat) (l : List Byte) : Nat := gcmTag key nonce l [] / 2 ^ 64

/-! ## P-256 (R392, R401, R402) -/

/-- The prime of the field. -/
def p256 : Nat := 2 ^ 256 - 2 ^ 224 + 2 ^ 192 + 2 ^ 96 - 1
/-- The order of the group. -/
def p256Order : Nat := 0xffffffff00000000ffffffffffffffffbce6faada7179e84f3b9cac2fc632551
/-- The coefficient b of the curve y^2 = x^3 - 3x + b. -/
def p256B : Nat := 0x5ac635d8aa3a93e7b3ebbd55769886bc651d06b0cc53b0f63bce3c3e27d2604b
/-- The base point. -/
def p256Base : Nat × Nat :=
  (0x6b17d1f2e12c4247f8bce6e563a440f277037d812deb33a0f4a13945d898c296,
   0x4fe342e2fe1a7f9b8ee7eb4a7c0f9e162bce33576b315ececbb6406837bf51f5)

/-- A power modulo `m`, by the low `n` bits of the exponent. -/
def powMod (m e : Nat) : Nat → Nat → Nat
  | 0, _ => 1 % m
  | n + 1, b =>
    let r := powMod m (e / 2) n (b * b % m)
    if e % 2 = 0 then r else r * b % m

/-- The inverse modulo a prime. -/
def invMod (m a : Nat) : Nat := powMod m (m - 2) 256 (a % m)

/-- Is a point on the curve? -/
def onP256 (q : Nat × Nat) : Bool :=
  decide (q.1 < p256) && decide (q.2 < p256) &&
    decide (q.2 * q.2 % p256 = (q.1 * q.1 * q.1 + (p256 - 3) * q.1 + p256B) % p256)

/-- The sum of two points; none is the neutral element. -/
def p256Add : Option (Nat × Nat) → Option (Nat × Nat) → Option (Nat × Nat)
  | none, r => r
  | q, none => q
  | some a, some b =>
    if a.1 = b.1 ∧ (a.2 ≠ b.2 ∨ a.2 = 0) then none
    else
      let k :=
        if a.1 = b.1 then (3 * a.1 * a.1 + (p256 - 3)) * invMod p256 (2 * a.2) % p256
        else (b.2 + p256 - a.2) * invMod p256 (b.1 + p256 - a.1) % p256
      let x := (k * k + 2 * p256 - a.1 - b.1) % p256
      some (x, (k * (a.1 + p256 - x) + p256 - a.2) % p256)

/-- A multiple of a point, by the low `n` bits of the factor. -/
def p256Times (k : Nat) : Nat → Option (Nat × Nat) → Option (Nat × Nat)
  | 0, _ => none
  | n + 1, q =>
    let r := p256Times (k / 2) n (p256Add q q)
    if k % 2 = 0 then r else p256Add q r

/-- The public key of a private one. -/
def p256Public (d : Nat) : Nat × Nat := (p256Times d 256 (some p256Base)).getD (0, 0)

/-- The ECDH shared secret of a private key and a point: none when the point is not on the curve. -/
def ecdhP256 (d : Nat) (q : Nat × Nat) : Option Nat :=
  if onP256 q then (p256Times d 256 (some q)).map (·.1) else none

/-- An ECDSA signature of a digest under a private key, with the number drawn for it. -/
def ecdsaSign (d digest k : Nat) : Nat × Nat :=
  let r := (p256Public k).1 % p256Order
  (r, invMod p256Order k * (digest + r * d) % p256Order)

/-- Does an ECDSA signature of a digest verify under a public key? -/
def ecdsaVerify (q : Nat × Nat) (digest : Nat) (sig : Nat × Nat) : Bool :=
  let w := invMod p256Order sig.2
  let p := p256Add (p256Times (digest * w % p256Order) 256 (some p256Base)) (p256Times (sig.1 * w % p256Order) 256 (some q))
  onP256 q && decide (0 < sig.1) && decide (sig.1 < p256Order) && decide (0 < sig.2) && decide (sig.2 < p256Order) &&
    decide (p.map (fun v => v.1 % p256Order) = some sig.1)

end Sys2Proof.Machine
end

