-- ==== Sys2Proof/Machine/Traffic.lean ====
section
/-! DEFINITION. The events of memory (spec/11_memory.md R276 to R308, spec/12_sync.md R319): loads that return, stores that
reach their home, translations and faults that end, atomics, the slice ports, transport (spec/20_trust.md R398, R399), peer
ports (spec/19_host.md R388), the host's accesses (R377, spec/21_slices.md R418) and the quiescence counter. -/

namespace Sys2Proof.Machine

/-! ## Accesses of groups -/

/-- LOAD_RETURN (R116, R130, R191, R286). -/
def execLoadReturn (gid aid lane : Nat) (s : State) : Out :=
  match (s.group gid).acc aid with
  | none => .next s
  | some a =>
    match a.op, a.laneAcc lane with
    | .load _, some l => .next ((s.performLoad gid a l).getD s)
    | _, _ => .next s

/-- STORE_ACK (R277, R288): a lane's bytes, which wait in a write buffer, reach their home and are acknowledged; or the
group's store leaves its store queue. -/
def execStoreAck (gid aid lane : Nat) (s : State) : Out :=
  match s.coreHolding gid aid lane, (s.group gid).acc aid with
  | some _, _ => .next ((s.reachHome gid aid lane).getD s)
  | none, none => .next s
  | none, some a =>
    match a.op with
    | .store => .next (if a.left then s else (s.leaveQueue gid a).getD s)
    | _ => .next s

/-- TRANSLATION_END (R131, R193, R303): the word that waits for it traps or goes on; lanes that a service has released are
translated again. A scalar instruction whose translation ends in a trap while a deferred trap is pending is taken back, and the
deferred one is taken (R332). -/
def execTranslationEnd (gid aid : Nat) (s : State) : Out :=
  match (s.group gid).acc aid with
  | none => .next s
  | some a =>
    if (s.group gid).lwait = some (.trans aid) ∨ (s.group (s.ctxOf gid)).wait = some (.trans aid) then
      .next (match s.endTranslation gid a with
        | none => s
        | some t =>
          if !a.laneWord && s.defers (s.ctxOf gid) && t.trapped gid a then
            ((s.unpark gid aid).cancelAccess gid aid).deliverDeferred (s.ctxOf gid)
          else t)
    else .next (s.retranslate gid aid)

/-- FAULT_SERVICE (R304, R384, R385): by the stage manager, or with a record for the host. -/
def execFaultService (w fid : Nat) (s : State) : Out :=
  match (s.world w).faults.find? (fun f => f.seq == fid) with
  | none => .next s
  | some f => .next (if (s.world w).assisted 0 then s.postFault w f else s.serveFault w f)

/-- TURNSTILE_ATOMIC (R233, R236, R294, R319). -/
def execTurnstileAtomic (gid aid lane : Nat) (s : State) : Out :=
  match (s.group gid).acc aid with
  | none => .next s
  | some a =>
    match a.laneAcc lane with
    | some l => .next ((s.performAtom gid a l).getD s)
    | none => .next s

/-! ## Slice ports and transport -/

/-- SLICE_PORT_READ (R20, R280, R395): a sector is read at its slice port, for the L2 that caches it. -/
def execSlicePortRead (w pa : Nat) (s : State) : Out :=
  if pa < deviceBytes ∧ s.homeBusy w pa false = false then .next (s.homeRead w (pa / 64 * 64) 64).1 else .next s

/-- SLICE_PORT_WRITE (R23, R278, R395): a dirty sector of the world's in the L2 is written at its slice port, which refuses
the request of a world that the slice does not belong to. -/
def execSlicePortWrite (w pa : Nat) (s : State) : Out :=
  if decide (pa < deviceBytes) && !s.portAccepts w (s.forwardPa pa) then .next (s.refuseAt w (s.forwardPa pa))
  else
    match tabFind s.l2 (sectorOf pa) with
    | some v =>
      .next (if v.world = w ∧ v.dirty ≠ 0 ∧ s.portBusy pa true = false then s.cleanL2 (sectorOf pa) else s)
    | none => .next s

/-- The slice of a flow, and its cluster (R398). -/
def flowSlice (flow : Nat) : Nat := bitsOf flow 15 8
/-- The cluster of a flow (R398). -/
def flowCluster (flow : Nat) : Nat := bitsOf flow 7 0

/-- Clusters of the package (R14). -/
def clusters : Nat := 224

/-- Is there such a flow of a world, and does a packet of it carry data of an address (R398): the flow's slice is the
world's and holds the address? -/
def State.flowOk (s : State) (w flow pa : Nat) : Bool :=
  decide (flow < 2 ^ 17) && decide (flowCluster flow < clusters) && decide (pa < deviceBytes) &&
    decide (sliceOfPa pa = flowSlice flow) && decide ((s.slice (flowSlice flow)).owner = some w)

/-- The data of a packet is delivered poisoned (R339, R399): what crosses the flow's cluster port next of the sector, in the
flow's direction. -/
def State.deliverPoisoned (s : State) (flow pa : Nat) : State := { s with spoiled := s.spoiled ++ [(flow, sectorOf pa)] }

/-- TRANSPORT_PACKET_RECEIVE (R398, R399): a packet that an access has sent passes its check; a first tag failure has it
sent again, and a second delivers its data poisoned. -/
def execTransportPacketReceive (w flow : Nat) (ok : Bool) (pa : Nat) (s : State) : Out :=
  let v := s.world w
  if !v.present || !s.flowOk w flow pa then .next s
  else
    let packet := (flow, sectorOf pa)
    let done : World := { v with resent := v.resent.filter (· != packet) }
    if ok then .next (s.setWorld w done)
    else if !v.resent.contains packet then .next ((s.setWorld w { v with resent := packet :: v.resent }).countShared 0)
    else
      let off := pa % sliceBytes
      let s := ((s.setWorld w done).deliverPoisoned flow (s.forwardPa pa)).countAlso w cXporterr
      .next (s.contain (flowSlice flow) w { cause := 6, bank := bankOf off, row := rowOf off, keyid := s.keyOf w })

/-- The L2 sectors of a world. -/
def State.l2Of (s : State) (w : Nat) : List Nat := sectorsWhere s.l2 (fun _ v => v.world == w)

/-- Can the L2 sectors of a list be written back now? -/
def State.l2Free (s : State) (ks : List Nat) : Bool :=
  ks.all (fun k =>
    match tabFind s.l2 k with
    | some v => v.dirty == 0 || !s.portBusy (64 * k) true
    | none => true)

/-- The transport epoch of a world advances (R399): its L2 sectors are written back and invalidated, and every flow starts
again from 0. None while a sector cannot be written back. -/
def State.advanceEpoch (s : State) (w : Nat) : Option State :=
  let ks := s.l2Of w
  if s.l2Free ks then
    some ((ks.foldl State.flushL2 s).modWorld w (fun v => { v with epoch := v.epoch + 1, flows := [], resent := [] }))
  else none

/-- EPOCH_ADVANCE (R399): some flow of the world has reached n = 2^40. -/
def execEpochAdvance (w : Nat) (s : State) : Out :=
  .next (if (s.world w).flows.any (fun p => decide (2 ^ 40 ≤ p.2)) then (s.advanceEpoch w).getD s else s)

/-! ## Peer ports -/

/-- Does a physical address leave the device by this port, for a world (R418)? -/
def State.leavesBy (s : State) (w port pa : Nat) : Bool :=
  (s.world w).apOut.any (fun p =>
    match p.2 with
    | some a => a.port == port && decide (a.a ≤ pa) && decide (pa < a.a + a.b)
    | none => false)

/-- A write on its way to a peer device: of a core's write buffer, with the core, or of an engine. -/
def State.outWrite (s : State) (port gid aid lane : Nat) : Option (Option Nat × WEntry) :=
  let is (e : WEntry) : Bool := e.gid == gid && e.aid == aid && e.lane == lane && decide (deviceBytes ≤ e.pa) &&
    s.leavesBy e.world port e.pa
  match s.coreHolding gid aid lane with
  | some c => ((s.core c).wbuf.find? is).map (fun e => (some c, e))
  | none => (s.engineOut.find? is).map (fun e => (none, e))

/-- Such a write leaves: it has been performed at SYSTEM (R286). -/
def State.outDone (s : State) (o : Option Nat × WEntry) : State :=
  let e := o.2
  match o.1 with
  | some c => (if e.booth then s.modCore c (fun k => k.cleanBooth e) else s).dropEntry c e.gid e.aid e.lane
  | none =>
    { s with engineOut := s.engineOut.eraseP (fun x => x.gid == e.gid && x.aid == e.aid && x.lane == e.lane) }

/-- The engine command whose writes a number stands for. -/
def Group.cmdNumbered (g : Group) (aid : Nat) : Option Cmd :=
  g.engq.find? (fun c => !c.past && 8 * c.seq + pathCode c.path == aid)

/-- A message of a good flit has its effect (R388, R418). -/
def State.peerMessage (s : State) (port : Nat) (m : PeerMsg) : State :=
  let loading (gid aid lane : Nat) : Option (Access × LaneAcc) :=
    match (s.group gid).acc aid with
    | none => none
    | some a =>
      match a.op, a.laneAcc lane with
      | .load _, some l =>
        if l.stage = .ready ∧ deviceBytes ≤ l.pa ∧ s.leavesBy (s.worldOf gid) port l.pa = true then some (a, l) else none
      | _, _ => none
  match m with
  | .ack gid aid lane =>
    match s.outWrite port gid aid lane with
    | some o => s.outDone o
    | none => s
  | .data gid aid lane bytes =>
    match loading gid aid lane with
    | some (a, l) => if (s.group gid).peerAllows a l then s.peerLoad gid a l bytes else s
    | none => s
  | .collDone gid bytes =>
    match (s.group gid).collCmd with
    | some c => if c.accepted then s else s.collGive gid bytes []
    | none => s
  | .collMismatch gid => s.collMismatch [gid]
  | .refused gid aid lane =>
    match loading gid aid lane, s.outWrite port gid aid lane with
    | some (a, l), _ => s.refuseAccess gid a l.addr 0
    | none, none => s
    | none, some o =>
      let s := s.outDone o
      match o.1, (s.group gid).cmdNumbered aid, (s.group gid).acc aid with
      | none, some c, _ => s.failCmd gid c lane 0
      | some _, _, some a => if o.2.side = 0 then s.refuseAccess gid a (((a.laneAcc lane).map (·.addr)).getD 0) 0 else s
      | _, _, _ => s

/-- PEER_FLIT_RECEIVE (R388, R431): a flit that fails its CRC is sent again, which PEERCRC counts. -/
def execPeerFlitReceive (port : Nat) (crcOk : Bool) (m : PeerMsg) (s : State) : Out :=
  .next (if crcOk then s.peerMessage port m else s.countShared 1)

/-- The world and the physical address that an inbound aperture gives an offset (R418); there are 16 inbound numbers on a
port. -/
def State.inbound (s : State) (port num off : Nat) : Option (Nat × Nat) :=
  if 16 ≤ num then none
  else s.worlds.findSome? (fun p =>
    match tabGet none p.2.apIn (16 * port + num) with
    | some a =>
      let i := off / sliceBytes
      if i < a.b then (p.2.slices[a.a + i]?).map (fun sl => (p.1, sl * sliceBytes + off % sliceBytes)) else none
    | none => none)

/-- A read or write from outside the package, performed at the homes of its pieces, each within one sector: world, address and
length. It waits while one of them is held; a read's data is what the bus carries next. -/
def State.outsideAccess (s : State) (l : List (Nat × Nat × Nat)) (write : Bool) (bytes : List Byte) : State :=
  if l.any (fun p => s.homeBusy p.1 p.2.1 write) then s
  else if write then
    (l.foldl (fun (r : State × List Byte) p => (r.1.homeWriteAll p.1 p.2.1 (r.2.take p.2.2) false, r.2.drop p.2.2))
      (s, bytes)).1
  else
    let r := l.foldl (fun (r : State × List Byte) p =>
      let q := r.1.homeReadAll p.1 p.2.1 p.2.2
      (q.1, r.2 ++ q.2.1)) (s, [])
    { r.1 with bus := bytesNat r.2 }

/-- The pieces of a range of offsets of an inbound aperture, the slices in map order (R418): none when one of them has no
binding, or lies beyond the slices. -/
def State.inboundParts (s : State) (port num off n : Nat) : Option (List (Nat × Nat × Nat)) :=
  (chunks n off n).mapM (fun c => (s.inbound port num c.1).map (fun p => (p.1, p.2, c.2)))

/-- INBOUND_APERTURE_ACCESS (R418, R431): an access of a peer, at bytes of the bound slices; any other is refused. For a
read, `bytes` only gives the length. -/
def execInboundApertureAccess (port num off : Nat) (write : Bool) (bytes : List Byte) (s : State) : Out :=
  match s.inboundParts port num off bytes.length with
  | some l => .next (s.outsideAccess l write bytes)
  | none => .next (s.countShared 4)

/-! ## The host (R377, R404, R414, R418) -/

/-- Is a trusted request of a function accepted (R404): in RUN, on a session bound to the current LOCKGEN, with no ring
frozen by a heartbeat expiry? -/
def State.trustedOk (s : State) (w : Nat) : Bool :=
  let v := s.world w
  decide (v.tdisp = .run) && v.session.opened && decide (v.session.bound = some v.lockgen) && v.session.grace.isNone

/-- Does the interface let a host access through (R404)? -/
def State.tdispAllows (s : State) (w : Nat) (trusted : Bool) : Bool :=
  let v := s.world w
  if trusted then s.trustedOk w else !(decide (v.tdisp = .locked) || decide (v.tdisp = .run))

/-- A write of world 0 to a slice that is to be scrubbed by the host (R414): its bytes count toward the zero image while they
stand as zeros that were written. -/
def State.scrubWrite (s : State) (pa : Nat) (bytes : List Byte) : State :=
  (chunks bytes.length pa bytes.length).foldl (fun s c =>
    let l := (bytes.drop (c.1 - pa)).take c.2
    let off := c.1 % 64
    let zeros := maskWhere 64 (fun i => decide (off ≤ i) && l[i - off]? == some 0)
    (s.setMemBytes c.1 l).modSlice (sliceOfPa c.1) (fun v =>
      let k := c.1 % sliceBytes / 64
      { v with zeroed := tabSet 0 v.zeroed k (tabGet 0 v.zeroed k &&& ~~~byteMask off l.length ||| zeros) })) s

/-- The slices that a range of device memory touches. -/
def slicesOf (pa n : Nat) : List Nat :=
  (List.range (sliceOfPa (pa + n - 1) + 1 - sliceOfPa pa)).map (fun i => sliceOfPa pa + i)

/-- HOST_CXL_MEM_ACCESS (R377, R404, R414, R418): performed at the homes of exposed slices of the function's world, or, by
function 0, as a write of a host-assisted scrub; any other is refused with a contained error. Every slice that the access
touches must let it through. For a read, `bytes` only gives the length. -/
def execHostCxlMemAccess (fn pa : Nat) (write trusted : Bool) (bytes : List Byte) (s : State) : Out :=
  let n := bytes.length
  let sls := slicesOf pa n
  let own (sl : Nat) : Bool := decide ((s.slice sl).owner = some fn) && (s.slice sl).exposed
  let scrubs (sl : Nat) : Bool := (s.slice sl).owner.isNone && !(s.slice sl).scrubbed && (s.slice sl).hostScrub
  let refused (sl : Nat) : Bool := !own sl && !(decide (fn = 0) && write && scrubs sl)
  if !(s.world fn).present || decide (deviceBytes < pa + n) || decide (n = 0) then .next s
  else if sls.all own && s.tdispAllows fn trusted then
    .next (s.outsideAccess ((chunks n pa n).map (fun c => (fn, c.1, c.2))) write bytes)
  else if decide (fn = 0) && write && sls.all scrubs then .next (s.scrubWrite pa bytes)
  else .next (s.refuseAt fn (match sls.find? refused with
    | some sl => max pa (sl * sliceBytes)
    | none => pa))

/-! ## Quiescence and link errors (R308, R431) -/

/-- What is in flight in the device, each with a number: accesses, engine commands that their group's counter counts or that are
detached (R226), writes on their way, and faults on which something is parked. -/
def State.inFlight (s : State) : List (Nat × Nat) :=
  s.groups.flatMap (fun p =>
    (p.2.accs.filter (fun a => !a.past)).map (fun a => (4 * p.1, a.aid)) ++
    (p.2.engq.filter (fun c => !c.past && (c.detached || decide (0 < p.2.count c.path)))).map (fun c => (4 * p.1 + 1, 8 * c.seq + pathCode c.path))) ++
  s.cores.flatMap (fun p => p.2.wbuf.map (fun e => (4 * e.gid + 2, 2 * (2 ^ 64 * e.aid + e.lane)))) ++
  s.engineOut.map (fun e => (4 * e.gid + 2, 2 * (2 ^ 64 * e.aid + e.lane) + 1)) ++
  s.worlds.flatMap (fun p => (p.2.faults.filter (fun f => !f.who.isEmpty)).map (fun f => (4 * p.1 + 3, f.seq)))

/-- Is a TLB invalidate running? -/
def State.invalidating (s : State) : Bool :=
  match s.cmdif.wpend with
  | some (.tlbinv _) => true
  | _ => false

/-- QCOUNT_RISE (R308): all that was in flight at the previous rise has completed or been withdrawn. -/
def execQcountRise (s : State) : Out :=
  let now := s.inFlight
  if s.qmark.all (fun m => !now.contains m) ∧ s.invalidating = false then
    .next { s with qcount := (s.qcount + 1) % 2 ^ 64, qmark := now }
  else .next s

/-- PHY_LANE_ERROR (R431). -/
def execPhyLaneError (s : State) : Out := .next (s.countShared 3)

/-- CXL_LINK_ERROR (R431). -/
def execCxlLinkError (s : State) : Out := .next (s.countShared 2)

end Sys2Proof.Machine
end

