-- ==== Sys2Proof/Machine/Takes.lean ====
section
/-! DEFINITION. Takes and rollbacks (spec/13_faults.md R336 to R338): their capture, with the release of the held stores,
and the return of a troupe to its last take. -/

namespace Sys2Proof.Machine

/-- The barrier instances of a troupe's own groups and of the troupe (R310, R313): their keys. -/
def ownBarrier (tid key : Nat) : Bool :=
  let level := key / 16 % 4
  let id := key / 64
  (level == 0 && id / 16 == tid) || (level == 1 && id == tid)

/-- Is anything of a group outstanding whose completion a second take follows (R337)? -/
def Group.leavesTroupe (g : Group) : Bool :=
  (g.accs ++ g.withdrawn).any (fun a => !a.past && a.path == .atom) ||
    g.engq.any (fun c => !c.past && c.op.leavesTroupe)

/-- Is a second take to be captured now: a group waits for one, and what it issued has completed (R337)? -/
def State.secondDue (s : State) (tid : Nat) : Bool :=
  (s.troupe tid).secondTakes.any (fun k => (s.halvesOf k).all (fun h => !(s.group h).leavesTroupe))

/-- A troupe that a freeze, a stop or the quantum timer has come to while it halted for a take or a rollback halts for that
(R270, R333, R422). -/
def State.haltAgain (s : State) (tid : Nat) : State :=
  let t := s.troupe tid
  let s := s.modTroupe tid (fun t => { t with saveDue := false })
  if s.frozenRing (s.launch t.lid) then s.askHalt tid .freeze
  else if t.held then s.askHalt tid .debug
  else if t.saveDue then s.askHalt tid .save
  else s

/-- The debugger's STEP of a launch that is in progress (R425): its barrier, and the phases that it runs to. -/
def State.stepOf (s : State) (l : Launch) : Option ((Nat × Nat × Nat) × Tab Nat) :=
  let d := (s.world l.world).dbg
  d.step.map (fun x => (x, d.stepPhases))

/-- The take of a troupe as it stands, all its groups halted (R336). -/
def State.takeOf (s : State) (tid : Nat) (forced : Option Nat) (tkc : Nat) : Take :=
  let t := s.troupe tid
  { groups := (s.groupsOf tid).map (fun k => (k, s.group k))
    spad := t.spad
    spadPoison := t.spadPoison
    spadOwn := t.spadOwn
    tags := t.tags
    queues := t.queues
    barriers := s.barriers.filter (fun p => ownBarrier tid p.1)
    records := (s.barriers.filter (fun p => !ownBarrier tid p.1)).flatMap (fun p =>
      (p.2.records.filter (fun r => r.1 / 16 == tid)).map (fun r => (r.1, p.1, r.2)))
    step := s.stepOf (s.launch t.lid)
    forced
    tkc }

/-- Where the next take of a troupe is written: the two buffers of its core's part in turn (R336, R417). -/
def State.takePa (s : State) (tid : Nat) : Option Nat :=
  (s.takePart tid).map (fun pa => pa + takeBytes * (s.troupe tid).takeBuf)

/-- Must the writing of a take wait for a bank (R244)? -/
def State.takeHeld (s : State) (tid : Nat) : Bool :=
  ((s.takePa tid).map (fun pa => s.rangeBusy (s.launch (s.troupe tid).lid).world pa takeBytes)).getD false

/-- The groups go on after a take, once every store that it has released is performed (R337). -/
def State.land (s : State) (tid : Nat) : State :=
  if s.released tid then
    let s := s.modTroupe tid (fun t => { t with landing := false, halting := none })
    let s := { s with cmdif := { s.cmdif with wtroupes := s.cmdif.wtroupes.filter (· != tid) } }
    ((s.groupsOf tid).foldl State.resumeGroup s).haltAgain tid
  else s

/-- A take is captured (R336, R337), all groups having drained: they halt, the held stores, which `s` has released, are on
their way, and the take is written to its buffer, in a layout that no rule gives. -/
def State.capture (s : State) (tid : Nat) : State :=
  let h := s.troupeHeader tid
  let gs := s.groupsOf tid
  let s := gs.foldl (fun s k => (s.haltGroup k).fetchSpill k) s
  let s := match s.takePa tid with
    | some pa => s.writeFree (s.launch (s.troupe tid).lid).world pa takeBytes (portOf (s.troupe tid).core)
    | none => s
  let t := s.troupe tid
  let tkc := if t.takeDue h then 0 else t.tkc
  let waiting := t.secondTakes.filter (fun k => (s.halvesOf k).any (fun g => (s.group g).leavesTroupe))
  let k := s.takeOf tid t.takeFor tkc
  let s := s.modTroupe tid (fun t =>
    { t with
      take := some k
      takeBuf := 1 - t.takeBuf
      forced := t.takeFor
      takeFor := none
      secondTakes := waiting
      tkc
      rollbacks := 0
      arrivals := []
      replay := []
      landing := true })
  s.land tid

/-- TAKE_CAPTURE (R336, R337): a take that is due halts the groups, and is captured once they have drained; they go on when
the released stores are performed. -/
def execTakeCapture (tid : Nat) (s : State) : Out :=
  let t := s.troupe tid
  if !t.resident || !t.takesOn then .next s
  else
    match t.halting with
    | none =>
      .next (if s.secondDue tid || t.takeDue (s.troupeHeader tid) then s.askHalt tid .take else s)
    | some .take =>
      if t.landing then .next (s.land tid)
      else if !s.troupeDrained tid || s.spillHeld s tid || s.takeHeld tid then .next s
      else .next (((s.releaseHold tid).map (fun s => s.capture tid)).getD s)
    | some _ => .next s

/-- The launch values of a troupe: take 0 (R34, R336). -/
def State.launchTake (s : State) (tid : Nat) : Take :=
  let t := s.troupe tid
  let l := s.launch t.lid
  let h := s.troupeHeader tid
  { groups := (List.range h.grps).map (fun i => (16 * tid + i, newGroup l h tid t.x t.y t.z i))
    spad := []
    tags := []
    queues := []
    barriers := [] }

/-- A command of a take that has completed since does not run again. -/
def Group.dropEnded (old now : Group) : Group :=
  { old with engq := old.engq.filter (fun c => !c.detached || now.engq.any (fun d =>
      d.path == c.path && d.seq == c.seq && !d.past)) }

/-- Messages of commands that the troupe issued after the take leave the mailboxes in which they wait (R338). -/
def State.withdrawMessages (s : State) (tid : Nat) (k : Take) (keep : List Nat) : State :=
  let stays (m : Msg) : Bool :=
    m.gid / 16 != tid || keep.contains m.gid ||
      (match tabFind k.groups m.gid with
       | some g => g.engq.any (fun c => c.path == .bank && c.seq == m.seq)
       | none => false)
  { s with slices := s.slices.map (fun p =>
      (p.1, { p.2 with core := { p.2.core with mbx := p.2.core.mbx.filter stays } })) }

/-- A group of a take takes its place again: its slot, or, when that has been given away, a free one. -/
def State.replaceGroup (s : State) (core gid : Nat) (g : Group) : State :=
  let h := s.troupeHeader g.tid
  let at_ := 16 * g.quarter + g.slot
  let slot :=
    match tabFind (s.core core).slots at_ with
    | none => g.slot
    | some k => if k = gid then g.slot else ((s.core core).freeSlots h g.quarter).headD g.slot
  let s := s.modCore core (fun c => { c with slots := tabPut c.slots (16 * g.quarter + slot) gid })
  { s with groups := tabPut s.groups gid { g with slot } }

/-- The groups of a launch take have their slots again: those they hold, or free ones. -/
def State.slotOf (s : State) (core gid : Nat) (g : Group) : Group :=
  match (s.core core).slots.find? (fun p => p.2 == gid) with
  | some p => { g with slot := p.1 % 16 }
  | none => g

/-- The records of a troupe's groups at booth and ring barriers are those of a take again (R313, R338). -/
def State.restoreRecords (s : State) (tid : Nat) (l : List (Nat × Nat × Nat)) : State :=
  { s with
    barriers := s.barriers.map (fun p =>
      if ownBarrier tid p.1 then p
      else
        let mine := (l.filter (fun r => r.2.1 == p.1)).map (fun r => (r.1, r.2.2))
        (p.1, { p.2 with records := mine.foldl (fun t r => tabPut t r.1 r.2) (p.2.records.filter (fun r => r.1 / 16 != tid)) })) }

/-- Has a command had an effect beyond its troupe (R337)? A message that waits in its mailbox can still be withdrawn. -/
def State.cmdTook (s : State) (gid : Nat) (c : Cmd) : Bool :=
  c.past || c.flagged || !c.moved.isEmpty ||
    (c.accepted && !s.slices.any (fun p => p.2.core.mbx.any (fun m => m.gid == gid && m.seq == c.seq && c.path == .bank)))

/-- Does a group that waits for its second take keep what it has done, in a rollback (R337): the operation has completed, or
has had an effect that has left the troupe? Nothing of the group issues between the operation and that take. -/
def State.keepsEffect (s : State) (gid : Nat) : Bool :=
  let hs := s.halvesOf gid
  hs.all (fun h => !(s.group h).leavesTroupe) || hs.any (fun h =>
    let g := s.group h
    (g.accs ++ g.withdrawn).any (fun a => a.path == .atom && a.lanes.any (fun l => l.stage == .done)) ||
      g.engq.any (fun c => c.op.leavesTroupe && s.cmdTook h c))

/-- The groups of a troupe that keep what they have done. -/
def State.keepers (s : State) (tid : Nat) : List Nat :=
  ((s.troupe tid).secondTakes.filter s.keepsEffect).flatMap s.halvesOf

/-- A troupe returns to its last take (R338), but for the groups whose operation has left it already (R337). -/
def State.rollBack (s : State) (tid : Nat) : State :=
  let t := s.troupe tid
  let core := t.core
  let k := t.take.getD (s.launchTake tid)
  let stepping := decide (k.step = s.stepOf (s.launch t.lid)) && k.step.any (fun d => d.1.1 == t.lid)
  let keep := s.keepers tid
  let s := (s.groupsOf tid).foldl State.haltGroup s
  let s := s.withdrawMessages tid k keep
  let s := s.modTroupe tid (fun t =>
    { t with
      spad := k.spad
      spadPoison := k.spadPoison
      spadOwn := k.spadOwn
      tags := k.tags
      queues := k.queues
      hold := []
      landing := false
      takeFor := none
      forced := k.forced.filter (fun g => !keep.contains g)
      secondTakes := t.secondTakes.filter keep.contains
      replay := t.arrivals
      tkc := k.tkc
      rollbacks := t.rollbacks + 1
      halting := none })
  let s := k.groups.foldl (fun (s : State) (p : Nat × Group) =>
    if keep.contains p.1 then s
    else
      let g : Group := (s.slotOf core p.1 p.2).dropEnded (s.group p.1)
      let stays := g.halted && stepping
      s.replaceGroup core p.1
        { g with
          halted := stays
          part := false
          recorded := stays
          record := if stays then g.record else none }) s
  let s : State := { s with
    barriers := k.barriers.foldl (fun b p => tabPut b p.1 p.2) (s.barriers.filter (fun p => !ownBarrier tid p.1)) }
  let s := s.restoreRecords tid k.records
  let s := (s.groupsOf tid).foldl (fun s k => (s.storeSpill k).resumeGroup k) s
  (s.countIn (s.launch t.lid).world cRollback).haltAgain tid

/-- ROLLBACK (R338): the groups of a troupe with a pipeline error have halted. -/
def execRollback (tid : Nat) (s : State) : Out :=
  let t := s.troupe tid
  if t.resident && t.halting == some .rollback && s.troupeDrained tid then
    let u := s.rollBack tid
    .next (if s.spillHeld u tid then s else u)
  else .next s

end Sys2Proof.Machine
end

