-- ==== Sys2Proof/Machine/Worlds.lean ====
section
/-! DEFINITION. World 0's management of worlds (spec/21_slices.md R407 to R420, spec/20_trust.md R405): the command
interface, worlds, core rectangles, slices with migration and scrub, shares, areas, apertures, communicators, pre-emption
and the end of launches, translation changes. A command whose effect has to wait is held by the interface and goes on with
the agenda's item `finish`. -/

namespace Sys2Proof.Machine

/-! ## Rings of a world (R404, R405, R419) -/

/-- The rings of a world that are placed. -/
def State.ringsOf (s : State) (w : Nat) : List Nat :=
  (s.launches.filter (fun p => p.2.world == w && p.2.placed && !p.2.ended && !p.2.micro)).map (·.1)

/-- A ring is frozen: its resident troupes are to be saved. -/
def State.freezeRing (s : State) (beat : Bool) (lid : Nat) : State :=
  let s := s.modLaunch lid (fun l => if beat then { l with beat := true } else { l with frozen := true })
  (s.troupesOf lid).foldl (fun s k => if (s.troupe k).resident then s.askHalt k .freeze else s) s

/-- Every ring of a world is frozen. -/
def State.freezeWorld (s : State) (w : Nat) (beat : Bool) : State := (s.ringsOf w).foldl (fun s l => s.freezeRing beat l) s

/-- Has every group of a world's rings halted? -/
def State.worldHalted (s : State) (w : Nat) : Bool :=
  (s.ringsOf w).all (fun l => (s.troupesOf l).all (fun k => !(s.troupe k).resident))

/-- Is the interface of a world CONFIG_LOCKED or RUN? -/
def World.lockedOrRun (v : World) : Bool := decide (v.tdisp = .locked) || decide (v.tdisp = .run)

/-- The interface enters ERROR (R403, R404): its record is frozen no more (DEDUCED, entry 13). -/
def State.enterError (s : State) (w : Nat) : State :=
  s.modWorld w (fun v => { v with tdisp := .error, lockgen := (v.lockgen + 1) % 2 ^ 32, record := none })

/-- The first steps of a layout change (R405): the state, and whether the change may take effect. -/
def State.layoutChange (s : State) (w : Nat) : State × Bool :=
  if (s.world w).lockedOrRun then
    let s := s.freezeWorld w false
    if s.worldHalted w then (s.enterError w, true) else (s, false)
  else (s, true)

/-! ## Launches that end (R383, R419) -/

/-- The slice whose base-die core runs a launch. -/
def State.microSlice (s : State) (lid : Nat) : Option Nat :=
  (s.slices.find? (fun p => p.2.core.lid == some lid)).map (·.1)

/-- Is the launch a microkernel inside a bank run, which completes first (R259)? -/
def State.microBusy (s : State) (lid : Nat) : Bool :=
  match s.microSlice lid with
  | some sl => (s.bdc sl).brun.isSome
  | none => false

/-- The launch unit gives up a read for a launch that has ended before it began: what is refused after that is its completion
record alone (R438). -/
def State.dropUnitRead (s : State) (lid : Nat) : State :=
  let stays (x : Faulter) : Bool := x != .launch lid
  (s.modWorld (s.launch lid).world (fun v =>
    { v with
      faults := (v.faults.map (fun f => { f with who := f.who.filter stays })).filter
        (fun f => !f.who.isEmpty || f.posted) })).modLaunch lid (fun l => { l with denied := none })

/-- A launch ends from outside, with an END code: it stands even where a trap has marked the ring failed before (R419). -/
def State.endLaunch (s : State) (lid endc : Nat) : State :=
  let l := s.launch lid
  if l.ended then s
  else
    let s := match s.microSlice lid with
      | some sl => s.endMicro sl endc 0
      | none => if l.placed && !l.micro then s.endRing lid endc 0 else s
    (s.dropUnitRead lid).modLaunch lid (fun l => { l with ended := true, failed := true, endc, cls := 0 })

/-- The launches of a world that have not ended. -/
def State.openLaunches (s : State) (w : Nat) : List Nat :=
  (s.launches.filter (fun p => p.2.world == w && !p.2.ended)).map (·.1)

/-! ## Slices (R412, R414) -/

/-- Does an address lie in a slice? -/
def inSlice (sl pa : Nat) : Bool := pa / sliceBytes == sl

/-- Nothing is left of a slice's counter tree: its nodes in DRAM and in the metadata cache, its root and its metadata key
(R396, R414). -/
def State.wipeTree (s : State) (sl : Nat) : State :=
  { s with
    treeBad := s.treeBad.filter (fun p => p.1 != sl)
    treeFailed := s.treeFailed.filter (fun p => p.1 != sl)
    metaCache := s.metaCache.map (fun p => (p.1, p.2.filter (fun n => n.slice != sl)))
    slices := tabModify s.slices sl (fun v => { v with nodes := [], metaKey := none }) }

/-- Every row of a slice is written with zeros, its sidebands and counter tree start anew, and nothing of it is cached at
its homes. -/
def State.wipeRows (s : State) (sl : Nat) : State :=
  ({ s with
    mem := s.mem.filter (fun p => !inSlice sl p.1)
    rows := s.rows.filter (fun p => !inSlice sl (1024 * p.1))
    homePoison := s.homePoison.filter (fun a => !inSlice sl a)
    l2 := s.l2.filter (fun p => !inSlice sl (64 * p.1))
    turn := s.turn.filter (fun p => !inSlice sl (64 * p.1)) } : State).wipeTree sl

/-- No TLB keeps a translation to a slice (R303, R412, R413). -/
def State.dropSliceTlb (s : State) (sl : Nat) : State :=
  let keep (e : TlbEntry) : Bool := !inSlice sl e.frame
  { s with
    cores := s.cores.map (fun p => (p.1, { p.2 with tlb := p.2.tlb.filter keep }))
    dieTlb := s.dieTlb.map (fun p => (p.1, p.2.filter keep)) }

/-- A slice leaves its world (R412 steps 1 to 3, R414): its microkernel ends, and messages for it are refused. -/
def State.leaveSlice (s : State) (w sl : Nat) : State :=
  let assisted := (s.world w).assisted 2
  let s := s.endMicro sl 4 0
  let s := s.modSlice sl (fun v =>
    { v with
      owner := none
      scrubbed := false
      exposed := false
      readOnly := false
      forward := false
      dest := none
      hostScrub := assisted
      zeroed := [] })
  let gone (k : Nat) : Bool := inSlice sl (64 * k)
  ({ s with
     l2 := s.l2.filter (fun p => !gone p.1)
     turn := s.turn.filter (fun p => !gone p.1) } : State).dropSliceTlb sl

/-- Rows of a slice (R396). -/
def sliceRows : Nat := 1572864

/-- May the scrub of a slice be completed: by the base-die cores, or by the host once the whole zero image is written
(R414)? -/
def Slice.mayScrub (v : Slice) : Bool :=
  v.owner.isNone && !v.scrubbed &&
    (!v.hostScrub || (decide (v.zeroed.length = 16 * sliceRows) && v.zeroed.all (fun p => p.2 == fullMask)))

/-- The number of the generation of the world's keys in a stack (R389): none when no slot is bound. -/
def State.keyIn (s : State) (w stack : Nat) : Option KeySlot :=
  (s.world w).keyid.bind (fun k =>
    match tabFind s.keys (512 * stack + k) with
    | some v => if v.world = w then some v else none
    | none => none)

/-- A slice is initialised for a world (R412): its metadata key is drawn, every row is zero at counter 1, and the tree is
built. -/
def State.giveSlice (s : State) (w sl : Nat) : State :=
  let gen := ((s.keyIn w (sliceStack sl)).map (·.gen)).getD 0
  (s.wipeRows sl).bumpFree.modSlice sl (fun _ =>
    { owner := some w, scrubbed := false, sealGen := gen, metaKey := some s.free, core := { clockBase := s.now } })

/-! ## Cores (R411) -/

/-- The L1s of several cores are written back as far as that can go now (R278); and is it done, with no store that
`waits` selects still on its way? -/
def State.cleanCores (s : State) (cs : List Nat) (waits : WEntry → Bool) : State × Bool :=
  cs.foldl (fun (r : State × Bool) c =>
    let t := r.1.writeBackAll c (r.1.core c).dirtySectors waits
    (t.1, r.2 && t.2)) (s, true)

/-- A core is given to a world, or taken from one: everything in it starts from zero, and its quantum timer with the
world's quantum (R46, R270, R411). -/
def State.giveCore (s : State) (owner : Option Nat) (c : Nat) : State :=
  s.modCore c (fun _ =>
    { owner, clockBase := s.now, lastExpiry := s.now, period := owner.map (fun w => 1200 * (s.world w).quantum) })

/-- Cores are given to a world, or taken from one, once their caches have been written back (R278, R411); and is it
done? -/
def State.giveCores (s : State) (owner : Option Nat) (cs : List Nat) : State × Bool :=
  let r := s.cleanCores cs (fun _ => true)
  if r.2 then (cs.foldl (fun s c => s.giveCore owner c) r.1, true) else r

/-! ## The command interface (R408) -/

/-- Arguments of the command that is running. -/
def State.arg0 (s : State) : Nat := s.cmdif.p0.toNat
/-- WARG1. -/
def State.arg1 (s : State) : Nat := s.cmdif.p1.toNat
/-- WARG2. -/
def State.arg2 (s : State) : Nat := s.cmdif.p2.toNat

/-- A command ends: OK. -/
def State.cmdOk (s : State) : State :=
  { s with cmdif := { s.cmdif with wbusy := false, wok := true, werr := 0, wpend := none, wslice := none } }

/-- A command is refused with an error code. -/
def State.cmdRefused (s : State) (err : Nat) : State := { s with cmdif := { s.cmdif with wok := false, werr := err } }

/-- A command goes on: a layout change has its first steps, then the effect; the command ends when that has taken place as
a whole (R405, R409). -/
def State.cmdGo (s : State) (w : Nat) (layout : Bool) (effect : State → State × Bool) : State :=
  let r := if layout then s.layoutChange w else (s, true)
  if r.2 then
    let t := effect r.1
    if t.2 then t.1.cmdOk else t.1
  else r.1

/-- A command is written (R408): ignored while one runs; refused, or accepted with its arguments. World numbers are 1 to
63. `err` gives the error of a command whose world is as it must be. -/
def State.cmdStart (s : State) (i : Instr) (w : Nat) (present : Bool) (err : State → Nat) (begin_ : State → State) :
    Option State :=
  if s.cmdif.wbusy then none
  else
    let s : State :=
      { s with cmdif := { s.cmdif with p0 := s.cmdif.warg0, p1 := s.cmdif.warg1, p2 := s.cmdif.warg2 } }
    let e := if w = 0 ∨ 63 < w then 1 else if (s.world w).present ≠ present then 4 else err s
    if e ≠ 0 then some (s.cmdRefused e)
    else
      some (begin_ { s with cmdif := { s.cmdif with wbusy := true, wok := false, werr := 0, wpend := some i } })

/-- Has the world a placed ring? -/
def State.anyPlaced (s : State) (w : Nat) : Bool := !(s.ringsOf w).isEmpty

/-! ## Effects of the commands -/

/-- CREATE (R410, R430). -/
def State.createEffect (s : State) (w : Nat) : State × Bool := (s.setWorld w { present := true, handles := resetHandles }, true)

/-- The key slots of a list of stacks are zeroised; a world whose last slot goes holds no identifier any more (R389,
R391). -/
def State.zeroiseSlots (s : State) (which : List Nat) (keyid : Nat) : State :=
  let s := { s with keys := which.foldl (fun t st => tabDel t (512 * st + keyid)) s.keys }
  let bound (w : Nat) : Bool := s.keys.any (fun p => p.1 % 512 == keyid && p.2.world == w)
  { s with worlds := s.worlds.map (fun p =>
      if p.1 ≠ 0 ∧ p.2.keyid = some keyid ∧ bound p.1 = false then (p.1, { p.2 with keyid := none }) else p) }

/-- The slices of a world: those of its map, and the sources that still forward to them (R412, R413). -/
def State.slicesOf (s : State) (w : Nat) : List Nat :=
  (s.world w).slices ++ (s.slices.filter (fun p => p.2.forward && p.2.owner == some w)).map (·.1)

/-- DESTROY (R410, R431): its launches end; once their completions are given, rectangles and slices are released, and when
these are scrubbed the rest goes. -/
def State.destroyEffect (s : State) (w : Nat) : State × Bool :=
  let opened := s.openLaunches w
  if opened.any s.microBusy then (s, false)
  else
    let s := (opened.foldl (fun s l => s.endLaunch l 4) s).modWorld w (fun v => { v with destroying := true })
    if s.launches.any (fun p => p.2.world == w && !p.2.past) then (s, false)
    else
      match s.giveCores none (worldCores (s.world w)) with
      | (s, false) => (s, false)
      | (s, true) =>
        let s := s.modWorld w (fun v => { v with rects := [] })
        let s := s.modWorld w (fun v => { v with slices := s.slicesOf w })
        let s := ((s.world w).slices).foldl (fun s sl => if (s.slice sl).owner = some w then s.leaveSlice w sl else s) s
        if (s.world w).slices.any (fun sl => !(s.slice sl).scrubbed) then (s, false)
        else
          let s := match (s.world w).keyid with
            | some k => s.zeroiseSlots (List.range 8) k
            | none => s
          let mine (lid : Nat) : Bool := (s.launch lid).world == w
          let s : State :=
            { s with
              troupes := s.troupes.filter (fun p => !mine p.2.lid)
              l2 := s.l2.filter (fun p => p.2.world != w)
              turn := s.turn.filter (fun p => p.2.world != w)
              dieTlb := s.dieTlb.map (fun p => (p.1, p.2.filter (fun e => e.world != w))) }
          let s : State := { s with launches := s.launches.filter (fun p => p.2.world != w) }
          (s.setWorld w {}, true)

/-- The rectangle that WARG0 names. -/
def rectOf (n : Nat) : Rect := { x := bitsOf n 7 0, y := bitsOf n 15 8, w := bitsOf n 23 16, h := bitsOf n 31 24 }

/-- Is a rectangle as R26 wants it, on the package's cores (R13)? -/
def Rect.ok (r : Rect) : Bool :=
  r.x % 2 == 0 && r.y % 2 == 0 && r.w % 2 == 0 && r.h % 2 == 0 && decide (0 < r.w) && decide (0 < r.h) &&
    decide (r.x + r.w ≤ 32) && decide (r.y + r.h ≤ 28)

/-- RECTADD's refusals (R411). -/
def State.rectaddErr (s : State) (w : Nat) : Nat :=
  let r := rectOf s.arg0
  let v := s.world w
  if !r.ok || decide (4 ≤ v.rects.length) || (rectCores r).any (fun c => v.rects.any (fun q => rectHas q c)) then 1
  else if (rectCores r).any (fun c => (s.core c).owner.isSome) then 2
  else 0

/-- RECTADD (R411). -/
def State.rectaddEffect (s : State) (w : Nat) : State × Bool :=
  let r := rectOf s.arg0
  match s.giveCores (some w) (rectCores r) with
  | (s, true) => (s.modWorld w (fun v => { v with rects := v.rects ++ [r] }), true)
  | (s, false) => (s, false)

/-- RECTREM's refusals (R411). -/
def State.rectremErr (s : State) (w : Nat) : Nat :=
  let r := rectOf s.arg0
  if !(s.world w).rects.contains r then 1
  else if (s.ringsOf w).any (fun l => (s.troupesOf l).any (fun k => rectHas r (s.troupe k).core)) then 3
  else 0

/-- A number that no core has. -/
def noCore : Nat := 896

/-- The parts that an area gives to the cores of a rectangle stay unused from now on (R417). -/
def Area.without (a : Area) (r : Rect) : Area :=
  { a with cores := a.cores.map (fun c => if rectHas r c then noCore else c) }

/-- RECTREM (R411): the caches of its cores are written back and emptied. -/
def State.rectremEffect (s : State) (w : Nat) : State × Bool :=
  let r := rectOf s.arg0
  match s.giveCores none (rectCores r) with
  | (s, true) =>
    (s.modWorld w (fun v =>
      { v with
        rects := v.rects.erase r
        areas := v.areas.map (fun p => (p.1, p.2.map (fun a => a.without r))) }), true)
  | (s, false) => (s, false)

/-- SLICEADD's refusals (R412). -/
def State.sliceaddErr (s : State) (w : Nat) : Nat :=
  let sl := s.arg0 % 256
  if (s.slice sl).owner.isSome || !(s.slice sl).scrubbed then 2
  else if (s.keyIn w (sliceStack sl)).isNone then 5
  else 0

/-- SLICEADD (R412). -/
def State.sliceaddEffect (s : State) (w : Nat) : State × Bool :=
  let sl := s.arg0 % 256
  ((s.giveSlice w sl).modWorld w (fun v => { v with slices := v.slices ++ [sl] }), true)

/-- The scrub of the slice that a command released: has it taken place? -/
def State.scrubDone (s : State) : Bool :=
  match s.cmdif.wslice with
  | some sl => (s.slice sl).scrubbed
  | none => false

/-- Note the slice whose scrub the command waits for. -/
def State.awaitScrub (s : State) (sl : Nat) : State := { s with cmdif := { s.cmdif with wslice := some sl } }

/-- SLICEREM (R412): the highest index leaves; the command ends with the slice's scrub. Launches that wait for its
base-die core end with END 4. -/
def State.sliceremEffect (s : State) (w : Nat) : State × Bool :=
  if s.cmdif.wslice.isSome then (s, s.scrubDone)
  else
    let v := s.world w
    match v.slices.getLast? with
    | none => (s, true)
    | some sl =>
      if (s.bdc sl).brun.isSome then (s, false)
      else
        let n := v.slices.length - 1
        let waiting := (s.launches.filter (fun p =>
          p.2.world == w && p.2.micro && !p.2.placed && !p.2.ended && p.2.slice == n)).map (·.1)
        let s := waiting.foldl (fun s l => s.endLaunch l 4) s
        let s := (s.leaveSlice w sl).modWorld w (fun v => { v with slices := v.slices.dropLast })
        (s.awaitScrub sl, false)

/-- MIGRATE's refusals (R413): a slice that still forwards to the index's slice has its MIGDONE first. -/
def State.migrateErr (s : State) (w : Nat) : Nat :=
  let d := bitsOf s.arg0 15 8
  match (s.world w).slices[bitsOf s.arg0 7 0]? with
  | none => 1
  | some src =>
    if (s.slice d).owner.isSome || !(s.slice d).scrubbed || s.slices.any (fun p => p.2.forward && p.2.dest == some src) then 2
    else if (s.keyIn w (sliceStack d)).isNone then 5
    else 0

/-- Are the rows of a slice that nothing has written since its assignment sealed under the keys that its owner has now? -/
def State.sealed (s : State) (sl : Nat) : Bool := (s.ownerKey sl).any (fun k => k.gen == (s.slice sl).sealGen)

/-- A row of a migrating slice as it is written at the destination under the keys there, of generation `gen` (R413): a row
that does not hold at the source fails at the destination too (DEDUCED, entry 57). -/
def State.movedRow (s : State) (gen pa : Nat) : RowMeta :=
  let r := s.rowMeta pa
  { counter := r.counter, sealKey := if s.sealed (sliceOfPa pa) then none else some gen, tagBad := !s.rowOk pa,
    uncorr := r.uncorr }

/-- The rows of a slice, by their numbers in its tree, that a migration treats one by one: those that have a sideband of
their own, those whose counter the tree holds otherwise, and those beneath nodes that fail (R396, R397). -/
def State.specialRows (s : State) (sl : Nat) : List Nat :=
  let listed := (s.rows.filter (fun p => inSlice sl (1024 * p.1))).map (fun p => rowNumber (1024 * p.1))
  let counted := ((s.slice sl).nodes.filter (fun p => decide (p.1 < nodeKey 1 0))).map (·.1)
  let beneath := (s.treeBad.filter (fun p => p.1 == sl)).flatMap (fun p =>
    (List.range (8 ^ p.2.1)).map (fun i => 8 ^ p.2.1 * p.2.2 + i))
  ((listed ++ counted ++ beneath).filter (fun n => decide (n < sliceRows))).eraseDups

/-- The copy and the switch of a migration (R413 steps 2 to 5): every row's counter is one above the source's, and the tree
is built from these. A slice whose rows are sealed under keys that its owner has no more keeps no generation of keys. -/
def State.moveSlice (s : State) (w src dst : Nat) : State :=
  let shift (a : Nat) : Nat := dst * sliceBytes + a % sliceBytes
  let gen := ((s.keyIn w (sliceStack dst)).map (·.gen)).getD 0
  let old := s.slice src
  let s := s.wipeRows dst
  let moved := (s.specialRows src).map (fun n => (n, s.movedRow gen (src * sliceBytes + 1024 * n)))
  let bytes := s.mem.filter (fun p => inSlice src p.1)
  let hurt := s.homePoison.filter (fun a => inSlice src a)
  let s : State :=
    { s with
      mem := bytes.foldl (fun m p => tabSet memDefault m (shift p.1) p.2) s.mem
      homePoison := s.homePoison ++ hurt.map shift
      rows := moved.foldl (fun t p => tabSet {} t ((dst * sliceBytes + 1024 * p.1) / 1024) p.2) s.rows }
  let s := s.bumpFree.modSlice dst (fun _ =>
    { old with
      owner := some w
      sealGen := if s.sealed src then gen else 0
      nodes := moved.foldl (fun t p => tabSet 1 t (nodeKey 0 p.1) p.2.counter) []
      metaKey := some s.free
      lift := old.lift + 1
      readOnly := false
      err := {}
      scrubbed := false })
  let s := s.modSlice src (fun v =>
    { v with readOnly := false, forward := true, dest := some dst, core := {}, bsus := [] })
  let ks := (sectorsWhere s.turn (fun k _ => inSlice src (64 * k)))
  let s := ks.foldl State.flushTurn s
  let ls := (sectorsWhere s.l2 (fun k _ => inSlice src (64 * k)))
  let s := ls.foldl State.flushL2 s
  let s : State := { s with cur := if s.cur = Agent.bdc src then Agent.bdc dst else s.cur }
  s.modWorld w (fun v => { v with slices := v.slices.map (fun k => if k = src then dst else k) })

/-- MIGRATE (R413): the source is read-only until the base-die core stands between scalar instructions. -/
def State.migrateEffect (s : State) (w : Nat) : State × Bool :=
  match (s.world w).slices[bitsOf s.arg0 7 0]? with
  | none => (s, true)
  | some src =>
    let s := s.modSlice src (fun v => { v with readOnly := true })
    if (s.bdc src).brun.isSome then (s, false) else (s.moveSlice w src (bitsOf s.arg0 15 8), true)

/-- The source that forwards to a map index's slice (R413). -/
def State.sourceOf (s : State) (w n : Nat) : Option Nat :=
  (s.world w).slices[n]?.bind (fun d => (s.slices.find? (fun p => p.2.forward && p.2.dest == some d)).map (·.1))

/-- MIGDONE (R413): the source leaves the world and is scrubbed. -/
def State.migdoneEffect (s : State) (w : Nat) : State × Bool :=
  if s.cmdif.wslice.isSome then (s, s.scrubDone)
  else
    match s.sourceOf w (s.arg0 % 256) with
    | none => (s, true)
    | some src => ((s.leaveSlice w src).awaitScrub src, false)

/-- L2 granules of a die (R17). -/
def dieGranules : Nat := 192

/-- L2SET's refusals (R409, R416). -/
def State.l2setErr (s : State) (w : Nat) : Nat :=
  let die := bitsOf s.arg0 1 0
  let n := bitsOf s.arg0 9 2
  let others := (s.worlds.filter (fun p => p.1 != w)).foldl (fun k p => k + tabGet 0 p.2.l2gran die) 0
  if dieGranules < n then 1 else if dieGranules < others + n then 2 else 0

/-- L2SET (R416): lowering the count writes back and invalidates the world's sectors on the die. -/
def State.l2setEffect (s : State) (w : Nat) : State × Bool :=
  let die := bitsOf s.arg0 1 0
  let n := bitsOf s.arg0 9 2
  let set (s : State) : State := s.modWorld w (fun v => { v with l2gran := tabSet 0 v.l2gran die n })
  if tabGet 0 (s.world w).l2gran die ≤ n then (set s, true)
  else
    let ks := (s.l2Of w).filter (fun k => dieOfPa (64 * k) == die)
    if s.l2Free ks then (set (ks.foldl State.flushL2 s), true) else (s, false)

/-- SHARE's refusals (R416). -/
def State.shareErr (s : State) (w : Nat) : Nat :=
  let sum (f : World → Nat) : Nat := (s.worlds.filter (fun p => p.1 != w)).foldl (fun k p => k + f p.2) 0
  if 64 < sum (·.fshare) + bitsOf s.arg0 6 0 ∨ 64 < sum (·.tshare) + bitsOf s.arg0 14 8 then 6 else 0

/-- The world's turnstile sectors of a die beyond its share are written back, the oldest first (R319, R416). -/
def State.trimTurn (s : State) (w die : Nat) : Nat → State
  | 0 => s
  | n + 1 =>
    match s.oldestTurn w die with
    | some k => (s.flushTurn k).trimTurn w die n
    | none => s

/-- SHARE (R416): the command waits while a bank holds the write-back of a sector that would have to leave. -/
def State.shareEffect (s : State) (w : Nat) : State × Bool :=
  let n := s.arg0
  let t := s.modWorld w (fun v =>
    { v with fshare := bitsOf n 6 0, lending := bitOf n 7, tshare := bitsOf n 14 8 })
  let cap := shareSectors (t.world w)
  let more := (List.range 4).filter (fun d => decide (cap < (s.turnSectors w d).length))
  if more.any (fun d => (s.turnSectors w d).any (fun k => !s.turnMayLeave k)) then (s, false)
  else ((List.range 4).foldl (fun s d => s.trimTurn w d ((s.turnSectors w d).length - cap)) t, true)

/-- Does PARAM change MODES (R409)? -/
def State.paramModes (s : State) (w : Nat) : Bool := decide ((s.world w).modes.toNat ≠ bitsOf s.arg1 7 0)

/-- PARAM's refusals (R409). -/
def State.paramErr (s : State) (w : Nat) : Nat :=
  let q := bitsOf s.arg0 9 0
  if q < 4 ∨ 1000 < q then 1 else if s.paramModes w && s.anyPlaced w then 3 else 0

/-- PARAM (R270, R328, R384, R409). -/
def State.paramEffect (s : State) (w : Nat) : State × Bool :=
  let n := s.arg0
  let m := s.arg1
  (s.modWorld w (fun v =>
    { v with
      quantum := bitsOf n 9 0
      policy := bitOf n 10
      modes := BitVec.ofNat 8 m
      route := BitVec.ofNat 16 (bitsOf m 31 16) }), true)

/-- HANDLE (R311, R409): reserved bits of an entry stay zero (R7). -/
def State.handleEffect (s : State) (w : Nat) : State × Bool :=
  let v := BitVec.ofNat 16 (bitsOf s.arg0 31 25 * 512)
  (s.modWorld w (fun x => { x with handles := tabSet 0 x.handles (s.arg0 % 32) v }), true)

/-- Bytes that each core's part of a context area must have, and of a take area (R417). -/
def contextPart : Nat := 9 * 1048576 + 516 * 1024
/-- The same for a take area (R417). -/
def takeShare : Nat := 8 * 1048576

/-- AREA's refusals (R417). -/
def State.areaErr (s : State) (w : Nat) : Nat :=
  let kind := s.arg0
  let base := s.arg1
  let n := s.arg2
  let cores := (worldCores (s.world w)).length
  let bytes := if kind = 4 then 4096 else n
  if 4 < kind ∨ base % (if kind = 4 then 4096 else 65536) ≠ 0 then 1
  else if (if kind = 4 then n ≠ 0 else n = 0 ∧ kind ≠ 2) then 1
  else if (kind = 2 ∨ kind = 3) ∧ n % 65536 ≠ 0 then 1
  else if kind ≤ 1 ∧ cores = 0 then 1
  else if kind ≤ 1 ∧ n / cores < (if kind = 0 then contextPart else takeShare) then 1
  else if deviceBytes < base + max bytes 1 ∨ s.ownsRange w base (max bytes 1) = false then 1
  else if kind ≤ 1 ∧ s.anyPlaced w = true then 3
  else 0

/-- AREA (R417). -/
def State.areaEffect (s : State) (w : Nat) : State × Bool :=
  let kind := s.arg0
  let a : Area :=
    { base := s.arg1, bytes := if kind = 4 then 4096 else s.arg2,
      cores := if kind ≤ 1 then worldCores (s.world w) else [] }
  (s.modWorld w (fun v =>
    { v with
      areas := tabSet none v.areas kind (if kind = 2 ∧ a.bytes = 0 then none else some a)
      poolUsed := if kind = 3 then 0 else v.poolUsed }), true)

/-- Does an invalidate's range hold an address (R409)? -/
def State.inInvalidate (s : State) (va : Nat) : Bool :=
  s.arg1 == 0 || (decide (s.arg0 ≤ va) && decide (va < s.arg0 + s.arg1))

/-- TLBINV's refusals (R409). -/
def State.tlbinvErr (s : State) (_w : Nat) : Nat := if s.arg0 % 65536 ≠ 0 ∨ s.arg1 % 65536 ≠ 0 then 1 else 0

/-- The groups of a world. -/
def State.worldGroups (s : State) (w : Nat) : List Nat := (s.groups.map (·.1)).filter (fun k => s.worldOf k == w)

/-- Troupes of a world that hold stores for a take. -/
def State.holders (s : State) (w : Nat) : List Nat :=
  (s.troupes.filter (fun p => !p.2.hold.isEmpty && (s.launch p.2.lid).world == w)).map (·.1)

/-- Stores of a world in the write buffers, as a group's access or a released store of a take (R277, R337). -/
def State.storesOut (s : State) (w : Nat) : List (Nat × Nat) :=
  s.cores.flatMap (fun p => (p.2.wbuf.filter (fun e => e.world == w && e.side != 1)).map (fun e => (e.gid, e.aid)))

/-- TLBINV begins (R306): no TLB holds an entry of the range, no constant cache a sector; what has been translated is
noted. -/
def State.tlbinvBegin (s : State) (w : Nat) : State :=
  let keep (e : TlbEntry) : Bool := e.world != w || !s.inInvalidate (65536 * e.vpn)
  let old (a : Access) : Bool := !a.past && a.lanes.any (fun l => l.stage == .ready && s.inInvalidate l.addr)
  let marks := (s.worldGroups w).flatMap (fun k => ((s.group k).accs.filter old).map (fun a => (k, a.aid)))
  { s with
    cores := s.cores.map (fun p => (p.1, { p.2 with tlb := p.2.tlb.filter keep }))
    dieTlb := s.dieTlb.map (fun p => (p.1, p.2.filter keep))
    cmdif := { s.cmdif with wmark := marks ++ s.storesOut w, wtroupes := s.holders w } }

/-- The troupes whose held stores a command waits for are to take (R306, R337). -/
def State.askHolders (s : State) : State :=
  s.cmdif.wtroupes.foldl (fun s k =>
    if (s.troupe k).resident && (s.troupe k).halting.isNone && !(s.troupe k).hold.isEmpty then s.askHalt k .take else s) s

/-- Are the stores that a command waits for released, and performed? -/
def State.holdersDone (s : State) : Bool :=
  s.cmdif.wtroupes.all (fun k => (s.troupe k).hold.isEmpty && s.released k)

/-- Is a noted access, or a store of it, still to be performed? -/
def State.markStands (s : State) (m : Nat × Nat) : Bool :=
  ((s.group m.1).acc m.2).any (fun a => a.lanes.any (fun l => l.stage == .ready && s.inInvalidate l.addr)) ||
    s.cores.any (fun p => p.2.wbuf.any (fun e => e.side != 1 && e.gid == m.1 && e.aid == m.2))

/-- The engine commands of a world that run now and write memory, by group and number: 8 times the sequence number, and the
path code. -/
def State.runningCmds (s : State) (w : Nat) : List (Nat × Nat) :=
  (s.worldGroups w).flatMap (fun k =>
    ((s.group k).engq.filter (fun c => c.started && !c.past && c.parked.isNone && c.op.leavesTroupe)).map (fun c =>
      (k, 8 * c.seq + pathCode c.path)))

/-- What a world has written on its way to memory is performed there as far as that can go now: the L1s of its cores, with
what peers have to acknowledge; and is it done? -/
def State.writeBackWorld (s : State) (w : Nat) : State × Bool :=
  let r := s.cleanCores (worldCores (s.world w)) (fun e => e.side == 1)
  (r.1, r.2 && r.1.engineOut.all (fun e => e.world != w))

/-- No constant cache holds a sector of a world. -/
def State.dropConst (s : State) (w : Nat) : State :=
  { s with cores := s.cores.map (fun p => (p.1, { p.2 with ccache := p.2.ccache.filter (fun q => q.2.world != w) })) }

/-- Once an invalidate has completed, what parks on a page of its range that is mapped now is translated again (R307). -/
def State.releaseParked (s : State) (w : Nat) : State :=
  ((s.world w).faults.filter (fun f => s.inInvalidate (65536 * f.page))).foldl (fun s f =>
    match s.pageMapped w (65536 * f.page) with
    | (s, some true) => s.answer w f true
    | (s, _) => s) s

/-- TLBINV (R306, R307): it ends when every access that was translated before has been performed at DEVICE, or withdrawn;
the constant caches then hold no sector that such an access has filled. -/
def State.tlbinvEffect (s : State) (w : Nat) : State × Bool :=
  let s := s.askHolders
  if s.cmdif.wmark.any s.markStands || !s.holdersDone then (s, false)
  else
    match s.writeBackWorld w with
    | (s, true) => ((s.dropConst w).releaseParked w, true)
    | (s, false) => (s, false)

/-- IFINV begins (R309): what the world has written so far is to be performed first: stores on their way or held by a take,
and what engine commands that run are writing. -/
def State.ifinvBegin (s : State) (w : Nat) : State :=
  { s with cmdif := { s.cmdif with wmark := s.storesOut w, wcmds := s.runningCmds w, wtroupes := s.holders w } }

/-- Does a noted engine command still run? -/
def State.cmdStands (s : State) (m : Nat × Nat) : Bool :=
  (s.group m.1).engq.any (fun c => c.started && !c.past && 8 * c.seq + pathCode c.path == m.2)

/-- IFINV (R309): every instruction cache and constant cache of the world is emptied. -/
def State.ifinvEffect (s : State) (w : Nat) : State × Bool :=
  let s := s.askHolders
  let out (m : Nat × Nat) : Bool :=
    s.cores.any (fun p => p.2.wbuf.any (fun e => e.side != 1 && e.gid == m.1 && e.aid == m.2))
  if s.cmdif.wmark.any out || s.cmdif.wcmds.any s.cmdStands || !s.holdersDone then (s, false)
  else
    match s.writeBackWorld w with
    | (s, false) => (s, false)
    | (s, true) =>
      let s := s.dropConst w
      ({ s with
         cores := s.cores.map (fun p => (p.1, { p.2 with icache := p.2.icache.filter (fun q => q.2.world != w) })) }, true)

/-- PREEMPT (R419). -/
def State.preemptEffect (s : State) (w : Nat) : State × Bool :=
  let s := s.freezeWorld w false
  (s, s.worldHalted w)

/-- RESUME (R419): rings that a heartbeat expiry froze stay frozen (R406). -/
def State.resumeEffect (s : State) (w : Nat) : State × Bool :=
  ({ s with launches := s.launches.map (fun p => if p.2.world = w then (p.1, { p.2 with frozen := false }) else p) }, true)

/-- The launch of a world with a sequence number, if it has not ended. -/
def State.openLaunch (s : State) (w seq : Nat) : Option Nat :=
  (s.launches.find? (fun p => p.2.world == w && p.2.seq % 2 ^ 32 == seq && !p.2.ended)).map (·.1)

/-- ENDLAUNCH (R419). -/
def State.endlaunchEffect (s : State) (w : Nat) : State × Bool :=
  match s.openLaunch w (s.arg0 % 2 ^ 32) with
  | some l => if s.microBusy l then (s, false) else (s.endLaunch l 4, true)
  | none => (s, true)

/-- EXPOSE (R418). -/
def State.exposeEffect (s : State) (w : Nat) : State × Bool :=
  match (s.world w).slices[s.arg0 % 256]? with
  | some sl => (s.modSlice sl (fun v => { v with exposed := bitOf s.arg0 8 }), true)
  | none => (s, true)

/-- APERTURE's refusals (R418). -/
def State.apertureErr (s : State) (w : Nat) : Nat :=
  let n := s.arg0
  let base := s.arg1
  let size := s.arg2
  let port := bitsOf n 7 4
  let meets : Bool := (s.world w).apOut.any (fun p =>
    match p.2 with
    | some a => p.1 != n % 16 && overlaps a.a a.b base size
    | none => false)
  let taken : Bool := s.worlds.any (fun p => p.1 != w && (tabGet none p.2.apIn (16 * port + n % 16)).isSome)
  if 12 ≤ port then 1
  else if bitOf n 8 then (if taken then 2 else 0)
  else if size ≠ 0 ∧ (base % 2 ^ 30 ≠ 0 ∨ base < peerBase ∨ size % 2 ^ 30 ≠ 0 ∨ 2 ^ 38 < size ∨ meets = true) then 1
  else 0

/-- APERTURE (R418). -/
def State.apertureEffect (s : State) (w : Nat) : State × Bool :=
  let n := s.arg0
  let port := bitsOf n 7 4
  if bitOf n 8 then
    let a : Aperture := { port, a := bitsOf s.arg1 7 0, b := bitsOf s.arg1 15 8, remote := 0 }
    (s.modWorld w (fun v =>
      { v with apIn := tabSet none v.apIn (16 * port + n % 16) (if s.arg2 = 0 then none else some a) }), true)
  else
    let a : Aperture := { port, a := s.arg1, b := s.arg2, remote := bitsOf n 15 12 }
    (s.modWorld w (fun v => { v with apOut := tabSet none v.apOut (n % 16) (if s.arg2 = 0 then none else some a) }), true)

/-- The communicator entry that an image in host memory holds; none when it breaks R418's limits. -/
def State.commImage (s : State) (addr : Nat) : Option Comm :=
  let head := s.hostBytes addr 16
  let m := fieldAt head 0 2
  let own := fieldAt head 2 2
  let entries := (List.range m).map (fun i => bytesNat (s.hostBytes (addr + 16 + 8 * i) 8))
  let member (e : Nat) : CommMember := { port := bitsOf e 3 0, trp := bitsOf e 31 16, grpid := bitsOf e 35 32 }
  let good (e : Nat) : Bool :=
    bitsOf e 15 4 == 0 && bitsOf e 63 36 == 0 && (decide (bitsOf e 3 0 < 12) || bitsOf e 3 0 == 15)
  if 2 ≤ m ∧ m ≤ 256 ∧ own < m ∧ bytesNat (head.drop 4) = 0 ∧ entries.all good = true ∧
      bitsOf (entries.getD own 0) 3 0 = 15 then
    some { own, members := entries.map member }
  else none

/-- COMMSET's refusals (R409, R418). -/
def State.commsetErr (s : State) (w : Nat) : Nat :=
  if s.arg1 % 16 ≠ 0 then 1
  else if s.anyPlaced w then 3
  else if (s.commImage s.arg1).isNone then 1
  else 0

/-- COMMSET (R388, R418). -/
def State.commsetEffect (s : State) (w : Nat) : State × Bool :=
  (s.modWorld w (fun v => { v with comms := tabSet none v.comms (s.arg0 % 64) (s.commImage s.arg1) }), true)

/-- WALK (R321, R409). -/
def State.walkEffect (s : State) (w : Nat) : State × Bool := ((s.ringsOf w).foldl State.walkRing s, true)

/-! ## The commands as they go on -/

/-- The command that is running goes on (R408, R409). -/
def State.finishCmd (s : State) : State :=
  match s.cmdif.wpend with
  | none => s
  | some i =>
    match i with
    | .create w => s.cmdGo w false (fun s => s.createEffect w)
    | .destroy w => s.cmdGo w true (fun s => s.destroyEffect w)
    | .rectadd w => s.cmdGo w true (fun s => s.rectaddEffect w)
    | .rectrem w => s.cmdGo w true (fun s => s.rectremEffect w)
    | .sliceadd w => s.cmdGo w true (fun s => s.sliceaddEffect w)
    | .slicerem w => s.cmdGo w true (fun s => s.sliceremEffect w)
    | .migrate w => s.cmdGo w true (fun s => s.migrateEffect w)
    | .migdone w => s.cmdGo w false (fun s => s.migdoneEffect w)
    | .l2set w => s.cmdGo w true (fun s => s.l2setEffect w)
    | .share w => s.cmdGo w true (fun s => s.shareEffect w)
    | .param w => s.cmdGo w (s.paramModes w) (fun s => s.paramEffect w)
    | .handle w => s.cmdGo w true (fun s => s.handleEffect w)
    | .area w => s.cmdGo w false (fun s => s.areaEffect w)
    | .tlbinv w => s.cmdGo w false (fun s => s.tlbinvEffect w)
    | .ifinv w => s.cmdGo w false (fun s => s.ifinvEffect w)
    | .preempt w => s.cmdGo w false (fun s => s.preemptEffect w)
    | .resume w => s.cmdGo w false (fun s => s.resumeEffect w)
    | .endlaunch w => s.cmdGo w false (fun s => s.endlaunchEffect w)
    | .expose w => s.cmdGo w true (fun s => s.exposeEffect w)
    | .aperture w => s.cmdGo w true (fun s => s.apertureEffect w)
    | .commset w => s.cmdGo w false (fun s => s.commsetEffect w)
    | .walk w => s.cmdGo w false (fun s => s.walkEffect w)
    | _ => s.cmdOk

/-- A command is written, and goes as far as it can at once. -/
def command (i : Instr) (w : Nat) (present : Bool) (err : State → Nat) (begin_ : State → State) (s : State) : Out :=
  match s.cmdStart i w present err begin_ with
  | some t => .next (if t.cmdif.wbusy then t.finishCmd else t)
  | none => .next s

/-- CREATE (R410). -/
def execCreate (w : Nat) (s : State) : Out := command (.create w) w false (fun _ => 0) id s
/-- DESTROY (R410). -/
def execDestroy (w : Nat) (s : State) : Out := command (.destroy w) w true (fun _ => 0) id s
/-- RECTADD (R411). -/
def execRectadd (w : Nat) (s : State) : Out := command (.rectadd w) w true (fun s => s.rectaddErr w) id s
/-- RECTREM (R411). -/
def execRectrem (w : Nat) (s : State) : Out := command (.rectrem w) w true (fun s => s.rectremErr w) id s
/-- SLICEADD (R412). -/
def execSliceadd (w : Nat) (s : State) : Out := command (.sliceadd w) w true (fun s => s.sliceaddErr w) id s
/-- SLICEREM (R412). -/
def execSlicerem (w : Nat) (s : State) : Out :=
  command (.slicerem w) w true (fun s => if (s.world w).slices.isEmpty then 1 else 0) id s
/-- MIGRATE (R413). -/
def execMigrate (w : Nat) (s : State) : Out := command (.migrate w) w true (fun s => s.migrateErr w) id s
/-- MIGDONE (R413). -/
def execMigdone (w : Nat) (s : State) : Out :=
  command (.migdone w) w true (fun s => if (s.sourceOf w (s.arg0 % 256)).isNone then 1 else 0) id s
/-- L2SET (R416). -/
def execL2set (w : Nat) (s : State) : Out := command (.l2set w) w true (fun s => s.l2setErr w) id s
/-- SHARE (R416). -/
def execShare (w : Nat) (s : State) : Out := command (.share w) w true (fun s => s.shareErr w) id s
/-- PARAM (R409). -/
def execParam (w : Nat) (s : State) : Out := command (.param w) w true (fun s => s.paramErr w) id s
/-- HANDLE (R311, R409). -/
def execHandle (w : Nat) (s : State) : Out :=
  command (.handle w) w true (fun s => if s.anyPlaced w then 3 else 0) id s
/-- AREA (R417). -/
def execArea (w : Nat) (s : State) : Out := command (.area w) w true (fun s => s.areaErr w) id s
/-- TLBINV (R306). -/
def execTlbinv (w : Nat) (s : State) : Out :=
  command (.tlbinv w) w true (fun s => s.tlbinvErr w) (fun s => s.tlbinvBegin w) s
/-- IFINV (R309). -/
def execIfinv (w : Nat) (s : State) : Out := command (.ifinv w) w true (fun _ => 0) (fun s => s.ifinvBegin w) s
/-- PREEMPT (R419). -/
def execPreempt (w : Nat) (s : State) : Out := command (.preempt w) w true (fun _ => 0) id s
/-- RESUME (R419). -/
def execResume (w : Nat) (s : State) : Out := command (.resume w) w true (fun _ => 0) id s
/-- ENDLAUNCH (R419). -/
def execEndlaunch (w : Nat) (s : State) : Out :=
  command (.endlaunch w) w true (fun s => if (s.openLaunch w (s.arg0 % 2 ^ 32)).isNone then 1 else 0) id s
/-- EXPOSE (R418). -/
def execExpose (w : Nat) (s : State) : Out :=
  command (.expose w) w true (fun s => if ((s.world w).slices[s.arg0 % 256]?).isNone then 1 else 0) id s
/-- APERTURE (R418). -/
def execAperture (w : Nat) (s : State) : Out := command (.aperture w) w true (fun s => s.apertureErr w) id s
/-- COMMSET (R418). -/
def execCommset (w : Nat) (s : State) : Out := command (.commset w) w true (fun s => s.commsetErr w) id s
/-- WALK (R321, R409). -/
def execWalk (w : Nat) (s : State) : Out := command (.walk w) w true (fun _ => 0) id s

/-- SCRUB (R414): the scrub of a slice that has left its world is completed, and a command that waits for it goes on. -/
def execScrub (sl : Nat) (s : State) : Out :=
  if (s.slice sl).mayScrub && decide (sl < 256) then
    .next (((s.wipeRows sl).modSlice sl (fun _ => {})).finishCmd)
  else .next s

end Sys2Proof.Machine
end

