-- ==== Sys2Proof/Machine/Trust.lean ====
section
/-! DEFINITION. Keys, sessions and the interface's states (spec/20_trust.md R389 to R393, R400 to R406): the key
commands, the SPDM responder of a function, TDISP, and the session heartbeat. The answer that a request gets stands in
`State.bus`; 0 is an error response. -/

namespace Sys2Proof.Machine

/-! ## Key slots (R389 to R393) -/

/-- The stacks that a mask names. -/
def stacksOf (m : BitVec 8) : List Nat := (List.range 8).filter (fun i => m.getLsbD i)

/-- The world that holds a key identifier (R389). -/
def State.holderOf (s : State) (k : Nat) : Option Nat :=
  if k = 0 then some 0 else (s.worlds.find? (fun p => p.1 != 0 && p.2.keyid == some k)).map (·.1)

/-- The refusals that GENERATE and LOADWRAP share, with the mode that each needs (R391). -/
def State.bindErr (s : State) (stks : BitVec 8) (w k : Nat) (wrapped : Bool) : Nat :=
  let v := s.world w
  let slot (st : Nat) : Option KeySlot := tabFind s.keys (512 * st + k)
  if v.present = false then 3
  else if v.assisted 3 ≠ wrapped then 2
  else if stks = 0 ∨ s.keys.any (fun p => p.1 % 512 == k && p.2.world != w) = true ∨ (k = 0 ∧ w ≠ 0) ∨
      (v.keyid ≠ none ∧ v.keyid ≠ some k) ∨
      (stacksOf stks).any (fun st => (slot st).any (fun x => x.world == w)) = true then 3
  else if v.lockedOrRun then 4
  else 0

/-- Slots are filled with new secrets and bound. -/
def State.fillSlots (s : State) (stks : BitVec 8) (w k sk mk ts : Nat) : State :=
  let g := s.keyGen + 1
  let v : KeySlot := { world := w, gen := g, skey := sk, mkey := mk, tsec := ts }
  let s : State :=
    { s with keyGen := g, keys := (stacksOf stks).foldl (fun t st => tabPut t (512 * st + k) v) s.keys }
  s.modWorld w (fun x => { x with keyid := some k })

/-- A key command is refused. -/
def State.keyRefused (s : State) (err : Nat) : State := { s with cmdif := { s.cmdif with kok := false, kerr := err } }

/-- A key command has taken effect in every named stack. -/
def State.keyOk (s : State) : State :=
  { s with cmdif := { s.cmdif with kok := true, kerr := 0, kbusy := false, kpend := none } }

/-- A 256-bit secret from the random bit generator. -/
def drawn (n : Nat) : Nat := Config.random n % 2 ^ 256

/-- GENERATE (R391): SK, MK and TS are drawn from the random bit generator. -/
def execGenerate (stks : BitVec 8) (w : Nat) (keyid : BitVec 9) (s : State) : Out :=
  let e := s.bindErr stks w keyid.toNat false
  if s.cmdif.kbusy then .next s
  else if e ≠ 0 then .next (s.keyRefused e)
  else
    let n := s.free
    .next (({ s with free := n + 3 } : State).fillSlots stks w keyid.toNat (drawn n) (drawn (n + 1)) (drawn (n + 2))).keyOk

/-! ### Identity (R401) -/

/-- DeviceID, from the fused secret. -/
def deviceId : Nat := kdf Config.uds "FX840-DEVID" []

/-- The private key of P-256 that is made of a secret, with extra random bits (FIPS 186-5). -/
def privateKey (secret : Nat) : Nat := Config.extraBits secret % (p256Order - 1) + 1

/-- The bytes of a firmware image. -/
def Firmware.bytes (f : Firmware) : List Byte := f.image.getD Config.shippedFirmware

/-- Does an image carry a good signature, under Horieb's key with SHA-256 (R401, R435)? -/
def signedWell (image : List Byte) : Bool :=
  ecdsaVerify Config.firmwareKey (bytesNatBe (sha256 (Config.signedPart image))) (Config.signatureIn image)

/-- What the alias and the key-agreement key are derived with: SHA-256 of the firmware and its security version. -/
def State.firmwareHash (s : State) : List Byte := sha256 (s.fwRunning.bytes ++ Config.recordBytes [s.fwRunning.version])

/-- The alias key. -/
def State.aliasKey (s : State) : Nat := privateKey (kdf deviceId "FX840-ALIAS" s.firmwareHash)

/-- The key-agreement key. -/
def State.agreementKey (s : State) : Nat := privateKey (kdf deviceId "FX840-KAK" s.firmwareHash)

/-- A certificate that a key of the device issues at boot: ECDSA P-256 with SHA-256 over its body. -/
def certificate (which issuer : Nat) (subject : Nat × Nat) : List Byte × (Nat × Nat) :=
  let body := Config.certBody which (p256Public issuer) subject
  (body, ecdsaSign issuer (bytesNatBe (sha256 body)) (Config.certNonce which body))

/-- The certificate chain of slot 0 (R401): the alias certificate is signed with DeviceID, and the certificate of the
key-agreement key under the alias key. -/
def State.chain (s : State) : Nat :=
  Config.certChain (p256Public (privateKey deviceId)) (certificate 0 (privateKey deviceId) (p256Public s.aliasKey))
    (certificate 1 s.aliasKey (p256Public s.agreementKey))

/-! ### Wrapped keys (R392) -/

/-- The secrets that a wrapped-key blob holds: padding that is not zero, a point off the curve or a failed integrity check
gives none. -/
def State.unwrapBlob (s : State) (w k : Nat) : Option (Nat × Nat × Nat) :=
  let blob := s.hostBytes s.cmdif.karg.toNat 176
  let at_ (i n : Nat) : List Byte := (blob.drop i).take n
  let secret (l : List Byte) (i : Nat) : Nat := bytesNatBe ((l.drop (32 * i)).take 32)
  if (at_ 65 7).all (fun b => b == 0) = true ∧ blob.getD 0 0 = 4 then
    (ecdhP256 s.agreementKey (bytesNatBe (at_ 1 32), bytesNatBe (at_ 33 32))).bind (fun z =>
      (kwUnwrap (kdf z "FX840-KEK" (natBytes 1 w ++ natBytes 2 k)) (at_ 72 104)).map (fun l =>
        (secret l 0, secret l 1, secret l 2)))
  else none

/-- LOADWRAP (R391, R392). -/
def execLoadwrap (stks : BitVec 8) (w : Nat) (keyid : BitVec 9) (s : State) : Out :=
  let e := s.bindErr stks w keyid.toNat true
  if s.cmdif.kbusy then .next s
  else if e ≠ 0 then .next (s.keyRefused e)
  else
    match s.unwrapBlob w keyid.toNat with
    | some (sk, mk, ts) => .next (s.fillSlots stks w keyid.toNat sk mk ts).keyOk
    | none => .next (s.keyRefused 5)

/-- ZEROISE goes on (R391): for a world whose interface is CONFIG_LOCKED or RUN it is a layout change (R405). -/
def State.zeroiseGo (s : State) (stks : BitVec 8) (k : Nat) : State :=
  let r := match s.holderOf k with
    | some w => s.layoutChange w
    | none => (s, true)
  if r.2 then (r.1.zeroiseSlots (stacksOf stks) k).keyOk else r.1

/-- TEPOCH goes on (R391, R399). -/
def State.tepochGo (s : State) (k : Nat) : State :=
  match s.holderOf k with
  | none => s.keyOk
  | some w =>
    match s.advanceEpoch w with
    | some s => s.keyOk
    | none => s

/-- The key command that is running goes on. -/
def State.finishKey (s : State) : State :=
  match s.cmdif.kpend with
  | some (.zeroise stks _ k) => s.zeroiseGo stks k.toNat
  | some (.tepoch _ _ k) => s.tepochGo k.toNat
  | _ => s

/-- A key command that may take time begins: refused when no world holds the identifier. -/
def State.keyBegin (s : State) (i : Instr) (k : Nat) : State :=
  if s.cmdif.kbusy then s
  else if (s.holderOf k).isNone then s.keyRefused 3
  else ({ s with cmdif := { s.cmdif with kbusy := true, kok := false, kerr := 0, kpend := some i } } : State).finishKey

/-- ZEROISE (R391). -/
def execZeroise (stks : BitVec 8) (w : Nat) (keyid : BitVec 9) (s : State) : Out :=
  .next (s.keyBegin (.zeroise stks w keyid) keyid.toNat)

/-- TEPOCH (R391): WORLD and STACKS are ignored. -/
def execTepoch (stks : BitVec 8) (w : Nat) (keyid : BitVec 9) (s : State) : Out :=
  .next (s.keyBegin (.tepoch stks w keyid) keyid.toNat)

/-! ## What DRAM, the L2 and the fabric hold (R394, R396, R398)

State holds plaintext, with what tells whether a tag holds (entry 13); the bits that stand for it outside the places of R20
are these. -/

/-- The ciphertext of a row under a storage key, and its tag under a tag key (R394), with its counter. -/
def State.rowCipher (s : State) (k : KeySlot) (ra : Nat) : List Byte × Nat :=
  let c := s.rowCounter ra
  let sector (j : Nat) : List Byte :=
    let pa := ra + 64 * j
    aesCounter k.skey (fun b => c * 2 ^ 72 + pa / 64 % 2 ^ 46 * 2 ^ 26 + b) (s.memBytes pa 64)
  let l := (List.range 16).flatMap sector
  (l, gmac64 k.mkey (Config.tagNonce 0 ra c) (l ++ natBytes 8 (ra / 1024) ++ natBytes 8 c))

/-- The counters of a node of a slice's tree, and its tag under the metadata key (R396): each counter, the number, the level
and its own counter as 64 bits (DEDUCED of "64 counter bytes", entry 13). -/
def State.nodeImage (s : State) (sl level num : Nat) : List Nat × Nat :=
  let v := s.slice sl
  let child (i : Nat) : Nat :=
    if level = 1 then tabGet 1 v.nodes (nodeKey 0 (8 * num + i)) + v.lift
    else tabGet 0 v.nodes (nodeKey (level - 1) (8 * num + i))
  let own := tabGet 0 v.nodes (nodeKey level num)
  let counters := (List.range 8).map child
  (counters, gmac64 (drawn (v.metaKey.getD 0)) (Config.tagNonce 1 (nodeKey level num) own)
    ((counters ++ [num, level, own]).flatMap (natBytes 8)))

/-- The transport key of a world in an epoch (R398), from a slot's secret. -/
def transportKey (k : KeySlot) (epoch : Nat) : Nat := kdf k.tsec "FX840-TK" (natBytes 1 k.world ++ natBytes 4 epoch)

/-- The packet that filled or wrote a sector of an L2 or a turnstile: ciphertext and tag of AES-256-GCM with its nonce F ‖ n
(R398). -/
def State.packet (s : State) (k : KeySlot) (v : Sector) : List Byte × Nat :=
  let key := transportKey k (s.world v.world).epoch
  let l := gcmCipher key v.nonce (v.slice 0 64)
  (l, gcmTag key v.nonce [] l)

/-! ## The SPDM responder (R402) -/

/-- Change a function's session. -/
def State.modSession (s : State) (w : Nat) (f : Session → Session) : State :=
  s.modWorld w (fun v => { v with session := f v.session })

/-- A request is answered. -/
def State.reply (s : State) (n : Nat) : State := { s with bus := n }

/-- A request is answered if the function is there and a condition holds; else it gets an error response and changes
nothing. -/
def State.request (s : State) (w : Nat) (ok : World → Bool) (f : State → State) : Out :=
  if (s.world w).present && ok (s.world w) then .next (f s) else .next (s.reply 0)

/-- A secured message restarts the heartbeat timer, unless the grace period runs (R406). -/
def State.secured (s : State) (w : Nat) : State :=
  s.modSession w (fun v => if v.opened && v.grace.isNone then { v with lastBeat := s.now } else v)

/-- SHA-256 of what a list of numbers describes. -/
def digestOf (l : List Nat) : Nat := bytesNatBe (sha256 (Config.recordBytes l))

/-- A pair of 256-bit numbers, a point or a signature, as one number. -/
def pairBits (q : Nat × Nat) : Nat := q.1 * 2 ^ 256 + q.2

/-- An ECDSA signature with the alias key (R402), made with a number drawn for it. -/
def State.signed (s : State) (l : List Nat) : Nat := pairBits (ecdsaSign s.aliasKey (digestOf l) (drawn s.free))

/-- A request is answered with evidence that is signed, and with bits above the signature. -/
def State.replySigned (s : State) (l : List Nat) (more : Nat) : State :=
  s.bumpFree.reply (s.signed l + more * 2 ^ 512)

/-- GET_VERSION (R402): SPDM 1.3; negotiation starts anew. -/
def execGetVersion (w : Nat) (s : State) : Out :=
  s.request w (fun _ => true) (fun s =>
    (s.modSession w (fun v =>
      { v with version := true, capabilities := false, algorithms := false, handshake := false })).reply 0x13)

/-- GET_CAPABILITIES (R402). -/
def execGetCapabilities (w : Nat) (s : State) : Out :=
  s.request w (fun v => v.session.version) (fun s => (s.modSession w (fun v => { v with capabilities := true })).reply 1)

/-- The one suite that is offered (R402): ECDSA P-256, SHA-256, ECDHE on secp256r1 and AES-256-GCM, as the bits that SPDM
1.3 gives them in its base asymmetric, base hash, DHE and AEAD fields (PRESUMED, entry 13). -/
def algorithmSuite : Nat := packBits [(16, 0), (1, 32), (8, 64), (2, 80)]

/-- NEGOTIATE_ALGORITHMS (R402): the one suite that is offered. -/
def execNegotiateAlgorithms (w : Nat) (s : State) : Out :=
  s.request w (fun v => v.session.capabilities)
    (fun s => (s.modSession w (fun v => { v with algorithms := true })).reply algorithmSuite)

/-- GET_DIGESTS (R402): the digest of slot 0's chain. While a session is open it is a secured message (R406; DEDUCED, entry
13). -/
def execGetDigests (w : Nat) (s : State) : Out :=
  s.request w (fun v => v.session.algorithms) (fun s => (s.secured w).reply (digestOf [s.chain]))

/-- GET_CERTIFICATE (R402). -/
def execGetCertificate (w : Nat) (s : State) : Out :=
  s.request w (fun v => v.session.algorithms) (fun s => (s.secured w).reply s.chain)

/-- CHALLENGE (R402): signed with the alias key. -/
def execChallenge (w nonce : Nat) (s : State) : Out :=
  s.request w (fun v => v.session.algorithms) (fun s => s.replySigned [nonce, s.chain] 0)

/-- The code of an interface state, in measurement 5. -/
def Tdisp.code : Tdisp → Nat
  | .unlocked => 0
  | .locked => 1
  | .run => 2
  | .error => 3

/-- A list of a layout record: how many entries it has, and the numbers of each. -/
def recordList (l : List (List Nat)) : List Nat := l.length :: l.flatten

/-- The apertures of a table, each with its number. -/
def apertureItems (t : Tab (Option Aperture)) : List (List Nat) :=
  t.filterMap (fun p => p.2.map (fun a => [p.1, a.port, a.a, a.b, a.remote]))

/-- The items of a world's layout record (R403), as numbers in the order of the rule, each list with its count. -/
def State.layoutRecord (s : State) (w : Nat) : List Nat :=
  let v := s.world w
  [w, v.lockgen] ++ recordList (v.rects.map (fun r => [r.x, r.y, r.w, r.h])) ++
    recordList ((indexed v.slices).map (fun p => [p.1, p.2])) ++ (List.range 4).map (tabGet 0 v.l2gran) ++
    [v.fshare, v.lending.toNat] ++ recordList (v.keyid.toList.map (fun k => [k])) ++ [v.modes.toNat] ++
    recordList ((v.slices.filter (fun sl => (s.slice sl).exposed)).map (fun sl => [sl])) ++
    recordList (apertureItems v.apOut) ++ recordList (apertureItems v.apIn) ++
    (List.range 32).map (fun h => (tabGet 0 v.handles h).toNat) ++ [v.tshare]

/-- The measurements of a function (R402). -/
def State.measurement (s : State) (w : Nat) (i : Nat) : Option Nat :=
  let v := s.world w
  if i = 1 ∨ i = 2 then some (bytesNatBe (sha256 (Config.firmwarePart s.fwRunning.bytes i)))
  else if i = 3 then
    some (bytesNatBe (sha256 (Config.recordBytes [capsMask] ++ Config.fuses ++ Config.recordBytes [s.fwRunning.version])))
  else if i = 4 then some (digestOf (v.record.getD (s.layoutRecord w)))
  else if i = 5 then some (v.tdisp.code + 4 * v.lockgen)
  else none

/-- GET_MEASUREMENTS (R402): the value above the signature. -/
def execGetMeasurements (w index : Nat) (s : State) : Out :=
  s.request w (fun v => v.session.algorithms && (s.measurement w index).isSome) (fun s =>
    let m := (s.measurement w index).getD 0
    (s.secured w).replySigned [index, m] m)

/-- The point that a requester's share names: x above y. -/
def sharePoint (share : Nat) : Nat × Nat := (share / 2 ^ 256, share % 2 ^ 256)

/-- KEY_EXCHANGE (R402, R406): the shared secret is that of ECDHE on secp256r1, with a private key drawn for it; the answer
is signed and has the public key above the signature. The heartbeat period is 1 to 255 s, and 10 s when none is
negotiated. -/
def execKeyExchange (w period share : Nat) (s : State) : Out :=
  s.request w (fun v => v.session.algorithms && !v.session.opened && decide (period ≤ 255) && onP256 (sharePoint share))
    (fun s =>
      let d := privateKey (drawn s.free)
      let q := pairBits (p256Public d)
      (s.bumpFree.modSession w (fun v =>
        { v with
          handshake := true
          period := if period = 0 then 10 else period
          share := (ecdhP256 d (sharePoint share)).getD 0 })).replySigned [share, q] q)

/-- FINISH (R402): the session is open. -/
def execFinish (w : Nat) (s : State) : Out :=
  s.request w (fun v => v.session.handshake) (fun s =>
    (s.modSession w (fun v =>
      { v with handshake := false, opened := true, keyGen := v.keyGen + 1, bound := none, lastBeat := s.now })).reply 1)

/-- Cycles in a second of the 1.2 GHz clock (R3). -/
def cyclesPerSecond : Nat := 1200000000

/-- The cycle in which a grace period ends (R406). -/
def Session.graceEnd (v : Session) : Option Nat := v.grace.map (· + 2 * cyclesPerSecond)

/-- The rings that a heartbeat expiry froze are restored (R406). -/
def State.thaw (s : State) (w : Nat) : State :=
  { s with launches := s.launches.map (fun p => if p.2.world = w then (p.1, { p.2 with beat := false }) else p) }

/-- HEARTBEAT (R402, R406): it restarts the timer, and within the grace period, while the interface is still RUN, it
restores the frozen rings. -/
def execHeartbeat (w : Nat) (s : State) : Out :=
  s.request w (fun v => v.session.opened &&
      (match v.session.graceEnd with
       | some e => decide (v.tdisp = .run) && decide (s.now < e)
       | none => true)) (fun s =>
    ((if (s.world w).session.grace.isSome then s.thaw w else s).modSession w (fun v =>
      { v with lastBeat := s.now, grace := none })).reply 1)

/-- KEY_UPDATE (R402): new session keys; a secured message. -/
def execKeyUpdate (w : Nat) (s : State) : Out :=
  s.request w (fun v => v.session.opened) (fun s =>
    ((s.secured w).modSession w (fun v => { v with keyGen := v.keyGen + 1 })).reply 1)

/-- END_SESSION (R402): a grace period that runs goes on to its end. -/
def execEndSession (w : Nat) (s : State) : Out :=
  s.request w (fun v => v.session.opened) (fun s =>
    (s.modSession w (fun v => { v with opened := false, bound := none, share := 0 })).reply 1)

/-- IDE_KM (R400): a stream key of the host link is set over world 0's session. -/
def execIdeKm (mem : Bool) (key : Nat) (s : State) : Out :=
  s.request 0 (fun v => v.session.opened) (fun s =>
    (if mem then { (s.secured 0) with ideMem := some key } else { (s.secured 0) with ideIo := some key }).reply 1)

/-! ## The interface's states (R404) -/

/-- LOCK_INTERFACE_REQUEST (R404): the record is frozen. -/
def execLockInterfaceRequest (w : Nat) (s : State) : Out :=
  s.request w (fun v => decide (v.tdisp = .unlocked)) (fun s =>
    let s := (s.secured w).modWorld w (fun v => { v with tdisp := .locked, lockgen := (v.lockgen + 1) % 2 ^ 32 })
    (s.modWorld w (fun v => { v with record := some (s.layoutRecord w) })).reply 1)

/-- START_INTERFACE_REQUEST (R404): it binds the session to LOCKGEN. -/
def execStartInterfaceRequest (w : Nat) (s : State) : Out :=
  s.request w (fun v => decide (v.tdisp = .locked)) (fun s =>
    ((s.secured w).modWorld w (fun v =>
      { v with
        tdisp := .run
        session := { v.session with bound := if v.session.opened then some v.lockgen else none } })).reply 1)

/-- STOP_INTERFACE_REQUEST (R404). -/
def execStopInterfaceRequest (w : Nat) (s : State) : Out :=
  s.request w (fun v => decide (v.tdisp ≠ .unlocked)) (fun s =>
    ((s.secured w).modWorld w (fun v => { v with tdisp := .unlocked, record := none })).reply 1)

/-- SECRET_RELEASE (R404): a secured message with data for the world, on evidence of LOCKGEN `gen`. -/
def execSecretRelease (w gen : Nat) (s : State) : Out :=
  s.request w (fun v => s.trustedOk w && decide (v.lockgen = gen)) (fun s => (s.secured w).reply 1)

/-! ## The heartbeat timer (R406) -/

/-- HEARTBEAT_EXPIRY (R406): every ring is frozen, and the grace period begins. -/
def execHeartbeatExpiry (w : Nat) (s : State) : Out :=
  let v := s.world w
  let x := v.session
  if v.present && decide (v.tdisp = .run) && x.opened && x.grace.isNone &&
      decide (x.lastBeat + x.period * cyclesPerSecond ≤ s.now) then
    .next ((s.freezeWorld w true).modSession w (fun x => { x with grace := some s.now }))
  else .next s

/-- What the end of a grace period takes from a world: its sectors, its slots, the contents of its slices (R406). With the
host's assistance nobody writes a slice's zero image before the slice has left the world (R414, R418): its rows are then
left with no key (DEDUCED, entry 13). -/
def State.forfeit (s : State) (w : Nat) : State :=
  let s : State :=
    { s with
      l2 := s.l2.filter (fun p => p.2.world != w)
      turn := s.turn.filter (fun p => p.2.world != w) }
  let s := match (s.world w).keyid with
    | some k => s.zeroiseSlots (List.range 8) k
    | none => s
  let s := if (s.world w).assisted 2 then s
    else
      (s.slicesOf w).foldl (fun s sl =>
        (s.wipeRows sl).modSlice sl (fun v =>
          { owner := v.owner
            sealGen := v.sealGen
            scrubbed := false
            exposed := v.exposed
            forward := v.forward
            dest := v.dest })) s
  if (s.world w).tdisp = .error then s else s.enterError w

/-- GRACE_PERIOD_END (R406): every open launch is ended with END 5; once their completions are given, the rest follows. A
microkernel inside a bank run ends after it (R259). -/
def execGracePeriodEnd (w : Nat) (s : State) : Out :=
  match (s.world w).session.graceEnd with
  | none => .next s
  | some e =>
    if s.now < e then .next s
    else
      let s := ((s.openLaunches w).filter (fun l => !s.microBusy l)).foldl (fun s l => s.endLaunch l 5) s
      if s.launches.any (fun p => p.2.world == w && !p.2.past) then .next s
      else .next ((s.forfeit w).modSession w (fun x => { x with grace := none }))

end Sys2Proof.Machine
end

