-- ==== Sys2Proof/Machine/DebugCmd.lean ====
section
/-! DEFINITION. The debugger's commands and the rehearsal control (spec/22_debug.md R421 to R425, R428). -/

namespace Sys2Proof.Machine

/-- The launch that the debug registers name, if it is open (R421). -/
def State.debugLaunch (s : State) (w : Nat) : Option Nat := s.openLaunch w (s.world w).dbg.launch

/-- Is every group of a launch halted for the debugger, its record written (R421, R422, R423)? -/
def State.launchHalted (s : State) (lid : Nat) : Bool :=
  (s.troupesOf lid).all (fun k =>
    let t := s.troupe k
    t.retired || (t.held && (s.groupsOf k).all (fun g => (s.group g).record.isNone) &&
      (!t.resident || (t.halting.isNone && (s.groupsOf k).all (fun g => (s.group g).halted)))))

/-- Bit STOPPED of DBGSTAT (R421). -/
def State.debugStopped (s : State) (w : Nat) : Bool :=
  (s.debugLaunch w).any (fun l => (s.launch l).stopped && s.launchHalted l)

/-- Bit BUSY of DBGSTAT (R421): a STOP has not halted every group yet. -/
def State.debugBusy (s : State) (w : Nat) : Bool :=
  s.launches.any (fun p => p.2.world == w && p.2.stopped && !p.2.ended && !s.launchHalted p.1)

/-- The error code of the debug registers is set. -/
def State.debugErr (s : State) (w e : Nat) : State := s.modDbg w (fun d => { d with err := e })

/-- A command is written to DBGCMD (R421): ignored while one runs; refused; or carried out. -/
def State.debugCommand (s : State) (w : Nat) (err : Nat → Nat) (f : Nat → State → State) : State :=
  if !(s.world w).present || s.debugBusy w then s
  else
    match s.debugLaunch w with
    | none => s.debugErr w 1
    | some l => if err l = 0 then f l (s.debugErr w 0) else s.debugErr w (err l)

/-- A stopped launch goes on (R422). -/
def State.goOn (s : State) (lid : Nat) : State :=
  let s := s.modLaunch lid (fun l => { l with stopped := false })
  (s.troupesOf lid).foldl (fun s k =>
    let s := s.modTroupe k (fun t => { t with held := false })
    (s.groupsOf k).foldl (fun s g =>
      let s := s.modGroup g (fun g => { g with halted := false, part := false, recorded := false })
      if (s.troupe k).resident then s.resumeGroup g else s) s) s

/-- DEBUG_STOP (R422): a launch that is stopped already stays so. -/
def execDebugStop (w : Nat) (s : State) : Out :=
  .next (s.debugCommand w (fun _ => 0) (fun l s => if s.debugStopped w then s else s.stopLaunch l))

/-- DEBUG_RESUME (R422). -/
def execDebugResume (w : Nat) (s : State) : Out :=
  .next (s.debugCommand w (fun _ => if s.debugStopped w then 0 else 2) (fun l s => s.goOn l))

/-- The barrier that a handle names for STEP, if every group of the launch is a member of it (R425). -/
def State.stepBarrier (s : State) (w lid handle : Nat) : Option (Nat × Nat) :=
  match barrierEntry (tabGet 0 (s.world w).handles handle) with
  | some (level, num) =>
    if level ≠ 0 ∧ (s.launchGroups lid).all (fun k => (s.membersOf k level num).contains k) = true then some (level, num)
    else none
  | none => none

/-- DEBUG_STEP (R425). -/
def execDebugStep (w : Nat) (handle : BitVec 5) (s : State) : Out :=
  .next (s.debugCommand w
    (fun l => if !s.debugStopped w then 2 else if (s.stepBarrier w l handle.toNat).isNone then 3 else 0)
    (fun l s =>
      match s.stepBarrier w l handle.toNat with
      | none => s
      | some (level, num) =>
        let phases : Tab Nat := (s.launchGroups l).foldl (fun t k =>
          let key := s.barrierKey k level num
          tabSet 0 t key (s.barrier key).phase) []
        (s.modDbg w (fun d => { d with step := some (l, level, num), stepPhases := phases })).goOn l))

/-- The group that a selection names (R421). -/
def State.selectGroup (s : State) (w lid n : Nat) : Option Nat :=
  let core := (worldCores (s.world w))[bitsOf n 9 0]?
  ((s.troupesOf lid).flatMap s.groupsOf).find? (fun k =>
    let g := s.group k
    let t := s.troupe g.tid
    some t.core == core && t.z == bitsOf n 11 10 && g.grpid == bitsOf n 15 12 && g.isDouble == bitOf n 16)

/-- Is the selected register one that the group has (R424)? -/
def Group.selects (g : Group) (file num lane : Nat) : Bool :=
  if file = 0 then decide (num < g.r) && decide (lane < g.w)
  else if file = 1 then decide (num < 64)
  else if file = 2 then decide (num < g.p) && decide (lane < g.w)
  else if file = 3 then sprOk (.group 0) num
  else false

/-- The selected register of a stopped group. -/
def State.readSelected (s : State) (k file num lane : Nat) : Word64 :=
  let g := s.group k
  if file = 0 then (tabGet 0 g.vregs (64 * num + lane)).setWidth 64
  else if file = 1 then s.sreg (.group k) num
  else if file = 2 then (if (tabGet 0 g.preds num).getLsbD lane then 1 else 0)
  else BitVec.ofNat 64 (s.sprGroup (s.ctxOf k) k num)

/-- A mask with one bit set or cleared. -/
def setBit (m : Mask) (i : Nat) (b : Bool) : Mask :=
  let one : Mask := BitVec.ofNat 64 (2 ^ i)
  if b then m ||| one else m &&& ~~~one

/-- Write the selected register of a stopped group (R424): s0 stays zero, FMT takes a legal value only, read-only
registers stay. -/
def State.writeSelected (s : State) (k file num lane : Nat) (v : Word64) : State :=
  let clean (g : Group) : Group :=
    { g with poison := g.poison.filter (fun m => !(m.file == file && m.num == num && m.lane == lane)) }
  if file = 0 then
    s.modGroup k (fun g => { (clean g) with vregs := tabSet 0 g.vregs (64 * num + lane) (v.setWidth 32) })
  else if file = 1 then s.setSreg (.group k) num v
  else if file = 2 then
    s.modGroup k (fun g => { (clean g) with preds := tabSet 0 g.preds num (setBit (tabGet 0 g.preds num) lane (v.getLsbD 0)) })
  else if num = 1 ∧ fmtLegal (v.toNat % 2 ^ 14) = false then s
  else s.setSprGroup (s.ctxOf k) k num v

/-- DEBUG_SELECT (R424). -/
def execDebugSelect (w : Nat) (v : Word64) (s : State) : Out :=
  let n := v.toNat
  let file := bitsOf n 19 17
  let num := bitsOf n 28 20
  let lane := bitsOf n 34 29
  if !(s.world w).present then .next s
  else if !s.debugStopped w then .next (s.debugErr w 4)
  else
    match (s.debugLaunch w).bind (fun l => s.selectGroup w l n) with
    | none => .next (s.debugErr w 4)
    | some k =>
      if !(s.group k).selects file num lane then .next (s.debugErr w 4)
      else if bitOf n 35 then .next ((s.debugErr w 0).writeSelected k file num lane (s.world w).dbg.data)
      else
        let x := s.readSelected k file num lane
        .next (s.modDbg w (fun d => { d with err := 0, data := x }))

/-- RHCTL (R428, R429): setting EN zeroes the counters; while a rehearsal runs, only its end is accepted. -/
def execRhctl (w : Nat) (v : Word64) (s : State) : Out :=
  let n := v.toNat
  let d := (s.world w).dbg
  if !(s.world w).present then .next s
  else if d.rhEn then .next (if bitOf n 0 then s else s.modDbg w (fun d => { d with rhEn := false }))
  else if bitOf n 0 then
    .next (s.modDbg w (fun d =>
      { d with rhEn := true, rhD := bitsOf n 8 1, rhStart := s.now, hits := [], cycs := [], inserted := 0 }))
  else .next (s.modDbg w (fun d => { d with rhD := bitsOf n 8 1 }))

/-- A STEP goes on (R425). A group that has passed the phase has halted, and its record is made then (R423). Its troupe stays as
it is, and time-slicing acts on it as on the others, until every troupe of the launch has halted; then all are held for the
debugger. -/
def State.settleStep (s : State) (w : Nat) : State :=
  match (s.world w).dbg.step with
  | none => s
  | some (lid, _) =>
    let open_ := (s.troupesOf lid).filter (fun k => !(s.troupe k).retired)
    let s := ((s.launchGroups lid).filter (fun k => (s.group k).halted)).foldl State.makeRecord s
    if open_.all (fun k => (s.groupsOf k).all (fun g => (s.group g).halted)) then
      let s := open_.foldl (fun s k =>
        let s := s.modTroupe k (fun t => { t with held := true })
        if (s.troupe k).resident then s.askHalt k .debug else s) s
      (s.modLaunch lid (fun l => { l with stopped := true })).modDbg w (fun d => { d with step := none })
    else s

end Sys2Proof.Machine
end

