-- ==== Sys2Proof/Machine/Fleet.lean ====
section
/-! DEFINITION. The module as a whole (spec/23_fleet.md R434 to R437, spec/20_trust.md R401): firmware staging, the reset
of the module, and the thermal thresholds. -/

namespace Sys2Proof.Machine

/-- A firmware command is refused. -/
def State.fwRefused (s : State) (err : Nat) : State := { s with cmdif := { s.cmdif with fwok := false, fwerr := err } }

/-- A firmware command has completed. -/
def State.fwDone (s : State) : State := { s with cmdif := { s.cmdif with fwok := true, fwerr := 0 } }

/-- Is the length of an image in its range: 4 KiB to 64 MiB (R434)? -/
def fwLengthOk (n : Nat) : Bool := decide (4096 ≤ n) && decide (n ≤ 2 ^ 26)

/-- STAGE (R434, R435): only an image that verifies, and whose security version is not below the running one's, replaces
the staged image. -/
def execStage (s : State) : Out :=
  let n := s.cmdif.fwlen.toNat
  if !fwLengthOk n then .next (s.fwRefused 3)
  else
    let image := s.hostBytes s.cmdif.fwaddr.toNat n
    if !signedWell image then .next (s.fwRefused 1)
    else if Config.versionIn image < s.fwRunning.version then .next (s.fwRefused 2)
    else
      .next ({ s with
        fwStaged := some { image := some image, version := Config.versionIn image }
        fwBad := false } : State).fwDone

/-- CLEAR (R435). -/
def execClear (s : State) : Out := .next ({ s with fwStaged := none } : State).fwDone

/-- What the reset of the module leaves of a slice: one that a world owned has left it, and is to be scrubbed (R414,
R435). -/
def State.resetSlice (s : State) (v : Slice) : Slice :=
  match v.owner with
  | some w => { scrubbed := false, hostScrub := (s.world w).assisted 2 }
  | none => { scrubbed := v.scrubbed, hostScrub := v.hostScrub, zeroed := v.zeroed }

/-- The firmware that boots at the next reset. -/
def State.nextFirmware (s : State) : Firmware := s.fwStaged.getD s.fwRunning

/-- Does it verify (R401)? The image with which the module is shipped does (DESIGN CHOICE, entry 13). -/
def State.boots (s : State) : Bool := !s.fwBad && (s.nextFirmware.image.map signedWell).getD true

/-- The reset of the module (R401, R435): every world ends, launches end without completion records, and keys are lost;
the staged firmware runs. When it does not verify the boot stops, and the host port presents no function. The rows of DRAM
stay as they are, with no key to read them; host memory and the model's own fields stay. -/
def State.moduleReset (s : State) : State :=
  { State.reset with
    worlds := if s.boots then State.reset.worlds else []
    booted := s.boots
    fwBad := s.fwBad
    agenda := s.agenda
    free := s.free
    keyGen := s.keyGen
    mem := s.mem
    rows := s.rows
    treeBad := s.treeBad
    treeFailed := s.treeFailed
    homePoison := s.homePoison
    hostMem := s.hostMem
    slices := s.slices.map (fun p => (p.1, s.resetSlice p.2))
    fwRunning := s.nextFirmware }

/-- MODULE_RESET (R401, R435). -/
def execModuleReset (s : State) : Out := .next s.moduleReset

/-- THERMAL_WARNING (R387, R431, R437). -/
def execThermalWarning (sensor : Nat) (temp : BitVec 16) (s : State) : Out :=
  .next ((s.countShared 5).log 0 (s.logHead 0x16 0 0 ||| packBits [(sensor % 16, 128), (temp.toNat, 132)]))

/-- THERMAL_CRITICAL (R437): every core stops and the dies power down; the outcome is that of a module reset. -/
def execThermalCritical (s : State) : Out := .next s.moduleReset

end Sys2Proof.Machine
end

