-- ==== Sys2Proof/Machine/LaneFloat.lean ====
section
/-! DEFINITION. The floating-point forms, conversions and special functions of the lane stream (spec/07_isa_lane.md
R167 to R176). -/

namespace Sys2Proof.Machine

/-- FADD (R167, R168). -/
def execFadd (h : LaneHead) (ty : FTy) (s : State) : Out :=
  laneValue (.fadd h ty) h (fun e => e.arith h ty 2 (fun xs => xAdd (e.rdn h) (xAt xs 0) (xAt xs 1))) s
/-- FSUB (R167, R168). -/
def execFsub (h : LaneHead) (ty : FTy) (s : State) : Out :=
  laneValue (.fsub h ty) h (fun e => e.arith h ty 2 (fun xs => xAdd (e.rdn h) (xAt xs 0) (xOpp (xAt xs 1)))) s
/-- FMUL (R167, R168). -/
def execFmul (h : LaneHead) (ty : FTy) (s : State) : Out :=
  laneValue (.fmul h ty) h (fun e => e.arith h ty 2 (fun xs => xMul (xAt xs 0) (xAt xs 1))) s
/-- FFMA (R167, R168). -/
def execFfma (h : LaneHead) (ty : FTy) (s : State) : Out :=
  laneValue (.ffma h ty) h (fun e => e.arith h ty 3 (fun xs => xAdd (e.rdn h) (xMul (xAt xs 0) (xAt xs 1)) (xAt xs 2))) s
/-- FMIN (R167, R169). -/
def execFmin (h : LaneHead) (ty : FTy) (s : State) : Out :=
  laneValue (.fmin h ty) h (fun e => e.choose h ty false) s
/-- FMAX (R167, R169). -/
def execFmax (h : LaneHead) (ty : FTy) (s : State) : Out :=
  laneValue (.fmax h ty) h (fun e => e.choose h ty true) s
/-- FCMP (R170): with a packed type, the high half writes the next predicate. -/
def execFcmp (h : LaneHead) (ty : FTy) (pd : BitVec 7) (c : FCond) (s : State) : Out :=
  lanePred (.fcmp h ty pd c) h (fun e =>
    let lo := (pd.toNat, fun l => e.fcmpAt h ty c false l)
    match ty with
    | .f32 => [lo]
    | _ => [lo, (pd.toNat + 1, fun l => e.fcmpAt h ty c true l)]) s
/-- FCLASS (R171). -/
def execFclass (h : LaneHead) (ty : FTy) (s : State) : Out :=
  laneValue (.fclass h ty) h (fun e l old =>
    clampFlags (narrowInt e.run.fmt h.md (e.rnd h false l) old (e.fclass h ty l))) s
/-- FRND (R172). -/
def execFrnd (h : LaneHead) (ty : FTy) (x : Bool) (s : State) : Out :=
  laneValue (.frnd h ty x) h (fun e => e.frnd h ty x) s
/-- FSCALE (R168). -/
def execFscale (h : LaneHead) (ty : FTy) (s : State) : Out :=
  laneValue (.fscale h ty) h (fun e => e.fscale h ty) s
/-- CVT (R173, R174). -/
def execCvt (h : LaneHead) (src dst : CvtFmt) (s : State) : Out :=
  laneValue (.cvt h src dst) h (fun e => e.cvt h src dst) s
/-- BSCALE (R175). -/
def execBscale (h : LaneHead) (mode : BsMode) (s : State) : Out :=
  laneValue (.bscale h mode) h (fun e => e.bscale h mode) s

/-- RCP (R72, R176). -/
def execRcp (h : LaneHead) (s : State) : Out := laneValue (.rcp h) h (fun e => e.special h .rcp) s
/-- RSQ (R72, R176). -/
def execRsq (h : LaneHead) (s : State) : Out := laneValue (.rsq h) h (fun e => e.special h .rsq) s
/-- SQRT (R72, R176). -/
def execSqrt (h : LaneHead) (s : State) : Out := laneValue (.sqrt h) h (fun e => e.special h .sqrt) s
/-- EXP2 (R72, R176). -/
def execExp2 (h : LaneHead) (s : State) : Out := laneValue (.exp2 h) h (fun e => e.special h .exp2) s
/-- LOG2 (R72, R176). -/
def execLog2 (h : LaneHead) (s : State) : Out := laneValue (.log2 h) h (fun e => e.special h .log2) s
/-- SINPI (R72, R176). -/
def execSinpi (h : LaneHead) (s : State) : Out := laneValue (.sinpi h) h (fun e => e.special h .sinpi) s
/-- COSPI (R72, R176). -/
def execCospi (h : LaneHead) (s : State) : Out := laneValue (.cospi h) h (fun e => e.special h .cospi) s
/-- TANH (R72, R176). -/
def execTanh (h : LaneHead) (s : State) : Out := laneValue (.tanh h) h (fun e => e.special h .tanh) s

end Sys2Proof.Machine
end

