-- ==== Sys2Proof/Machine/Dispatch.lean ====
section
/-! DEFINITION. One arm for each constructor of `Instr`: a direct call of its meaning. -/

namespace Sys2Proof.Machine

/-- The effect of an instruction, event or command on the state. -/
def exec (i : Instr) (s : State) : Host.Outcome State Fault Refusal :=
  match i with
  | .nop => Sys2Proof.Machine.execNop s
  | .add d a b => Sys2Proof.Machine.execAdd d a b s
  | .sub d a b => Sys2Proof.Machine.execSub d a b s
  | .mul d a b => Sys2Proof.Machine.execMul d a b s
  | .mulh d a b => Sys2Proof.Machine.execMulh d a b s
  | .mulhn d a b => Sys2Proof.Machine.execMulhn d a b s
  | .div d a b => Sys2Proof.Machine.execDiv d a b s
  | .divn d a b => Sys2Proof.Machine.execDivn d a b s
  | .rem d a b => Sys2Proof.Machine.execRem d a b s
  | .remn d a b => Sys2Proof.Machine.execRemn d a b s
  | .and d a b => Sys2Proof.Machine.execAnd d a b s
  | .or d a b => Sys2Proof.Machine.execOr d a b s
  | .xor d a b => Sys2Proof.Machine.execXor d a b s
  | .andn d a b => Sys2Proof.Machine.execAndn d a b s
  | .shl d a b => Sys2Proof.Machine.execShl d a b s
  | .shr d a b => Sys2Proof.Machine.execShr d a b s
  | .sar d a b => Sys2Proof.Machine.execSar d a b s
  | .min d a b => Sys2Proof.Machine.execMin d a b s
  | .max d a b => Sys2Proof.Machine.execMax d a b s
  | .minn d a b => Sys2Proof.Machine.execMinn d a b s
  | .maxn d a b => Sys2Proof.Machine.execMaxn d a b s
  | .slt d a b => Sys2Proof.Machine.execSlt d a b s
  | .sltn d a b => Sys2Proof.Machine.execSltn d a b s
  | .seq d a b => Sys2Proof.Machine.execSeq d a b s
  | .addi d a imm => Sys2Proof.Machine.execAddi d a imm s
  | .andi d a imm => Sys2Proof.Machine.execAndi d a imm s
  | .ori d a imm => Sys2Proof.Machine.execOri d a imm s
  | .xori d a imm => Sys2Proof.Machine.execXori d a imm s
  | .shli d a sh => Sys2Proof.Machine.execShli d a sh s
  | .shri d a sh => Sys2Proof.Machine.execShri d a sh s
  | .sari d a sh => Sys2Proof.Machine.execSari d a sh s
  | .slti d a imm => Sys2Proof.Machine.execSlti d a imm s
  | .lui d imm => Sys2Proof.Machine.execLui d imm s
  | .lpc d imm => Sys2Proof.Machine.execLpc d imm s
  | .lea d a b sh => Sys2Proof.Machine.execLea d a b sh s
  | .sld d a disp => Sys2Proof.Machine.execSld d a disp s
  | .sst a b disp => Sys2Proof.Machine.execSst a b disp s
  | .sldk d a disp => Sys2Proof.Machine.execSldk d a disp s
  | .beq a b off => Sys2Proof.Machine.execBeq a b off s
  | .bne a b off => Sys2Proof.Machine.execBne a b off s
  | .blt a b off => Sys2Proof.Machine.execBlt a b off s
  | .bge a b off => Sys2Proof.Machine.execBge a b off s
  | .bltn a b off => Sys2Proof.Machine.execBltn a b off s
  | .bgen a b off => Sys2Proof.Machine.execBgen a b off s
  | .jmp off => Sys2Proof.Machine.execJmp off s
  | .call off => Sys2Proof.Machine.execCall off s
  | .ret a => Sys2Proof.Machine.execRet a s
  | .exit => Sys2Proof.Machine.execExit s
  | .setjoin off => Sys2Proof.Machine.execSetjoin off s
  | .divergence p neg off => Sys2Proof.Machine.execDivergence p neg off s
  | .join => Sys2Proof.Machine.execJoin s
  | .bany p neg off => Sys2Proof.Machine.execBany p neg off s
  | .ball p neg off => Sys2Proof.Machine.execBall p neg off s
  | .bnone p neg off => Sys2Proof.Machine.execBnone p neg off s
  | .setexm a sel => Sys2Proof.Machine.execSetexm a sel s
  | .getexm d hsel => Sys2Proof.Machine.execGetexm d hsel s
  | .twjoin => Sys2Proof.Machine.execTwjoin s
  | .run g idx => Sys2Proof.Machine.execRun g idx s
  | .gclr k => Sys2Proof.Machine.execGclr k s
  | .grd k => Sys2Proof.Machine.execGrd k s
  | .bg k off => Sys2Proof.Machine.execBg k off s
  | .setfmt v => Sys2Proof.Machine.execSetfmt v s
  | .setfmtr a sel => Sys2Proof.Machine.execSetfmtr a sel s
  | .getfmt d hsel => Sys2Proof.Machine.execGetfmt d hsel s
  | .cpy g mode d a b => Sys2Proof.Machine.execCpy g mode d a b s
  | .cpyw g mode d a b => Sys2Proof.Machine.execCpyw g mode d a b s
  | .gth g d a b => Sys2Proof.Machine.execGth g d a b s
  | .sct g d a b => Sys2Proof.Machine.execSct g d a b s
  | .coll g mode d a b => Sys2Proof.Machine.execColl g mode d a b s
  | .bnk g done d a b => Sys2Proof.Machine.execBnk g done d a b s
  | .bar kind hr handle a sc => Sys2Proof.Machine.execBar kind hr handle a sc s
  | .fence kind sc => Sys2Proof.Machine.execFence kind sc s
  | .pfence a b sc => Sys2Proof.Machine.execPfence a b sc s
  | .waitp p n => Sys2Proof.Machine.execWaitp p n s
  | .satom op sc d a b => Sys2Proof.Machine.execSatom op sc d a b s
  | .trap imm => Sys2Proof.Machine.execTrap imm s
  | .rte => Sys2Proof.Machine.execRte s
  | .sprr d n hsel => Sys2Proof.Machine.execSprr d n hsel s
  | .sprw n hsel a => Sys2Proof.Machine.execSprw n hsel a s
  | .yield => Sys2Proof.Machine.execYield s
  | .brk imm => Sys2Proof.Machine.execBrk imm s
  | .brun d a b => Sys2Proof.Machine.execBrun d a b s
  | .mbxget d nb => Sys2Proof.Machine.execMbxget d nb s
  | .mbxput a => Sys2Proof.Machine.execMbxput a s
  | .iadd h imm => Sys2Proof.Machine.execIadd h imm s
  | .isub h imm => Sys2Proof.Machine.execIsub h imm s
  | .imul h imm => Sys2Proof.Machine.execImul h imm s
  | .imulh h imm => Sys2Proof.Machine.execImulh h imm s
  | .imulhn h imm => Sys2Proof.Machine.execImulhn h imm s
  | .imad h imm => Sys2Proof.Machine.execImad h imm s
  | .imin h imm => Sys2Proof.Machine.execImin h imm s
  | .imax h imm => Sys2Proof.Machine.execImax h imm s
  | .iminn h imm => Sys2Proof.Machine.execIminn h imm s
  | .imaxn h imm => Sys2Proof.Machine.execImaxn h imm s
  | .iabs h => Sys2Proof.Machine.execIabs h s
  | .ineg h => Sys2Proof.Machine.execIneg h s
  | .laneAnd h imm => Sys2Proof.Machine.execLaneAnd h imm s
  | .laneOr h imm => Sys2Proof.Machine.execLaneOr h imm s
  | .laneXor h imm => Sys2Proof.Machine.execLaneXor h imm s
  | .inot h => Sys2Proof.Machine.execInot h s
  | .laneShl h imm => Sys2Proof.Machine.execLaneShl h imm s
  | .laneShr h imm => Sys2Proof.Machine.execLaneShr h imm s
  | .laneSar h imm => Sys2Proof.Machine.execLaneSar h imm s
  | .rotl h imm => Sys2Proof.Machine.execRotl h imm s
  | .bfe h pos len sgn => Sys2Proof.Machine.execBfe h pos len sgn s
  | .bfi h pos len => Sys2Proof.Machine.execBfi h pos len s
  | .popc h => Sys2Proof.Machine.execPopc h s
  | .clz h => Sys2Proof.Machine.execClz h s
  | .brev h => Sys2Proof.Machine.execBrev h s
  | .icmp h pd cond => Sys2Proof.Machine.execIcmp h pd cond s
  | .cadd128 h nb => Sys2Proof.Machine.execCadd128 h nb s
  | .fadd h ty => Sys2Proof.Machine.execFadd h ty s
  | .fsub h ty => Sys2Proof.Machine.execFsub h ty s
  | .fmul h ty => Sys2Proof.Machine.execFmul h ty s
  | .ffma h ty => Sys2Proof.Machine.execFfma h ty s
  | .fmin h ty => Sys2Proof.Machine.execFmin h ty s
  | .fmax h ty => Sys2Proof.Machine.execFmax h ty s
  | .fcmp h ty pd cond => Sys2Proof.Machine.execFcmp h ty pd cond s
  | .fclass h ty => Sys2Proof.Machine.execFclass h ty s
  | .frnd h ty x => Sys2Proof.Machine.execFrnd h ty x s
  | .fscale h ty => Sys2Proof.Machine.execFscale h ty s
  | .cvt h src dst => Sys2Proof.Machine.execCvt h src dst s
  | .bscale h mode => Sys2Proof.Machine.execBscale h mode s
  | .rcp h => Sys2Proof.Machine.execRcp h s
  | .rsq h => Sys2Proof.Machine.execRsq h s
  | .sqrt h => Sys2Proof.Machine.execSqrt h s
  | .exp2 h => Sys2Proof.Machine.execExp2 h s
  | .log2 h => Sys2Proof.Machine.execLog2 h s
  | .sinpi h => Sys2Proof.Machine.execSinpi h s
  | .cospi h => Sys2Proof.Machine.execCospi h s
  | .tanh h => Sys2Proof.Machine.execTanh h s
  | .pand h pd pa na => Sys2Proof.Machine.execPand h pd pa na s
  | .por h pd pa na => Sys2Proof.Machine.execPor h pd pa na s
  | .pxor h pd pa na => Sys2Proof.Machine.execPxor h pd pa na s
  | .pnot h pd pa na => Sys2Proof.Machine.execPnot h pd pa na s
  | .pmov h pd pa na => Sys2Proof.Machine.execPmov h pd pa na s
  | .ptoi h pa => Sys2Proof.Machine.execPtoi h pa s
  | .sel h ps ns => Sys2Proof.Machine.execSel h ps ns s
  | .mov h => Sys2Proof.Machine.execMov h s
  | .limm h lo => Sys2Proof.Machine.execLimm h lo s
  | .shfl h mode pv imm => Sys2Proof.Machine.execShfl h mode pv imm s
  | .vote h pa na mode => Sys2Proof.Machine.execVote h pa na mode s
  | .redux h op => Sys2Proof.Machine.execRedux h op s
  | .scan h op excl => Sys2Proof.Machine.execScan h op excl s
  | .regroup h count pd => Sys2Proof.Machine.execRegroup h count pd s
  | .demote h => Sys2Proof.Machine.execDemote h s
  | .vguard h k all pa na => Sys2Proof.Machine.execVguard h k all pa na s
  | .ld h size osx sc disp => Sys2Proof.Machine.execLd h size osx sc disp s
  | .st h size osx sc disp => Sys2Proof.Machine.execSt h size osx sc disp s
  | .lds h size osx disp => Sys2Proof.Machine.execLds h size osx disp s
  | .sts h size osx disp => Sys2Proof.Machine.execSts h size osx disp s
  | .ldc h size osx disp => Sys2Proof.Machine.execLdc h size osx disp s
  | .pref h osx l2 disp => Sys2Proof.Machine.execPref h osx l2 disp s
  | .atom h op w64 sc nr osx disp => Sys2Proof.Machine.execAtom h op w64 sc nr osx disp s
  | .atoms h op w64 nr osx disp => Sys2Proof.Machine.execAtoms h op w64 nr osx disp s
  | .rngx h unit => Sys2Proof.Machine.execRngx h unit s
  | .mma h mode acls n32 => Sys2Proof.Machine.execMma h mode acls n32 s
  | .mmat h mode acls n32 => Sys2Proof.Machine.execMmat h mode acls n32 s
  | .mguide h cnt => Sys2Proof.Machine.execMguide h cnt s
  | .mzero h cnt => Sys2Proof.Machine.execMzero h cnt s
  | .rep d a b c n => Sys2Proof.Machine.execRep d a b c n s
  | .laneNop e => Sys2Proof.Machine.execLaneNop e s
  | .bact h roff => Sys2Proof.Machine.execBact h roff s
  | .bpre h => Sys2Proof.Machine.execBpre h s
  | .brd h => Sys2Proof.Machine.execBrd h s
  | .bwr h => Sys2Proof.Machine.execBwr h s
  | .bfma h hi rm => Sys2Proof.Machine.execBfma h hi rm s
  | .bmac h sl => Sys2Proof.Machine.execBmac h sl s
  | .badd h bf rm => Sys2Proof.Machine.execBadd h bf rm s
  | .bmul h bf rm => Sys2Proof.Machine.execBmul h bf rm s
  | .bcvt h hi tof rm => Sys2Proof.Machine.execBcvt h hi tof rm s
  | .bred h sl => Sys2Proof.Machine.execBred h sl s
  | .bxch h x => Sys2Proof.Machine.execBxch h x s
  | .bmov h rl => Sys2Proof.Machine.execBmov h rl s
  | .bst h sz disp shr dir => Sys2Proof.Machine.execBst h sz disp shr dir s
  | .bzero h => Sys2Proof.Machine.execBzero h s
  | .brunComplete slice => Sys2Proof.Machine.execBrunComplete slice s
  | .doorbell w q t => Sys2Proof.Machine.execDoorbell w q t s
  | .lqcfg w q v => Sys2Proof.Machine.execLqcfg w q v s
  | .elcfg w v => Sys2Proof.Machine.execElcfg w v s
  | .fqcfg w v => Sys2Proof.Machine.execFqcfg w v s
  | .freply w v => Sys2Proof.Machine.execFreply w v s
  | .counterReadLow w off => Sys2Proof.Machine.execCounterReadLow w off s
  | .registerWrite w off v => Sys2Proof.Machine.execRegisterWrite w off v s
  | .launchTake w => Sys2Proof.Machine.execLaunchTake w s
  | .ringPlace lid => Sys2Proof.Machine.execRingPlace lid s
  | .microkernelStart lid => Sys2Proof.Machine.execMicrokernelStart lid s
  | .troupeResident core => Sys2Proof.Machine.execTroupeResident core s
  | .runStart core quarter slice => Sys2Proof.Machine.execRunStart core quarter slice s
  | .runPromotion gid => Sys2Proof.Machine.execRunPromotion gid s
  | .guardedEntryDiscard gid => Sys2Proof.Machine.execGuardedEntryDiscard gid s
  | .quantumExpiry core => Sys2Proof.Machine.execQuantumExpiry core s
  | .preemptionHalt tid => Sys2Proof.Machine.execPreemptionHalt tid s
  | .cueSheetWalk lid => Sys2Proof.Machine.execCueSheetWalk lid s
  | .scalarWaitEnd a => Sys2Proof.Machine.execScalarWaitEnd a s
  | .loadReturn gid aid lane => Sys2Proof.Machine.execLoadReturn gid aid lane s
  | .storeAck gid aid lane => Sys2Proof.Machine.execStoreAck gid aid lane s
  | .translationEnd gid aid => Sys2Proof.Machine.execTranslationEnd gid aid s
  | .faultService w fid => Sys2Proof.Machine.execFaultService w fid s
  | .deferredTrapDelivery gid => Sys2Proof.Machine.execDeferredTrapDelivery gid s
  | .engineCommandStart gid p => Sys2Proof.Machine.execEngineCommandStart gid p s
  | .engineCommandComplete gid p => Sys2Proof.Machine.execEngineCommandComplete gid p s
  | .groupRetire gid => Sys2Proof.Machine.execGroupRetire gid s
  | .regroupFuse gid => Sys2Proof.Machine.execRegroupFuse gid s
  | .mguideRendezvous gid => Sys2Proof.Machine.execMguideRendezvous gid s
  | .twinRejoin gid => Sys2Proof.Machine.execTwinRejoin gid s
  | .mailboxAccept gid => Sys2Proof.Machine.execMailboxAccept gid s
  | .turnstileAtomic gid aid lane => Sys2Proof.Machine.execTurnstileAtomic gid aid lane s
  | .slicePortRead w pa => Sys2Proof.Machine.execSlicePortRead w pa s
  | .slicePortWrite w pa => Sys2Proof.Machine.execSlicePortWrite w pa s
  | .transportPacketReceive w flow ok pa => Sys2Proof.Machine.execTransportPacketReceive w flow ok pa s
  | .epochAdvance w => Sys2Proof.Machine.execEpochAdvance w s
  | .peerFlitReceive port crcOk msg => Sys2Proof.Machine.execPeerFlitReceive port crcOk msg s
  | .inboundApertureAccess port num off write bytes => Sys2Proof.Machine.execInboundApertureAccess port num off write bytes s
  | .hostCxlMemAccess fn pa write trusted bytes => Sys2Proof.Machine.execHostCxlMemAccess fn pa write trusted bytes s
  | .completionRecord lid => Sys2Proof.Machine.execCompletionRecord lid s
  | .qcountRise => Sys2Proof.Machine.execQcountRise s
  | .takeCapture tid => Sys2Proof.Machine.execTakeCapture tid s
  | .rollback tid => Sys2Proof.Machine.execRollback tid s
  | .heartbeatExpiry w => Sys2Proof.Machine.execHeartbeatExpiry w s
  | .gracePeriodEnd w => Sys2Proof.Machine.execGracePeriodEnd w s
  | .getVersion w => Sys2Proof.Machine.execGetVersion w s
  | .getCapabilities w => Sys2Proof.Machine.execGetCapabilities w s
  | .negotiateAlgorithms w => Sys2Proof.Machine.execNegotiateAlgorithms w s
  | .getDigests w => Sys2Proof.Machine.execGetDigests w s
  | .getCertificate w => Sys2Proof.Machine.execGetCertificate w s
  | .challenge w nonce => Sys2Proof.Machine.execChallenge w nonce s
  | .getMeasurements w index => Sys2Proof.Machine.execGetMeasurements w index s
  | .keyExchange w period share => Sys2Proof.Machine.execKeyExchange w period share s
  | .finish w => Sys2Proof.Machine.execFinish w s
  | .heartbeat w => Sys2Proof.Machine.execHeartbeat w s
  | .keyUpdate w => Sys2Proof.Machine.execKeyUpdate w s
  | .endSession w => Sys2Proof.Machine.execEndSession w s
  | .ideKm mem key => Sys2Proof.Machine.execIdeKm mem key s
  | .lockInterfaceRequest w => Sys2Proof.Machine.execLockInterfaceRequest w s
  | .startInterfaceRequest w => Sys2Proof.Machine.execStartInterfaceRequest w s
  | .stopInterfaceRequest w => Sys2Proof.Machine.execStopInterfaceRequest w s
  | .secretRelease w gen => Sys2Proof.Machine.execSecretRelease w gen s
  | .generate stks w keyid => Sys2Proof.Machine.execGenerate stks w keyid s
  | .loadwrap stks w keyid => Sys2Proof.Machine.execLoadwrap stks w keyid s
  | .zeroise stks w keyid => Sys2Proof.Machine.execZeroise stks w keyid s
  | .tepoch stks w keyid => Sys2Proof.Machine.execTepoch stks w keyid s
  | .create w => Sys2Proof.Machine.execCreate w s
  | .destroy w => Sys2Proof.Machine.execDestroy w s
  | .rectadd w => Sys2Proof.Machine.execRectadd w s
  | .rectrem w => Sys2Proof.Machine.execRectrem w s
  | .sliceadd w => Sys2Proof.Machine.execSliceadd w s
  | .slicerem w => Sys2Proof.Machine.execSlicerem w s
  | .migrate w => Sys2Proof.Machine.execMigrate w s
  | .migdone w => Sys2Proof.Machine.execMigdone w s
  | .scrub slice => Sys2Proof.Machine.execScrub slice s
  | .l2set w => Sys2Proof.Machine.execL2set w s
  | .share w => Sys2Proof.Machine.execShare w s
  | .param w => Sys2Proof.Machine.execParam w s
  | .handle w => Sys2Proof.Machine.execHandle w s
  | .area w => Sys2Proof.Machine.execArea w s
  | .tlbinv w => Sys2Proof.Machine.execTlbinv w s
  | .ifinv w => Sys2Proof.Machine.execIfinv w s
  | .preempt w => Sys2Proof.Machine.execPreempt w s
  | .resume w => Sys2Proof.Machine.execResume w s
  | .endlaunch w => Sys2Proof.Machine.execEndlaunch w s
  | .expose w => Sys2Proof.Machine.execExpose w s
  | .aperture w => Sys2Proof.Machine.execAperture w s
  | .commset w => Sys2Proof.Machine.execCommset w s
  | .walk w => Sys2Proof.Machine.execWalk w s
  | .debugStop w => Sys2Proof.Machine.execDebugStop w s
  | .debugResume w => Sys2Proof.Machine.execDebugResume w s
  | .debugStep w handle => Sys2Proof.Machine.execDebugStep w handle s
  | .debugSelect w v => Sys2Proof.Machine.execDebugSelect w v s
  | .rhctl w v => Sys2Proof.Machine.execRhctl w v s
  | .stage => Sys2Proof.Machine.execStage s
  | .clear => Sys2Proof.Machine.execClear s
  | .moduleReset => Sys2Proof.Machine.execModuleReset s
  | .thermalWarning sensor temp => Sys2Proof.Machine.execThermalWarning sensor temp s
  | .thermalCritical => Sys2Proof.Machine.execThermalCritical s
  | .notAnInstruction cls cause lane tval => Sys2Proof.Machine.execNotAnInstruction cls cause lane tval s
  | .matrixFormCompletion core quarter reads => Sys2Proof.Machine.execMatrixFormCompletion core quarter reads s
  | .fqhead w v => Sys2Proof.Machine.execFqhead w v s
  | .phyLaneError => Sys2Proof.Machine.execPhyLaneError s
  | .cxlLinkError => Sys2Proof.Machine.execCxlLinkError s

end Sys2Proof.Machine
end

