-- ==== Sys2Proof/Machine/Trace.lean ====
section
/-! DEFINITION. Rushes and rehearsals (spec/22_debug.md R426 to R429): what a step adds to them. -/

namespace Sys2Proof.Machine

/-! ## The stream of a core (R426, R427) -/

/-- What a core's stream needs to know: its coordinates, the launch's number, its CLOCK, and how far it may be written. -/
structure TraceEnv where
  x : Nat
  y : Nat
  launch : Nat
  clock : Nat
  limit : Nat
  deriving DecidableEq, Repr

/-- Append a 64-bit word. -/
def Trace.word (t : Trace) (w : Nat) : Trace := { t with bytes := t.bytes ++ natBytes 8 w, written := t.written + 8 }

/-- At a 4 KiB boundary a SYNC begins, and restarts the time base. -/
def Trace.sync (t : Trace) (e : TraceEnv) : Trace :=
  if t.written % 4096 = 0 then
    let t := (t.word (packBits [(1, 0), (e.x, 4), (e.y, 9), (e.clock % 2 ^ 48, 16)])).word
      (packBits [(e.launch % 2 ^ 32, 0), (min t.syncDrops (2 ^ 32 - 1), 32)])
    { t with time := e.clock, syncDrops := 0 }
  else t

/-- The TIME packets that come first when DT would exceed 32,767, each with an ADD of at most 38 bits: `n` bounds their number. -/
def Trace.times (e : TraceEnv) : Nat → Trace → Trace
  | 0, t => t
  | n + 1, t =>
    let gap := e.clock - t.time
    if gap ≤ 32767 then t
    else
      let add := min gap (2 ^ 38 - 1)
      Trace.times e n (({ t.word (packBits [(5, 0), (add, 26)]) with time := t.time + add } : Trace).sync e)

/-- A packet with its DT, after the TIME packets that it needs. -/
def Trace.packet (t : Trace) (e : TraceEnv) (type key payload : Nat) : Trace :=
  let t := t.sync e
  let t := Trace.times e ((e.clock - t.time) / (2 ^ 38 - 1) + 1) t
  let t := t.word (packBits [(type, 0), (key / 32 % 4, 4), (key / 2 % 16, 6), (key % 2, 10), (e.clock - t.time, 11),
    (payload, 26)])
  { t with time := e.clock }

/-- PAD up to the next 4 KiB boundary, as far as there is room. -/
def Trace.fill (limit : Nat) : Nat → Trace → Trace
  | 0, t => t
  | n + 1, t =>
    if t.written % 4096 = 0 then { t with pad := false }
    else if limit < t.written + 8 then t
    else (t.word 0).fill limit n

/-- A packet that finds no room is dropped. -/
def Trace.drop (t : Trace) : Trace := { t with drops := t.drops + 1, syncDrops := t.syncDrops + 1 }

/-- After drops, a LOSS, and PAD up to the next boundary. -/
def Trace.recover (t : Trace) (e : TraceEnv) : Trace :=
  let t :=
    if t.pad || t.drops == 0 then t
    else
      let u := t.packet e 6 0 t.drops
      if u.written ≤ e.limit then { u with drops := 0, pad := true } else t
  if t.pad then t.fill e.limit 512 else t

/-- An event of the core goes into its stream, or is dropped. -/
def Trace.event (t : Trace) (e : TraceEnv) (p : Nat × Nat × Nat) : Trace :=
  let t := t.recover e
  let u := t.packet e p.2.1 p.1 p.2.2
  if t.pad || t.drops != 0 || decide (e.limit < u.written) then t.drop else u

/-! ## Which events there are -/

/-- The launch whose cores write rushes: the one that DBGLAUNCH names, while EN is set. -/
def State.traced (s : State) (w : Nat) : Option Nat :=
  if (s.world w).dbg.trctl.testBit 0 then s.debugLaunch w else none

/-- The key of a group in its core's stream. -/
def State.traceKey (s : State) (gid : Nat) : Nat :=
  let g := s.group gid
  32 * (s.troupe g.tid).z + 2 * g.grpid + (if g.isDouble then 1 else 0)

/-- An event of a group is noted for the present cycle. -/
def State.noteEvent (s : State) (gid type payload : Nat) : State :=
  s.modCore (s.coreOf gid) (fun c => { c with trace := { c.trace with pend := c.trace.pend ++ [(s.traceKey gid, type, payload)] } })

/-- T and KIND of a BR packet for a half, from the state before the branch (R427); none for a word that is no branch. -/
def State.branchEvent (s : State) (gid : Nat) (i : Instr) : Option (Bool × Nat) :=
  let a := Agent.group gid
  let g := s.group gid
  let x (r : SReg) : Word64 := s.sreg a r.toNat
  let uniform (p : BitVec 7) (neg : Bool) (f : Mask → Mask → Bool) : Option (Bool × Nat) :=
    some (f (g.active &&& ~~~g.helpm) (g.pv p neg), 1)
  match i with
  | .beq p q _ => some (x p == x q, 0)
  | .bne p q _ => some (x p != x q, 0)
  | .blt p q _ => some ((x p).slt (x q), 0)
  | .bge p q _ => some (!(x p).slt (x q), 0)
  | .bltn p q _ => some ((x p).ult (x q), 0)
  | .bgen p q _ => some (!(x p).ult (x q), 0)
  | .bany p n _ => uniform p n (fun m v => m &&& v != 0)
  | .ball p n _ => uniform p n (fun m v => m &&& ~~~v == 0)
  | .bnone p n _ => uniform p n (fun m v => m &&& v == 0)
  | .bg k _ => some (decide ((s.guard gid k.toNat).st = .resolvedTrue), 2)
  | .divergence p n _ => some (g.active &&& g.pv p n != 0 && g.active &&& ~~~g.pv p n != 0, 3)
  | .join => some (true, 4)
  | .ret _ => some (true, 5)
  | _ => none

/-- The halves that a branch notes an event for: those that it decides for one by one, else the context's own. -/
def State.branchHalves (s : State) (gid kind : Nat) : List Nat :=
  if kind = 1 ∨ kind = 3 ∨ kind = 4 then s.halvesOf gid else [s.ctxOf gid]

/-- Has the scalar instruction at the PC of a context executed in the step from `s` to `t`? -/
def executed (s t : State) (c : Nat) : Bool :=
  let g := s.group c
  let h := t.group c
  t.live c && !(h.trapMode && !g.trapMode && h.tepc == g.pc) &&
    (match h.wait with
     | none => true
     | some .retire => true
     | some .rejoin => true
     | _ => false)

/-- The scalar instruction that a group issued in the step from `s`, if it has executed by `t`: context and word. -/
def issuedScalar (s t : State) (i : Option Instr) : Option (Nat × Instr) :=
  match s.cur, s.curLane, i with
  | .group gid, false, some i => if executed s t (s.ctxOf gid) then some (s.ctxOf gid, i) else none
  | _, _, _ => none

/-- The BR packets of the instruction that has been executed. -/
def State.traceBranch (t s : State) (c : Nat) (i : Instr) : State :=
  let w := s.worldOf c
  match s.traced w, s.branchEvent c i with
  | some l, some (_, kind) =>
    if l = (s.troupe (s.group c).tid).lid ∧ (s.world w).dbg.trctl.testBit 1 = true then
      (s.branchHalves c kind).foldl (fun t k =>
        match s.branchEvent k i with
        | some (taken, kind) =>
          t.noteEvent k 2 (packBits [(if taken then 1 else 0, 0), (kind, 1), (s.scodeOffset c / 4 % 2 ^ 34, 4)])
        | none => t) t
    else t
  | _, _ => t

/-- The MASK packets of the groups of a launch whose EXM has changed: one for each half of EXM that is not as before. -/
def State.traceMasks (t s : State) (lid : Nat) : State :=
  (t.launchGroups lid).foldl (fun t k =>
    let old := (s.group k).exm.toNat
    let new := (t.group k).exm.toNat
    let t := if old % 2 ^ 32 = new % 2 ^ 32 then t else t.noteEvent k 3 (packBits [(new % 2 ^ 32, 6)])
    if old / 2 ^ 32 = new / 2 ^ 32 then t else t.noteEvent k 3 (packBits [(1, 0), (new / 2 ^ 32, 6)])) t

/-- The STALL packet of a group, if the reason is not the last one reported. -/
def State.noteStall (s : State) (gid n : Nat) : State :=
  if tabGet 0 (s.core (s.coreOf gid)).trace.stalls gid = n then s
  else
    (s.noteEvent gid 4 n).modCore (s.coreOf gid) (fun c =>
      { c with trace := { c.trace with stalls := tabSet 0 c.trace.stalls gid n } })

/-- The STALL packets of a cycle: groups of a launch whose reported reason is not the last one reported. -/
def State.traceStalls (s : State) (lid : Nat) : State :=
  (s.launchGroups lid).foldl (fun s k =>
    if (s.troupe (s.group k).tid).resident then s.noteStall k (s.stallCode k) else s) s

/-- Is a troupe to be saved, frozen or stopped (R427)? -/
def Troupe.stops (t : Troupe) : Bool :=
  match t.halting with
  | some .save => true
  | some .freeze => true
  | some .debug => true
  | _ => false

/-- The STALL packets, with reason 1, of the groups of a launch whose troupe has been told to stop in this step (R427). -/
def State.traceStops (t s : State) (lid : Nat) : State :=
  (t.launchGroups lid).foldl (fun t k =>
    let tid := (t.group k).tid
    if (t.troupe tid).stops && !(s.troupe tid).stops then t.noteStall k 1 else t) t

/-- The exponent of the ring size: TRSZ, from 16 to 24 (R426). -/
def Debug.ringBits (d : Debug) : Nat := min 24 (max 16 d.trsz)

/-- The first of the words that a core's stream holds goes to its ring, in memory of the world; none while its bank is held,
or its page is not there. -/
def State.drainWord (s : State) (w core index : Nat) : Option State :=
  let d := (s.world w).dbg
  let t := (s.core core).trace
  let size := 2 ^ d.ringBits
  match s.xlateLaunch w (d.trbase + index * size + t.base % size) .write with
  | (s, .ok pa _ _) =>
    if pa < deviceBytes ∧ s.homeBusy w pa true = true then none
    else
      some ((s.homeWriteAll w pa (t.bytes.take 8) false).modCore core (fun c =>
        { c with trace := { t with bytes := t.bytes.drop 8, base := t.base + 8 } }))
  | _ => none

/-- Up to `n` words go to the ring, in order, as far as they can now: only a full buffer or ring drops a packet (R426). -/
def State.drainWords (s : State) (w core index : Nat) : Nat → State
  | 0 => s
  | n + 1 =>
    match s.drainWord w core index with
    | some s => s.drainWords w core index n
    | none => s

/-- The words that a core's stream holds go to its ring, in memory of the world (R384, R426); in host-assisted mode they
stay in the die buffer until the host has consumed them. -/
def State.drainTrace (s : State) (w core index : Nat) : State :=
  let d := (s.world w).dbg
  let t := (s.core core).trace
  if (s.world w).assisted 4 then
    let used := (tabGet 0 d.consumed index).toNat - t.base
    s.modCore core (fun c => { c with trace := { t with bytes := t.bytes.drop used, base := t.base + min used t.bytes.length } })
  else s.drainWords w core index (t.bytes.length / 8)

/-- The events of a cycle of a core go into its stream, in the order of R427, as far as its ring has room, or the die buffer
while words wait there. -/
def State.emitCore (s : State) (w core index : Nat) : State :=
  let d := (s.world w).dbg
  let t := (s.core core).trace
  let taken := (tabGet 0 d.consumed index).toNat
  let limit :=
    if (s.world w).assisted 4 then taken + Config.dieBuffer
    else if t.bytes.isEmpty then taken + 2 ^ d.ringBits
    else min (taken + 2 ^ d.ringBits) (t.base + Config.dieBuffer)
  let e : TraceEnv :=
    { x := coreX core, y := coreY core, launch := d.launch, clock := s.now - (s.core core).clockBase,
      limit }
  let t := (sortBy (fun a b => decide (a.1 < b.1)) t.pend).foldl (fun t p => t.event e p) { t with pend := [] }
  (s.modCore core (fun c => { c with trace := t })).drainTrace w core index

/-- The cycle that ends now is written into the rushes of a world: the events that were noted in it, also when its launch has
ended in it, and words that still wait go to their rings, also when EN is clear by then. -/
def State.emitWorld (s : State) (w : Nat) : State :=
  let s :=
    match s.traced w with
    | none => s
    | some lid => if (s.world w).dbg.trctl.testBit 3 then s.traceStalls lid else s
  (worldCores (s.world w)).foldl (fun s c =>
    if (s.core c).trace.pend.isEmpty && (s.core c).trace.bytes.isEmpty then s
    else s.emitCore w c (coreIndex (s.world w) c)) s

/-! ## Rehearsals (R428, R429) -/

/-- Is an instruction an engine command, whose delay comes at its start (R428)? -/
def isEngineCommand : Instr → Bool
  | .cpy .. => true
  | .cpyw .. => true
  | .gth .. => true
  | .sct .. => true
  | .coll .. => true
  | .bnk .. => true
  | _ => false

/-- An instruction outside the range is delayed at issue, once (R428): the state, if its delay begins now. -/
def State.rehearse (s : State) (i : Instr) : Option State :=
  match s.cur with
  | .group gid =>
    let d := s.rehearsalDelay gid
    if d = 0 then none
    else if s.curLane then
      match (s.group gid).laneq with
      | r :: _ =>
        if r.outside && !r.leadDone && !(s.group gid).ldelayed then
          some ((s.noteDelay gid).modGroup gid (fun g => { g with ldelayed := true, ldelay := d }))
        else none
      | [] => none
    else
      let c := s.ctxOf gid
      if s.outsideRange c && !isEngineCommand i && !(s.group c).delayed then
        some ((s.noteDelay c).modGroup c (fun g => { g with delayed := true, delay := d }))
      else none
  | _ => none

/-- HITS and CYC of the progress points at the instruction that has been executed (R429). -/
def State.countHits (t s : State) (c : Nat) : State :=
  let w := s.worldOf c
  let d := (s.world w).dbg
  let o := s.scodeOffset c
  if d.rhEn && decide ((s.launchOf c).seq % 2 ^ 32 = d.launch) then
    (List.range 8).foldl (fun t k =>
      let p := tabGet 0 d.points k
      if p.getLsbD 63 && p.toNat % 2 ^ 32 == o then
        t.modDbg w (fun d =>
          { d with
            hits := tabSet 0 d.hits k (tabGet 0 d.hits k + 1)
            cycs := tabSet 0 d.cycs k (BitVec.ofNat 64 (s.now - d.rhStart)) })
      else t) t
  else t

/-- The next instruction of a stream that has gone on is delayed anew: `ran` says that its scalar instruction has been
executed. -/
def Group.rearm (old new : Group) (ran : Bool) : Group :=
  let head (g : Group) : Option (Nat × Option RepState × Bool × Nat) :=
    g.laneq.head?.map (fun r => (r.next, r.rep, r.leadDone, g.runsQueued - g.laneq.length))
  let new := if ran || old.pc != new.pc then { new with delayed := false } else new
  if head old = head new then new else { new with ldelayed := false }

/-- The contexts whose scalar instruction waited for its translation in `s` and has been executed by `t`. -/
def translated (s t : State) : List Nat :=
  (s.groups.filter (fun p =>
    match p.2.wait with
    | some (.trans _) => s.ctxOf p.1 == p.1 && executed s t p.1 && (t.group p.1).wait.isNone && (t.group p.1).pc == pcNext p.2.pc
    | _ => false)).map (·.1)

/-- What a step means for a rehearsal that runs. -/
def State.settleRehearsal (t s : State) (ran : Option Nat) : State :=
  if s.worlds.any (fun p => p.2.dbg.rhEn) then
    let t := (ran.toList ++ translated s t).foldl (fun t c => t.countHits s c) t
    { t with groups := t.groups.map (fun p => (p.1, (s.group p.1).rearm p.2 (ran == some p.1))) }
  else t

/-- What a step, from `s`, adds to rushes and rehearsals; `i` is the instruction that it issued. -/
def State.settleTrace (t s : State) (i : Option Instr) : State :=
  let ran := issuedScalar s t i
  let t := match ran with
    | some (c, i) => t.traceBranch s c i
    | none => t
  let t := t.worlds.foldl (fun t p =>
    match t.traced p.1 with
    | some lid =>
      let t := if p.2.dbg.trctl.testBit 2 then t.traceMasks s lid else t
      if p.2.dbg.trctl.testBit 3 then t.traceStops s lid else t
    | none => t) t
  t.settleRehearsal s (ran.map (·.1))

end Sys2Proof.Machine
end

