-- ==== Sys2Proof/Machine/Happen.lean ====
section
/-! DEFINITION. What happens to the machine besides its instructions and events: time (spec/10_scheduling.md R267, R270),
upsets and replacements (spec/13_faults.md R335, R339, spec/20_trust.md R395, R397), the work of engines and of running
commands; and what every step does at its end: the error log (spec/19_host.md R387, R439), the debugger's step, the
rushes. -/

namespace Sys2Proof.Machine

/-! ## Time -/

/-- The age of a head run is counted from the cycle in which it is first eligible; a `YIELD` starts it anew (R267,
R268). -/
def State.markEligible (s : State) (gid : Nat) : State :=
  let c := s.ctxOf gid
  if c = gid && s.eligible c then
    let again := (s.group c).yielded
    (s.unitOf c).foldl (fun s k => s.modGroup k (fun g =>
      { g with
        yielded := false
        laneq := match g.laneq with
          | [] => []
          | r :: l => { r with
              eligible := if again then some s.now else some (r.eligible.getD s.now)
              promoted := if again then none else r.promoted } :: l })) s
  else s

/-- Since when a resident troupe has been blocked, cycle by cycle (R270). -/
def State.markBlocked (s : State) (tid : Nat) : State :=
  if (s.troupe tid).resident then
    let b := s.troupeBlocked tid
    s.modTroupe tid (fun t => { t with blockedSince := if b then some (t.blockedSince.getD s.now) else none })
  else s

/-- The delays that a rehearsal has set run down (R428). -/
def Group.passDelay (g : Group) (n : Nat) : Group :=
  { g with
    delay := g.delay - n
    ldelay := g.ldelay - n
    engq := g.engq.map (fun c => { c with delay := c.delay - n }) }

/-- `n` cycles of the 1.2 GHz clock pass, in each of which the state is as it stands now. -/
def State.pass (s : State) (n : Nat) : State :=
  let s := (s.groups.map (·.1)).foldl State.markEligible s
  let s := (s.troupes.map (·.1)).foldl State.markBlocked s
  let s := (s.worlds.map (·.1)).foldl State.emitWorld s
  { s with now := s.now + n, groups := s.groups.map (fun p => (p.1, p.2.passDelay n)) }

/-! ## Upsets and replacements -/

/-- The form of a group in a term array, with its quarter (R206). -/
def State.formOf (s : State) (gid : Nat) : Option (Nat × ArrayForm) :=
  (s.core (s.coreOf gid)).arrays.findSome? (fun p =>
    p.2.bind (fun f => if f.gid = gid ∨ f.other = some gid then some (p.1, f) else none))

/-- The CAUSE of a mismatch in the unit that computes a lane word (R329, R335): the uniform unit, the special-function and
conversion queues (R173, R175, R176), or the lane datapath. None for a word that none of them computes. -/
def laneUnit (i : Instr) : Option Nat :=
  let queue : Bool :=
    match i with
    | .cvt .. => true
    | .bscale .. => true
    | .rcp _ => true
    | .rsq _ => true
    | .sqrt _ => true
    | .exp2 _ => true
    | .log2 _ => true
    | .sinpi _ => true
    | .cospi _ => true
    | .tanh _ => true
    | _ => false
  match i with
  | .notAnInstruction .. => none
  | .mma .. => none
  | .mmat .. => none
  | i => some (if queue || ((laneHead i).map (·.u)).getD false then 3 else 0)

/-- A residue checker mismatch (R329, R335) in the term array (`unit` 1), the scalar unit (2) or a lane unit of a group: it
counts, and the word about to give its result is cancelled, with a pipeline-error trap or a rollback; once for a converged
pair at an `MGUIDE` (R215). A stream that gives no result meets none. -/
def State.pipelineError (s : State) (gid unit : Nat) : State :=
  let t := s.countIn (s.worldOf gid) cPipeerr
  if unit = 1 then
    match s.formOf gid with
    | some (q, f) => t.formError (s.coreOf gid) q 1 f
    | none => s
  else if unit = 2 then
    let c := s.ctxOf gid
    if s.scalarCan c then t.trap (.group c) 10 2 (BitVec.ofNat 64 (s.pcOf (.group c))) else s
  else
    let h := s.laneHalf gid
    match (s.nextLane gid).2 with
    | .idle => s
    | .run i =>
      match laneUnit i with
      | some cause => if s.laneNow gid then t.lanePipeline h cause (s.headAddr h) (s.headOnce h) else s
      | none => s

/-- A mismatch in the scalar unit of a base-die core (R328, R335): the BSUs of a bank run close their rows, and the
microkernel ends. -/
def State.baseError (s : State) (sl : Nat) : State :=
  if (s.bdc sl).lid.isNone then s
  else
    ((s.countAlso ((s.slice sl).owner.getD 0) cPipeerr).closeRun sl).trapBdc sl
      { cls := 10, cause := 2, tval := BitVec.ofNat 64 (s.bdc sl).pc } (s.bdc sl).pc

/-- A mismatch in a BSU stops it with UNCORR, which is recorded as a contained error (R253, R335). -/
def State.bsuError (s : State) (sl j : Nat) : State :=
  match (s.bdc sl).brun with
  | some b =>
    if b.going.contains j && !b.ended then
      let w := (s.slice sl).owner.getD 0
      let row := (tabGet {} (s.slice sl).bsus j).openRow.getD 0
      ((s.countAlso w cPipeerr).contain sl w { cause := 3, bank := j, row, keyid := s.keyOf w }).stopBsu sl j 3
    else s
  | none => s

/-- Is a turnstile's sector the one that a full share writes back (R319)? -/
def State.turnFull (s : State) (k : Nat) : Bool :=
  let die := turnstileDie (64 * k)
  match tabFind s.turn k with
  | some v => decide (shareSectors (s.world v.world) ≤ (s.turnSectors v.world die).length) && s.oldestTurn v.world die == some k
  | none => false

/-- A node leaves the metadata cache of its stack, written back if it is dirty (R397). -/
def State.loseNode (s : State) (sl level num : Nat) : State :=
  let st := sliceStack sl
  let mine (n : MetaNode) : Bool := n.slice == sl && n.level == level && n.num == num
  let held := tabGet [] s.metaCache st
  let s := (held.filter mine).foldl State.nodeLeaves s
  { s with metaCache := tabSet [] s.metaCache st (held.filter (fun n => !mine n)) }

/-- An upset or a replacement happens. -/
def State.suffer (s : State) : Upset → State
  | .pipeline gid unit => s.pipelineError gid unit
  | .baseUnit sl => s.baseError sl
  | .bsuUnit sl j => s.bsuError sl j
  | .fabricRetry => s.countShared 0
  | .register gid file num lane => s.modGroup gid (fun g => { g with poison := { file, num, lane } :: g.poison })
  | .spad tid off => s.modTroupe tid (fun t => { t with spadPoison := off :: t.spadPoison, spadOwn := off :: t.spadOwn })
  | .row pa => s.modRow pa (fun r => { r with uncorr := true })
  | .tag pa => s.modRow pa (fun r => { r with tagBad := true })
  | .tree sl level num =>
    if s.treeBad.contains (sl, level, num) then s else { s with treeBad := (sl, level, num) :: s.treeBad }
  | .replay pa counter =>
    if counter < s.rowCounter pa then s.modRow pa (fun r => { r with counter := counter - (s.slice (sliceOfPa pa)).lift }) else s
  | .evictNode sl level num => s.loseNode sl level num
  | .l2 pa => { s with l2 := tabModify s.l2 (sectorOf pa) (fun v => { v with poison := fullMask }) }
  | .corrected w => s.countIn w cCorrected
  | .evictL1 c k =>
    if s.canWriteBack c k then
      (s.writeBackL1 c k).modCore c (fun v => { v with l1 := tabDel v.l1 k })
    else s
  | .evictConst c k => s.modCore c (fun v => { v with ccache := tabDel v.ccache k })
  | .evictCode c k => s.modCore c (fun v => { v with icache := tabDel v.icache k })
  | .evictTlb c vpn => s.modCore c (fun v => { v with tlb := v.tlb.filter (fun e => e.vpn != vpn) })
  | .evictL2 k => if s.l2MayLeave k then s.flushL2 k else s
  | .evictTurn k => if s.turnFull k && s.turnMayLeave k then s.flushTurn k else s
  | .hostWrite a bytes => s.setHostBytes a bytes
  | .hostError a => { s with hostFails := a :: s.hostFails }
  | .seen gid aid lane die => s.seeEntry gid aid lane die
  | .ahead gid => s.modGroup gid (fun g => { g with ahead := some (s.troupe g.tid).spad })
  | .request gid aid lane => s.takeRequest gid aid lane
  | .firmware => { s with fwBad := true }

/-! ## Requests of the host (R401, R404) -/

/-- The world to whose register a request of the host goes: the window's, or world 0's for the management of worlds, keys and
firmware (R378). -/
def registerWorld : Instr → Option Nat
  | .doorbell w _ _ => some w
  | .lqcfg w _ _ => some w
  | .elcfg w _ => some w
  | .fqcfg w _ => some w
  | .freply w _ => some w
  | .fqhead w _ => some w
  | .counterReadLow w _ => some w
  | .registerWrite w _ _ => some w
  | .debugStop w => some w
  | .debugResume w => some w
  | .debugStep w _ => some w
  | .debugSelect w _ => some w
  | .rhctl w _ => some w
  | .generate .. => some 0
  | .loadwrap .. => some 0
  | .zeroise .. => some 0
  | .tepoch .. => some 0
  | .create _ => some 0
  | .destroy _ => some 0
  | .rectadd _ => some 0
  | .rectrem _ => some 0
  | .sliceadd _ => some 0
  | .slicerem _ => some 0
  | .migrate _ => some 0
  | .migdone _ => some 0
  | .l2set _ => some 0
  | .share _ => some 0
  | .param _ => some 0
  | .handle _ => some 0
  | .area _ => some 0
  | .tlbinv _ => some 0
  | .ifinv _ => some 0
  | .preempt _ => some 0
  | .resume _ => some 0
  | .endlaunch _ => some 0
  | .expose _ => some 0
  | .aperture _ => some 0
  | .commset _ => some 0
  | .walk _ => some 0
  | .stage => some 0
  | .clear => some 0
  | _ => none

/-- Does an event or command of the opcode table take place: after a boot that failed the host port presents no function, so
that only a reset does (R401)? -/
def State.delivers (s : State) (i : Instr) : Bool :=
  s.booted || decide (i = .moduleReset) || decide (i = .thermalCritical)

/-- Is a request to a register, with the TDISP trusted attribute, accepted (R404)? -/
def State.takesTrusted (s : State) (i : Instr) : Bool :=
  s.delivers i && (registerWorld i).any (fun w => s.trustedOk w)

/-- An item of the agenda other than an instruction happens. -/
def State.happen (s : State) : Item → State
  | .issue _ _ => s
  | .rotate _ _ => s
  | .act _ => s
  | .trusted _ => s
  | .tick n => s.pass n
  | .upset u => s.suffer u
  | .move gid p seq lo n => s.moveSome gid p seq lo n
  | .finish => s.finishCmd.finishKey

/-! ## The end of a step -/

/-- An error-log entry could not be written: it is dropped (R439). -/
def State.loseEntry (s : State) (w : Nat) (failed : Bool) : State :=
  s.modWorld w (fun v => { v with ellost := v.ellost + 1, el := if failed then { v.el with err := true } else v.el })

/-- One error-log entry is written to its ring, or dropped (R387, R439); none while its bank is held (R244). -/
def State.writeEntry (s : State) (w : Nat) (l : List Byte) : Option State :=
  let v := s.world w
  let r := v.el
  let at_ := r.base + 64 * (r.tail.toNat % r.size)
  let past (s : State) : State := s.modWorld w (fun v => { v with el := { v.el with tail := v.el.tail + 1 } })
  if !v.present then some s
  else if !r.en || r.err || decide (r.size ≤ r.held) then some (s.loseEntry w false)
  else if v.assisted 7 then
    some (if s.hostFails.contains at_ then (s.hostFailed at_).loseEntry w true else past (s.setHostBytes at_ l))
  else
    match s.xlateLaunch w at_ .write with
    | (s, .ok pa _ _) =>
      if deviceBytes ≤ pa then some (past s)
      else if s.homeBusy w pa true then none
      else some (past (s.homeWriteAll w pa l false))
    | (_, .busy) => none
    | (s, _) => some (s.loseEntry w true)

/-- Entries that wait are written in their order; each world's stay in order when one cannot be written yet. -/
def State.writeLog (s : State) : State :=
  s.logPend.foldl (fun s p =>
    if s.logPend.any (fun q => q.1 == p.1) then { s with logPend := s.logPend ++ [p] }
    else
      match s.writeEntry p.1 p.2 with
      | some s => s
      | none => { s with logPend := s.logPend ++ [p] }) { s with logPend := [] }

/-- The end of a step that began in `before`; `i` is the instruction that a stream issued in it. -/
def State.endStep (before : State) (i : Option Instr) (s : State) : State :=
  let s := s.settleTrace before i
  let s := (s.worlds.map (·.1)).foldl State.settleStep s
  s.settleEnded.writeRecords.writeLog

end Sys2Proof.Machine
end

