-- ==== Sys2Proof/Machine/Place.lean ====
section
/-! DEFINITION. Placing one instruction so that the next step fetches and runs it: what loading a program from outside
the machine comes to (the launch of spec/10_scheduling.md and spec/19_host.md, done at once), for probing the
model. Nothing of the machine's own behaviour is here. -/

namespace Sys2Proof.Machine

/-- The world, core and slice that the placed program uses. -/
def placeWorld : Nat := 1
/-- Virtual and physical address of the kernel object's page. -/
def placeObj : Nat := 0x10000
/-- Where `.scode` lies in the object. -/
def placeScode : Nat := 0
/-- Where `.lcode` lies in the object. -/
def placeLcode : Nat := 0x8000
/-- Physical address of the level-3 table; the lower tables follow it. -/
def placeRoot : Nat := 0x100000

/-- The header of the placed kernel: 16 lanes, every register and predicate. -/
def placeHeader : Header :=
  { noHeader with
    w := 16
    r := 384
    p := 96
    spad := 1
    scodeOff := placeScode
    scodeSize := 0x8000
    lcodeOff := placeLcode
    lcodeSize := 0x6000
    constOff := 0xe000
    constSize := 0x1000 }

/-- The launch of the placed kernel. -/
def placeLaunch : Launch :=
  { noLaunch with
    world := placeWorld
    obj := placeObj
    rw := 1
    rh := 1
    rz := 1
    hdr := some placeHeader
    placed := true
    past := false
    ended := false }

/-- World 1, with slice 0, core (0, 0) and page tables. -/
def placeWorldState : World :=
  { present := true
    rects := [{ x := 0, y := 0, w := 1, h := 1 }]
    slices := [0]
    keyid := some 1
    handles := resetHandles
    areas := [(4, some { base := placeRoot, bytes := 4096 })] }

/-- Does an address lie outside slice 0? -/
def outside (pa : Nat) : Bool := decide (sliceBytes ≤ pa)

/-- A device in which world 1 owns slice 0 and core (0, 0), with tables that map the object's page, as the placed
program needs it; the rest of the device stays. -/
def State.placeDevice (s : State) : State :=
  let entry (a : Nat) (bits : Nat) : List Byte := natBytes 8 (a + bits)
  let l2 := placeRoot + 0x1000
  let l1 := placeRoot + 0x2000
  let l0 := placeRoot + 0x20000
  let s :=
    { s with
      cur := .none
      agenda := []
      worlds := tabPut s.worlds placeWorld placeWorldState
      slices := tabPut s.slices 0 { owner := some placeWorld }
      keys := tabPut s.keys 1 { world := placeWorld, gen := 0, skey := 0, mkey := 0, tsec := 0 }
      cores := tabPut s.cores 0 { owner := some placeWorld }
      dieTlb := tabDel s.dieTlb 0
      rows := s.rows.filter (fun p => outside (1024 * p.1))
      treeBad := s.treeBad.filter (fun p => p.1 != 0)
      treeFailed := s.treeFailed.filter (fun p => p.1 != 0)
      metaCache := s.metaCache.map (fun (p : Nat × List MetaNode) => (p.1, p.2.filter (fun n => n.slice != 0)))
      l2 := s.l2.filter (fun p => outside (64 * p.1))
      turn := s.turn.filter (fun p => outside (64 * p.1))
      homePoison := s.homePoison.filter outside }
  let s := s.setMemBytes placeRoot (entry l2 1)
  let s := s.setMemBytes l2 (entry l1 1)
  let s := s.setMemBytes l1 (entry l0 1)
  s.setMemBytes (l0 + 8) (entry placeObj 15)

/-- The launch, the troupe of one group, and the group of the placed program, at its first instruction. -/
def State.placeGroup (s : State) (runs : List Run) : State :=
  let t := s.nextTid
  { s with
    launches := tabPut s.launches s.nextLid placeLaunch
    nextLid := s.nextLid + 1
    troupes := tabPut s.troupes t { lid := s.nextLid, x := 0, y := 0, z := 0, core := 0, resident := true }
    nextTid := t + 1
    groups := tabPut s.groups (16 * t)
      { tid := t, grpid := 0, w := 16, r := 384, p := 96, quarter := 0, pc := placeObj + placeScode,
        exm := allLanes 16, dither := 0, laneq := runs,
        oldlane := (List.range 16).foldl (fun l k => tabSet 0 l k (BitVec.ofNat 32 k)) [] }
    cur := .group (16 * t)
    curLane := !runs.isEmpty }

/-- The base-die core of slice 0, running a microkernel whose code store holds the word; `lane` when the word belongs
to a bank run. -/
def State.placeBdc (s : State) (lane : Bool) (bytes : List Byte) : State :=
  let store : Tab Byte := (indexed bytes).foldl (fun t p => tabSet 0 t p.1 p.2) []
  let s :=
    { s with
      launches := tabPut s.launches s.nextLid { placeLaunch with micro := true }
      nextLid := s.nextLid + 1
      cur := .bdc 0
      curLane := lane }
  s.modBdc 0 (fun _ =>
    { lid := some (s.nextLid - 1)
      pc := placeObj
      scodeBase := placeObj
      scode := if lane then [] else store
      scodeSize := 0x8000
      lcodeBase := placeObj + placeLcode
      lcode := if lane then store else []
      lcodeSize := 0x6000
      brun := if lane then some { dest := 0, mask := 1, rbase := 0, lbase := 0, fmt := 0, next := 0 } else none
      wait := if lane then some .brun else none })

/-- The run whose first word is the placed lane word. -/
def placeRun : Run := { next := 0, exm := allLanes 16, fmt := 0, svals := [], slice := some 0 }

/-- Place a scalar word. -/
def State.placeScalar (s : State) (w : Nat) : State :=
  let bytes := bytes32 (BitVec.ofNat 32 w)
  let op := w / 2 ^ 25 % 128
  if op = 0x50 ∨ op = 0x51 ∨ op = 0x52 then s.placeDevice.placeBdc false bytes
  else (s.placeDevice.setMemBytes (placeObj + placeScode) bytes).placeGroup []

/-- Place a lane word. -/
def State.placeLane (s : State) (w : Nat) : State :=
  let bytes := bytes96 (BitVec.ofNat 96 w)
  let op := w / 2 ^ 86 % 1024
  if 0x3c0 ≤ op ∧ op ≤ 0x3cd then s.placeDevice.placeBdc true bytes
  else (s.placeDevice.setMemBytes (placeObj + placeLcode) bytes).placeGroup [placeRun]

end Sys2Proof.Machine
end

