-- ==== Sys2Proof/Machine/Step.lean ====
section
/-! DEFINITION. One step of the machine: the first item of the agenda, or else the stream that is executing issues its
next word. An event that does not take place, and a request that is refused, change nothing. -/

namespace Sys2Proof.Machine

/-- A step's outcome, with what every step does last. -/
def settle (before : State) (i : Option Instr) (o : Out) : Out :=
  match o with
  | .next s => .next (before.endStep i s)
  | .fault r => .fault r
  | .refused r => .refused r

/-- A stream issues an instruction, unless a rehearsal delays it first (R428). -/
def issueWord (i : Instr) (s : State) : Out :=
  match s.rehearse i with
  | some t => settle s none (.next t)
  | none => settle s (some i) (exec i s)

/-- The stream that is executing issues its next word. -/
def stepStream (s : State) : Out :=
  match s.nextOf s.cur s.curLane with
  | (t, .run i) => issueWord i t
  | (t, .idle) => settle s none (.next t)

/-- A quarter's scalar unit has a cycle that its executing stream asks for (R269): it issues for the group whose turn it is. A
stream whose word cannot issue meets what holds it instead. -/
def State.offered (s : State) : State :=
  match s.cur, s.curLane with
  | .group gid, false =>
    let c := s.ctxOf gid
    if s.scalarCan c then
      match s.scalarTurn (s.coreOf c) (s.group c).quarter with
      | some k => { s.turnTaken k with cur := .group k }
      | none => s
    else s
  | _, _ => s

/-- One step of the machine. -/
def step (s : State) : Host.Outcome State Fault Refusal :=
  match s.agenda with
  | [] => stepStream s.offered
  | .issue a lane :: rest => stepStream ({ s with agenda := rest, cur := a, curLane := lane } : State).offered
  | .rotate core quarter :: rest =>
    match s.scalarTurn core quarter with
    | some gid => stepStream { (s.turnTaken gid) with agenda := rest, cur := .group gid, curLane := false }
    | none => settle s none (.next { s with agenda := rest })
  | .act i :: rest =>
    settle s none (if s.delivers i then exec i { s with agenda := rest } else .next { s with agenda := rest })
  | .trusted i :: rest =>
    settle s none (if s.takesTrusted i then exec i { s with agenda := rest } else .next ({ s with agenda := rest, bus := 0 }))
  | it :: rest => settle s none (.next (({ s with agenda := rest } : State).happen it))

/-- The state with an instruction placed where the next step fetches it: `nbits` is 32 for a scalar word, 96 for a
lane word. -/
def State.withFetchWord (s : State) (nbits w : Nat) : State :=
  if nbits = 96 then s.placeLane w else s.placeScalar w

end Sys2Proof.Machine
end

