-- ==== Sys2Proof/Safety.lean ====
section
/-! DEFINITION. The terms in which the statements speak: when memory is canonical, when a word can take its effect now,
and which parts of the device two states may differ in. -/

namespace Sys2Proof.Machine

/-- Device memory is in canonical form. -/
abbrev State.memOk (s : State) : Prop := Memory.wf s.mem = true

/-- A run is safe so far: no fault and no refusal has ended it. -/
def runsSafely (n : Nat) (s : State) : Prop := ∃ t, Sys2Proof.core.run n s = .next t

/-- A step of `s` is the execution of the word `i` in `t`, the state after its fetch, and then what ends every step. -/
def State.runsWord (s t : State) (i : Instr) : Prop :=
  (∀ u, exec i t = .next u → step s = .next (t.endStep (some i) u)) ∧
    (∀ r, exec i t = .fault r → step s = .fault r) ∧ ∀ r, exec i t = .refused r → step s = .refused r

/-! ## Scalar words -/

/-- The scalar word `i`, of a form for the cores `k`, takes its effect now in the stream `a` (R55, R96, R103, R116,
R340): the stream is the one that executes, the form is one of its core's, no reserved field is set, every register
that the word names has arrived, and none that it reads is poisoned. -/
def State.scalarGo (s : State) (a : Agent) (k : Kinds) (i : Instr) : Prop :=
  s.running = some a ∧ k.allow a = true ∧ fieldOk i = true ∧
    ∀ gid, a = .group gid → s.live gid = true ∧ s.scalarHeld gid i = none

/-- Two states differ in nothing but the scalar registers of a stream, with their poison, its PC and its wait. -/
def State.sameButContext (s t : State) (a : Agent) : Prop :=
  match a with
  | .none => t = s
  | .group gid =>
    t = s.modGroup gid (fun g =>
      { g with
        sregs := (t.group gid).sregs
        poison := (t.group gid).poison
        pc := (t.group gid).pc
        wait := (t.group gid).wait })
  | .bdc sl =>
    t = s.modBdc sl (fun c =>
      { c with
        sregs := (t.bdc sl).sregs
        pc := (t.bdc sl).pc
        wait := (t.bdc sl).wait })

/-- `t` is `s` after a scalar word has written `v` to s`d` and gone on: s0 takes no value (R37), every other register
keeps its own, the PC is the next word's, no byte of memory differs, and nothing else of the device does. -/
def State.wrote (s t : State) (a : Agent) (d : SReg) (v : Word64) : Prop :=
  (∀ r : SReg, t.sreg a r.toNat = if r = d ∧ r ≠ 0 then v else s.sreg a r.toNat) ∧
    t.pcOf a = (s.pcOf a + 4) % 2 ^ 64 ∧ (∀ pa, t.memByte pa = s.memByte pa) ∧ s.sameButContext t a

/-- `t` is `s` with the stream's PC at `pc`: no register, no byte of memory and nothing else differs. -/
def State.went (s t : State) (a : Agent) (pc : Nat) : Prop :=
  (∀ r : SReg, t.sreg a r.toNat = s.sreg a r.toNat) ∧ t.pcOf a = pc ∧ (∀ pa, t.memByte pa = s.memByte pa) ∧
    s.sameButContext t a

/-- The address `n` words on from a PC, modulo 2^64 (R83). -/
def wordsFrom (pc : Nat) (n : Int) : Nat := (((pc : Int) + 4 * n) % 2 ^ 64).toNat

/-- Wherever the scalar word `i` takes its effect, the stream goes to the PC that `f` gives, and nothing else happens. -/
def goesTo (i : Instr) (f : State → Agent → Nat) : Prop :=
  ∀ s a, s.scalarGo a .both i → ∃ t, exec i s = .next t ∧ s.went t a (f s a)

/-- A translation of a group's access that ends at once in a page of its world: physical address, W of the page. -/
def State.hits (s : State) (gid va : Nat) (k : AccKind) (pa : Nat) (w : Bool) : Prop :=
  ∃ x, s.xlateHit (s.coreOf gid) (s.worldOf gid) va k = some (.ok pa w x)

/-- A group can issue one more access on a path: its counter is below 63 (R53), and the number that the access gets is
no outstanding one's. -/
def Group.room (g : Group) (p : Path) : Prop := g.count p < 63 ∧ ∀ b ∈ g.accs, b.aid ≠ g.nextAid

/-- `t` is `s` in which the scalar stream of a group has issued an access and gone on: the access is outstanding with
the next number, its path's counter is one higher, the PC is the next word's, and nothing else differs. -/
def State.issuedScalar (s t : State) (gid : Nat) (a : Access) : Prop :=
  t = s.modGroup gid (fun g =>
    { g with
      accs := g.accs ++ [g.stamp a]
      nextAid := g.nextAid + 1
      ifc := tabSet 0 g.ifc (pathCode a.path) (g.count a.path + 1)
      pc := wordsFrom g.pc 1
      wait := none })

/-- Every row of a block of the scratchpad ends within its `bound` bytes (R219, R225). -/
def rowsWithin (bound start rowb rows pitch : Nat) : Prop := rowb = 0 ∨ ∀ r, r < rows → start + r * pitch + rowb ≤ bound

/-- `t` is `s` in which a group has issued an engine command (R216): the command stands last in the group's engine
queue with the next sequence number of its path and the operands as they were, the path's counter and the guard's count
are one higher, the PC is the next word's; registers, lanes, memory and other groups are unchanged. -/
def State.issuedCmd (s t : State) (gid : Nat) (p : Path) (op : CmdOp) (d a b f : Word64) (k : Option (BitVec 3)) :
    Prop :=
  (∃ c : Cmd, (t.group gid).engq = (s.group gid).engq ++ [c] ∧ c.path = p ∧
    c.seq = tabGet 0 (s.group gid).seqs (pathCode p) ∧ c.op = op ∧ c.d = d ∧ c.a = a ∧ c.b = b ∧ c.f = f ∧
    c.guard = k.map BitVec.toNat ∧ c.started = false ∧ c.past = false) ∧
  (∀ q, (t.group gid).count q = (s.group gid).count q + (if q = p then 1 else 0)) ∧
  (∀ j : BitVec 3, (t.guard gid j.toNat).count = (s.guard gid j.toNat).count + (if k = some j then 1 else 0)) ∧
  t.group gid =
    { s.group gid with
      engq := (t.group gid).engq
      seqs := (t.group gid).seqs
      ifc := (t.group gid).ifc
      guards := (t.group gid).guards
      pc := wordsFrom (s.group gid).pc 1
      wait := none } ∧
  (∀ j, j ≠ gid → t.group j = s.group j) ∧ ∀ pa, t.memByte pa = s.memByte pa

/-- An engine command can enter its queue: room in the counter of its path and in the count of its guard, and no take
of the troupe stands before it (R38, R53, R337). -/
def State.cmdRoom (s : State) (gid : Nat) (p : Path) (k : Option (BitVec 3)) (forces : Bool) : Prop :=
  (s.group gid).count p < 63 ∧ (∀ j, k = some j → (s.guard gid j.toNat).count < 15) ∧
    (forces = true → s.needsTake gid = false)

/-- Wherever the scalar word `i` takes its effect, `f` is written to s`d` and the stream goes on. -/
def writesSreg (i : Instr) (d : SReg) (f : State → Agent → Word64) : Prop :=
  ∀ s a, s.scalarGo a .both i → ∃ t, exec i s = .next t ∧ s.wrote t a d (f s a)

/-! ## Lane words -/

/-- A lane word that may end its run (`e`) passes the checks of issue in the group `gid` (R94, R103): the group is the
one that executes, no reserved field is set, the run is not too long, and no operand is illegal. -/
def State.laneIssues (s : State) (gid : Nat) (i : Instr) (e : Bool) : Prop :=
  let g := s.group gid
  s.cur = .group gid ∧ s.live gid = true ∧ fieldOk i = true ∧
    (e = true ∨ g.headRun.counted + 1 < 24 ∨ g.headRun.rep ≠ none) ∧ operandFault g.r g.p g.w i = none

/-- No register that a lane word names is still to be written, and no scalar value that it reads is still to arrive
(R118, R159). -/
def State.laneFree (s : State) (gid : Nat) (i : Instr) : Prop :=
  (s.group gid).vregPending i = none ∧ s.svalPending gid i = none ∧ s.arrayPending gid i = false

/-- The lane word `i` takes its effect now in the group `gid` (R103, R154, R159, R317, R318, R340): it passes its
checks, executes, waits for no register, the queues it names are the group's and are ready, and it reads no poison. -/
def State.laneGo (s : State) (gid : Nat) (i : Instr) (h : LaneHead) : Prop :=
  let g := s.group gid
  s.laneIssues gid i h.e ∧ g.executes h = true ∧ s.laneFree gid i ∧ s.queueMisuse gid i (g.pushes h) = none ∧
    s.queueWait gid i (g.pushes h) = none ∧ ∀ l, g.hurtIn i l = none

/-- What the lane word `i` reads in the group `gid`. -/
def State.wordEnv (s : State) (gid : Nat) (i : Instr) : LaneEnv := s.laneEnv gid (s.peekQueues gid i)

/-- The lane from which lane `l` takes its value (R155, R156): a uniform word reads in its lowest lane. -/
def Group.from (g : Group) (h : LaneHead) (l : Nat) : Nat := if h.u then lowestLane g.w (g.laneSet h) else l

/-- Does lane `l` of a group take a result of the word (R155)? -/
def Group.takes (g : Group) (h : LaneHead) (l : Nat) : Bool := decide (l < g.w) && (g.laneSet h).getLsbD l

/-- The flags that a word raises (R48, R156): those of each lane that it acts on, or of the lane in which a uniform
word reads. -/
def Group.raised (g g' : Group) (h : LaneHead) (f : Nat → Word32) : Prop :=
  ∀ k, g'.fflags.getLsbD k =
    (g.fflags.getLsbD k || (flagLanes g.w h (g.laneSet h)).any (fun l => (f l).getLsbD k))

/-- `t` is `s` after the effect of a lane word of the group `gid` but for the group's vector registers, predicates,
flags, DITHER, latch and poison, for its troupe's queues, of which those that the word pops have lost their oldest entry
(R158), and, of a word that names a queue as its destination, for the group's stores: nothing else differs, and no byte of
memory. -/
def State.laneFrame (s t : State) (gid : Nat) (i : Instr) : Prop :=
  (∀ q, tabGet [] (t.troupe (s.group gid).tid).queues q =
    (tabGet [] (s.troupe (s.group gid).tid).queues q).drop (if (queueSources i).contains q then 1 else 0)) ∧
  (queueDest i = none → (t.group gid).accs = (s.group gid).accs ∧ (t.group gid).nextAid = (s.group gid).nextAid) ∧
  (∀ pa, t.memByte pa = s.memByte pa) ∧
  t = { ((s.modTroupe (s.group gid).tid (fun r =>
          { r with queues := (t.troupe (s.group gid).tid).queues })).modGroup gid (fun g =>
          { g with
            vregs := (t.group gid).vregs
            preds := (t.group gid).preds
            fflags := (t.group gid).fflags
            dither := (t.group gid).dither
            latch := (t.group gid).latch
            poison := (t.group gid).poison
            accs := (t.group gid).accs
            nextAid := (t.group gid).nextAid })) with free := t.free }

/-- The store of an entry to a queue, as its group issues it (R158, R282): on the LS path, in the order of its stores, and
without a count. -/
def State.pushOf (s : State) (gid q : Nat) (entry : Tab Word32) (k : Nat) : Access :=
  (s.group gid).stamp
    { aid := (s.group gid).nextAid, path := .ls, op := .store, space := .queue q, size := 4, scope := .core,
      lanes := [{ lane := 64, addr := k, stage := .ready, entry }], dest := .none, pc := s.headAddr gid, laneWord := true,
      silent := true }

/-- `t` is `s` after the lane word `i` has written one 32-bit value a lane (R155, R156, R158): `f` gives it, with its
flags, for the lane it is read in and the old value of the destination. A vector register takes it in the lanes of the
word and keeps its others; for a queue one entry is issued as a store to it, without the helper lanes unless the word is
uniform. -/
def State.laneWrote (s t : State) (gid : Nat) (i : Instr) (h : LaneHead)
    (f : LaneEnv → Nat → Word32 → Word32 × Word32) : Prop :=
  let g := s.group gid
  let g' := t.group gid
  let e := s.wordEnv gid i
  (∀ r l, l < 64 → g'.vr r l =
    if r = h.vd.toNat ∧ r < 384 ∧ g.takes h l then (f e (g.from h l) (g.vr r l)).1 else g.vr r l) ∧
  (∀ q, queueDest i = some q → ∃ (old : Word32) (k : Nat),
    g'.accs = g.accs ++
      (if g.pushes h then
        [s.pushOf gid q ((lanesOf g.w (if h.u then g.laneSet h else g.laneSet h &&& ~~~g.helpm)).foldl
          (fun m l => tabSet 0 m l (f e (g.from h l) old).1) []) k]
      else []) ∧
    g'.nextAid = g.nextAid + (if g.pushes h then 1 else 0)) ∧
  g.raised g' h (fun l => (f e l (g.vr h.vd.toNat l)).2) ∧
  g'.dither = g.dither + (if roundsRm5 g.headRun.fmt i = true ∧ fmtSrsel g.headRun.fmt ≠ 2 then 1 else 0) ∧
  g'.preds = g.preds ∧ s.laneFrame t gid i

/-- `t` is `s` after the lane word `i` has written the predicates that `outs` lists (R155, R156, R170, R177). -/
def State.laneJudged (s t : State) (gid : Nat) (i : Instr) (h : LaneHead)
    (outs : LaneEnv → List (Nat × (Nat → Bool × Word32))) : Prop :=
  let g := s.group gid
  let g' := t.group gid
  let e := s.wordEnv gid i
  (∀ k l, l < g.w → (g'.pr k).getLsbD l =
    match (outs e).find? (fun o => o.1 == k) with
    | some o => if (g.laneSet h).getLsbD l then (o.2 (g.from h l)).1 else (g.pr k).getLsbD l
    | none => (g.pr k).getLsbD l) ∧
  (∀ r l, g'.vr r l = g.vr r l) ∧
  g.raised g' h (fun l => (outs e).foldl (fun acc o => acc ||| (o.2 l).2) 0) ∧ g'.dither = g.dither ∧
  s.laneFrame t gid i

/-- `t` is `s` after the lane word `i` has written consecutive vector registers from VD on, in its lanes. -/
def State.laneSpanned (s t : State) (gid : Nat) (i : Instr) (h : LaneHead) (n : Nat)
    (f : LaneEnv → Nat → Nat → Word32) : Prop :=
  let g := s.group gid
  let g' := t.group gid
  (∀ r l, l < 64 → g'.vr r l =
    if h.vd.toNat ≤ r ∧ r < h.vd.toNat + n ∧ g.takes h l then f (s.wordEnv gid i) (g.from h l) (r - h.vd.toNat)
    else g.vr r l) ∧
  g'.preds = g.preds ∧ g'.fflags = g.fflags ∧ g'.dither = g.dither ∧ s.laneFrame t gid i

/-- Wherever the lane word `i` takes its effect, it writes `f` to its destination and its run goes on. -/
def writesLane (i : Instr) (h : LaneHead) (f : LaneEnv → Nat → Word32 → Word32 × Word32) : Prop :=
  ∀ s gid, s.laneGo gid i h → ∃ t, exec i s = .next (t.laneDone gid h.e) ∧ s.laneWrote t gid i h f

/-- Wherever the lane word `i` takes its effect, it writes the predicates of `outs` and its run goes on. -/
def writesPreds (i : Instr) (h : LaneHead) (outs : LaneEnv → List (Nat × (Nat → Bool × Word32))) : Prop :=
  ∀ s gid, s.laneGo gid i h → ∃ t, exec i s = .next (t.laneDone gid h.e) ∧ s.laneJudged t gid i h outs

/-- Wherever the lane word `i` takes its effect, it writes `n` registers of each lane by `f` and its run goes on. -/
def writesSpan (i : Instr) (h : LaneHead) (n : Nat) (f : LaneEnv → Nat → Nat → Word32) : Prop :=
  ∀ s gid, s.laneGo gid i h → ∃ t, exec i s = .next (t.laneDone gid h.e) ∧ s.laneSpanned t gid i h n f

/-- The parts of a memory word (R156, R157, R190): each lane of its set, or one part for a uniform word; helper lanes
only when `helpers` says so. A part is the lane that is accessed for, 64 for a uniform word, and the lane read in. -/
def Group.parts (g : Group) (h : LaneHead) (helpers : Bool) : List (Nat × Nat) :=
  if h.u then [(64, lowestLane g.w (g.laneSet h))]
  else ((lanesOf g.w (g.laneSet h)).filter (fun l => helpers || !g.helpm.getLsbD l)).map (fun l => (l, l))

/-- `t` is `u` after a memory word of the group has issued the access `a`, whose translation has ended: the access is
outstanding, its path's counter is one higher, and the run goes on. Nothing else differs. -/
def State.issuedLane (u t : State) (gid : Nat) (a : Access) : Prop :=
  t = (u.modGroup gid (fun g =>
    { g with
      accs := g.accs ++ [g.stamp a]
      nextAid := g.nextAid + 1
      ifc := tabSet 0 g.ifc (pathCode a.path) (g.count a.path + 1) })).laneDone gid a.e

/-- The access that the memory word `i` makes. -/
def State.wordAccess (s : State) (gid : Nat) (h : LaneHead) (p : Path) (op : AccOp) (sp : Space) (size : Nat)
    (sc : Scope) (d : Dest) (lanes : List LaneAcc) : Access :=
  { aid := (s.group gid).nextAid, path := p, op := op, space := sp, size := size, scope := sc, lanes := lanes, dest := d,
    wmask := (s.group gid).laneSet h, uniform := h.u, pc := s.headAddr gid, laneWord := true, e := h.e,
    run := if h.u then (s.group gid).laneq.head? else none }

/-- The parts in which an access of `n` bytes of one lane is performed (R192): one, or of 16 bytes the two halves. `f`
gives the part at a byte of it. -/
def accessParts (n : Nat) (f : Nat → LaneAcc) : List LaneAcc :=
  if n ≤ 8 then [f 0] else [f 0, { f 8 with lane := (f 8).lane + 128 }]

/-- Where the virtual addresses of a word's parts lie: each translation ends at once, at `pa` in a page with W as `w`
says. -/
def State.allHits (s : State) (gid : Nat) (ps : List (Nat × Nat)) (k : AccKind) (addr pa : Nat → Nat) (w : Nat → Bool) :
    Prop :=
  ∀ p ∈ ps, s.hits gid (addr p.2) k (pa p.2) (w p.2)

/-! ## Matrix words -/

/-- `t` is `s` after `MGUIDE` has guided a pair (R210): in the lanes active in both halves, `count` registers from VD on
of each half hold the guided values of the registers as they were; nothing else but the flags differs. -/
def State.guided (s t : State) (lead : Nat) (r : Rendezvous) : Prop :=
  let a := s.group lead
  let b := s.group (lead + 1)
  let set := a.runActive &&& b.runActive
  (∀ j x l, (j = lead ∨ j = lead + 1) → l < 64 → (t.group j).vr x l =
    if r.vd ≤ x ∧ x < r.vd + r.count ∧ l < a.w ∧ set.getLsbD l = true then
      BitVec.ofNat 32 (guideVal a.headRun.fmt r.s.toNat (a.vr (r.va + (x - r.vd)) l).toNat
        (b.vr (r.vb + (x - r.vd)) l).toNat).1
    else (s.group j).vr x l) ∧
  (∀ j, (j = lead ∨ j = lead + 1) → t.group j =
    { s.group j with
      vregs := (t.group j).vregs
      fflags := (t.group j).fflags
      latch := (t.group j).latch
      poison := (t.group j).poison }) ∧
  (∀ j, j ≠ lead → j ≠ lead + 1 → t.group j = s.group j) ∧ t = { s with groups := t.groups }

/-- A matrix word of the halves `hs` passes its checks up to those of its tile (R205): no register that it names is
still to be written, and its classes, formats and layout are legal. -/
def State.matReady (s : State) (gid : Nat) (hs : List Nat) (i : Instr) (h : LaneHead) (m : MmaMode) (acls : ACls)
    (n : Nat) : Prop :=
  let e := s.laneEnv gid []
  (∀ k ∈ hs, s.live k = true ∧ s.laneFree k i) ∧
    s.matCause hs m acls n ((e.s64 h.vb).toNat % 2 ^ 32) ((e.s64 h.vc).toNat % 2 ^ 32) = none

/-- `t` is `s` after a matrix form of the halves `hs` has issued (R204, R206): the quarter's term array holds it with the
rows of each half as its registers stand, the MTX counters are one higher, and the latch is as K says. -/
def State.matIssued (s t : State) (gid : Nat) (hs : List Nat) (h : LaneHead) (acls : ACls) (n : Nat) (f : ArrayForm) :
    Prop :=
  let e := s.laneEnv gid []
  t.arrayOf (s.coreOf gid) (s.group gid).quarter = some f ∧
  f.vd = h.vd.toNat ∧ f.n = n ∧ f.acls = acls ∧ f.baddr = (e.s64 h.vb).toNat % 2 ^ 32 ∧
  f.layout = (e.s64 h.vc).toNat % 2 ^ 32 ∧ f.reads = false ∧ f.rows.map (·.gid) = hs ∧
  (∀ r ∈ f.rows, r.active = (s.group r.gid).runActive ∧ r.fmt = (s.group r.gid).headRun.fmt ∧
    ∀ l, l < (s.group r.gid).w → l < 64 → (s.group r.gid).runActive.getLsbD l = true →
      (∀ c, c < n → tabGet 0 r.c (64 * c + l) = (s.group r.gid).vr (h.vd.toNat + c) l) ∧
      ∀ c, c ≤ aRegs acls → tabGet 0 r.a (64 * c + l) = (s.group r.gid).vr (h.va.toNat + c) l) ∧
  (∀ k ∈ hs, t.group k =
    { s.group k with
      latch := if h.k then some { base := h.va.toNat, cls := acls } else none
      ifc := tabSet 0 (s.group k).ifc (pathCode .mtx) ((s.group k).count .mtx + 1) }) ∧
  (∀ k, k ∉ hs → t.group k = s.group k) ∧
  (∀ c q, (c ≠ s.coreOf gid ∨ q ≠ (s.group gid).quarter) → t.arrayOf c q = s.arrayOf c q) ∧
  t = { s with groups := t.groups, cores := t.cores }

/-! ## Bank words -/

/-- The bank word `i` of the run `b` takes its effect now in slice `sl` (R94, R100, R247, R248): the run is in progress
there, some BSU of it has not stopped, and the word passes its checks. -/
def State.bankGo (s : State) (sl : Nat) (b : BankRun) (i : Instr) (h : LaneHead) : Prop :=
  s.cur = .bdc sl ∧ (s.bdc sl).brun = some b ∧ b.going ≠ [] ∧ fieldOk i = true ∧ (h.e = true ∨ b.counted + 1 < 24) ∧
    operandFault 384 96 64 i = none

/-- A byte of register `r` of a BSU (R243). -/
def Bsu.byte (u : Bsu) (r k : Nat) : Byte := tabGet 0 u.regs (1024 * r + k)

/-- `t` is `s` but for the BSUs of slice `sl` and its run in progress. -/
def State.bankFrame (s t : State) (sl : Nat) : Prop :=
  t = s.modSlice sl (fun v =>
    { v with
      bsus := (t.slice sl).bsus
      core := { v.core with brun := (t.bdc sl).brun } })

/-- `t` is `s` after a bank word has written register VD of every BSU of the run by `f`, which gives its first bytes and
the flags (R250): rows, other registers and BSUs, memory and the local store are unchanged. -/
def State.bankWrote (s t : State) (sl : Nat) (b : BankRun) (h : LaneHead) (f : Bsu → List Byte × Word32) : Prop :=
  (∀ j r k, k < 1024 → (t.bsu sl j).byte r k =
    if j ∈ b.going ∧ r = h.vd.toNat then ((f (s.bsu sl j)).1[k]?).getD ((s.bsu sl j).byte r k) else (s.bsu sl j).byte r k) ∧
  (∀ j, t.bsu sl j = { s.bsu sl j with regs := (t.bsu sl j).regs }) ∧
  (∃ b' : BankRun, (t.bdc sl).brun = some b' ∧ b' = { b with flags := b'.flags } ∧
    ∀ k, b'.flags.testBit k = (b.flags.testBit k || b.going.any (fun j => (f (s.bsu sl j)).2.getLsbD k))) ∧
  s.bankFrame t sl

/-- Wherever the bank word `i` takes its effect, it writes `f` to register VD of every BSU of the run. -/
def bankWrites (i : Instr) (h : LaneHead) (f : BankRun → State → Nat → Bsu → List Byte × Word32) : Prop :=
  ∀ s sl b, s.bankGo sl b i h → ∃ t, exec i s = .next (t.bankDone sl h.e) ∧ s.bankWrote t sl b h (f b s sl)

/-! ## What arrives for an access -/

/-- The lanes to which the value for one part of an access goes (R156): its own, or those of a uniform word. -/
def Access.gets (a : Access) (g : Group) (l : LaneAcc) (x : Nat) : Bool :=
  if l.lane < 64 then x == l.lane else decide (x < g.w) && a.wmask.getLsbD x

/-- `t` is `u` after the only part of the only access of a group outside a pair has been performed (R53, R116, R191):
the access is no longer outstanding, its path's counter is one lower, and `ws` are in its destination registers; what
runs have copied of a scalar register, and the group's note of what its loads took, aside, nothing else differs. -/
def State.arrived (u t : State) (gid : Nat) (a : Access) (l : LaneAcc) (ws : List Word32) : Prop :=
  (t.group gid).accs = [] ∧
  (∀ q, (t.group gid).count q = (u.group gid).count q - (if q = a.path ∧ a.silent = false then 1 else 0)) ∧
  (∀ r x, x < 64 → (t.group gid).vr r x =
    match a.dest with
    | .vreg base n =>
      if a.gets (u.group gid) l x = true ∧ base ≤ r ∧ r < base + min n ws.length then ws.getD (r - base) 0
      else (u.group gid).vr r x
    | _ => (u.group gid).vr r x) ∧
  (∀ r, t.sreg (.group gid) r =
    match a.dest with
    | .sreg d =>
      if r = d ∧ r ≠ 0 then BitVec.ofNat 64 ((ws.getD 0 0).toNat + 2 ^ 32 * (ws.getD 1 0).toNat)
      else u.sreg (.group gid) r
    | _ => u.sreg (.group gid) r) ∧
  t.group gid =
    { u.group gid with
      accs := []
      ifc := (t.group gid).ifc
      vregs := (t.group gid).vregs
      sregs := (t.group gid).sregs
      poison := (t.group gid).poison
      latch := (t.group gid).latch
      laneq := (t.group gid).laneq
      took := (t.group gid).took } ∧
  (∀ k, k ≠ gid → t.group k = u.group k) ∧ t = { u with groups := t.groups }

/-- What loads of a group took from its core has been performed at a scope, or lies dirty in the core's L1 in one of the
sectors `ks`, which a fence writes back (R292). -/
def State.tookGoes (s : State) (gid : Nat) (sc : Scope) (ks : List Nat) : Prop :=
  scopeRank sc ≤ 1 ∨ ∀ x ∈ (s.group gid).took, s.tookPending (s.coreOf gid) sc x = true → ∃ k m, x = .dirty k m ∧ k ∈ ks

/-- The access `a` with its one part `l` is all that a group outside a pair has outstanding. -/
def State.soleAccess (s : State) (gid : Nat) (a : Access) (l : LaneAcc) : Prop :=
  s.live gid = true ∧ (s.group gid).twin = false ∧ (s.group gid).accs = [a] ∧ (s.group gid).engq = [] ∧
    a.past = false ∧ a.both = false ∧ a.lanes = [l] ∧ l.lane < 128

/-- A compute-side write at `pa` for world `w` reaches its row (R23, R244, R395): the home is no cache, no BSU holds the
bank, the request is accepted, the tag holds, and the row's counter is not at its end. -/
def State.reachesRow (s : State) (w pa : Nat) : Prop :=
  pa < deviceBytes ∧ (s.slice (sliceOfPa pa)).forward = false ∧ tabFind s.turn (sectorOf pa) = none ∧
    tabFind s.l2 (sectorOf pa) = none ∧
    s.cachedInL2 w pa = false ∧ s.homeBusy w pa true = false ∧ s.portAccepts w pa = true ∧ s.rowOk pa = true ∧
    s.rowCounter pa ≠ 2 ^ 56 - 1

/-! ## Commands of world 0 -/

/-- World 0's interface can take a command for world `w` (R408, R409): none is running, the number is one of a guest, and
the world is there or not as the command needs it. -/
def State.cmdFree (s : State) (w : Nat) (present : Bool) : Prop :=
  s.cmdif.wbusy = false ∧ s.cmdif.wslice = none ∧ 1 ≤ w ∧ w ≤ 63 ∧ (s.world w).present = present

/-- The state with the arguments of a command noted. -/
def State.withArgs (s : State) : State :=
  { s with cmdif :=
    { s.cmdif with
      p0 := s.cmdif.warg0
      p1 := s.cmdif.warg1
      p2 := s.cmdif.warg2 } }

/-- The state in which the command `i` has been accepted and runs (R408). -/
def State.taken (s : State) (i : Instr) : State :=
  { s.withArgs with cmdif :=
    { s.withArgs.cmdif with
      wbusy := true
      wok := false
      werr := 0
      wpend := some i } }

/-- Nothing of a world's layout is fixed (R404, R405): a layout change takes effect at once. -/
def State.openLayout (s : State) (w : Nat) : Prop := (s.world w).tdisp = .unlocked ∨ (s.world w).tdisp = .error

/-- `t` is `s` after a command that has taken its effect at once, on nothing but world `w`, which is now `v`. -/
def State.cmdDone (s t : State) (w : Nat) (v : World) : Prop :=
  t.world w = v ∧ (∀ k, k ≠ w → t.world k = s.world k) ∧
    t = { s with
      worlds := t.worlds
      cmdif := (s.withArgs.cmdOk).cmdif }

/-- The cores of a list hold nothing that is still to be written back. -/
def State.coresClean (s : State) (cs : List Nat) : Prop :=
  ∀ c ∈ cs, (s.core c).wbuf = [] ∧ (s.core c).dirtySectors = []

end Sys2Proof.Machine
end

