-- ==== Sys2Proof/Certificates/Slice0/Obligations.lean ====
section
/-! DEFINITION. The statements for the provers. -/

open Sys2Proof Sys2Proof.Machine

/-- R123, R127, with R37: the results of the ALU forms on 64-bit registers. Every form completes whatever its operands
hold, writes its destination and changes nothing else. -/
def Obligations.ScalarRegisterForms : Prop :=
  ∀ d x y : SReg,
    writesSreg (.add d x y) d (fun s a => s.sreg a x.toNat + s.sreg a y.toNat) ∧
    writesSreg (.sub d x y) d (fun s a => s.sreg a x.toNat - s.sreg a y.toNat) ∧
    writesSreg (.mul d x y) d (fun s a => BitVec.ofInt 64 ((s.sreg a x.toNat).toInt * (s.sreg a y.toNat).toInt)) ∧
    writesSreg (.mulh d x y) d (fun s a =>
      BitVec.ofInt 64 ((s.sreg a x.toNat).toInt * (s.sreg a y.toNat).toInt / 2 ^ 64)) ∧
    writesSreg (.mulhn d x y) d (fun s a =>
      BitVec.ofNat 64 ((s.sreg a x.toNat).toNat * (s.sreg a y.toNat).toNat / 2 ^ 64)) ∧
    writesSreg (.and d x y) d (fun s a => s.sreg a x.toNat &&& s.sreg a y.toNat) ∧
    writesSreg (.or d x y) d (fun s a => s.sreg a x.toNat ||| s.sreg a y.toNat) ∧
    writesSreg (.xor d x y) d (fun s a => s.sreg a x.toNat ^^^ s.sreg a y.toNat) ∧
    writesSreg (.andn d x y) d (fun s a => s.sreg a x.toNat &&& ~~~s.sreg a y.toNat) ∧
    writesSreg (.min d x y) d (fun s a => BitVec.ofInt 64 (min (s.sreg a x.toNat).toInt (s.sreg a y.toNat).toInt)) ∧
    writesSreg (.max d x y) d (fun s a => BitVec.ofInt 64 (max (s.sreg a x.toNat).toInt (s.sreg a y.toNat).toInt)) ∧
    writesSreg (.minn d x y) d (fun s a => BitVec.ofNat 64 (min (s.sreg a x.toNat).toNat (s.sreg a y.toNat).toNat)) ∧
    writesSreg (.maxn d x y) d (fun s a => BitVec.ofNat 64 (max (s.sreg a x.toNat).toNat (s.sreg a y.toNat).toNat)) ∧
    writesSreg (.slt d x y) d (fun s a =>
      if (s.sreg a x.toNat).toInt < (s.sreg a y.toNat).toInt then 1 else 0) ∧
    writesSreg (.sltn d x y) d (fun s a =>
      if (s.sreg a x.toNat).toNat < (s.sreg a y.toNat).toNat then 1 else 0) ∧
    writesSreg (.seq d x y) d (fun s a => if s.sreg a x.toNat = s.sreg a y.toNat then 1 else 0) ∧
    ∀ sh : BitVec 3,
      writesSreg (.lea d x y sh) d (fun s a =>
        BitVec.ofNat 64 ((s.sreg a x.toNat).toNat + (s.sreg a y.toNat).toNat * 2 ^ sh.toNat))

/-- R124: division never traps, its edge cases, the shift amounts, and the rule's own example. -/
def Obligations.DivisionEdges : Prop :=
  (∀ d x y : SReg,
    writesSreg (.div d x y) d (fun s a =>
      if s.sreg a y.toNat = 0 then 0xffffffffffffffff
      else if (s.sreg a x.toNat).toInt = -2 ^ 63 ∧ (s.sreg a y.toNat).toInt = -1 then BitVec.ofInt 64 (-2 ^ 63)
      else BitVec.ofInt 64 ((s.sreg a x.toNat).toInt.tdiv (s.sreg a y.toNat).toInt)) ∧
    writesSreg (.divn d x y) d (fun s a =>
      if s.sreg a y.toNat = 0 then 0xffffffffffffffff
      else BitVec.ofNat 64 ((s.sreg a x.toNat).toNat / (s.sreg a y.toNat).toNat)) ∧
    writesSreg (.rem d x y) d (fun s a =>
      if s.sreg a y.toNat = 0 then s.sreg a x.toNat
      else if (s.sreg a x.toNat).toInt = -2 ^ 63 ∧ (s.sreg a y.toNat).toInt = -1 then 0
      else BitVec.ofInt 64 ((s.sreg a x.toNat).toInt.tmod (s.sreg a y.toNat).toInt)) ∧
    writesSreg (.remn d x y) d (fun s a =>
      if s.sreg a y.toNat = 0 then s.sreg a x.toNat
      else BitVec.ofNat 64 ((s.sreg a x.toNat).toNat % (s.sreg a y.toNat).toNat)) ∧
    writesSreg (.shl d x y) d (fun s a =>
      BitVec.ofNat 64 ((s.sreg a x.toNat).toNat * 2 ^ ((s.sreg a y.toNat).toNat % 64))) ∧
    writesSreg (.shr d x y) d (fun s a =>
      BitVec.ofNat 64 ((s.sreg a x.toNat).toNat / 2 ^ ((s.sreg a y.toNat).toNat % 64))) ∧
    writesSreg (.sar d x y) d (fun s a =>
      BitVec.ofInt 64 ((s.sreg a x.toNat).toInt / 2 ^ ((s.sreg a y.toNat).toNat % 64)))) ∧
  decodeScalar 0x02390486 = .ok (.divn 7 8 9) ∧
  ∀ s a, s.sreg a 8 = BitVec.ofInt 64 (-7) → s.sreg a 9 = 2 →
    (s.scalarGo a .both (.divn 7 8 9) → ∃ t, exec (.divn 7 8 9) s = .next t ∧ s.wrote t a 7 0x7ffffffffffffffc) ∧
    (s.scalarGo a .both (.div 7 8 9) → ∃ t, exec (.div 7 8 9) s = .next t ∧ s.wrote t a 7 (BitVec.ofInt 64 (-3))) ∧
    (s.scalarGo a .both (.rem 7 8 9) → ∃ t, exec (.rem 7 8 9) s = .next t ∧ s.wrote t a 7 (BitVec.ofInt 64 (-1)))

/-- R125, R126: the immediate forms. -/
def Obligations.ScalarImmediateForms : Prop :=
  ∀ d x : SReg,
    (∀ imm : BitVec 13,
      writesSreg (.addi d x imm) d (fun s a => BitVec.ofInt 64 ((s.sreg a x.toNat).toInt + imm.toInt)) ∧
      writesSreg (.andi d x imm) d (fun s a => s.sreg a x.toNat &&& BitVec.ofInt 64 imm.toInt) ∧
      writesSreg (.ori d x imm) d (fun s a => s.sreg a x.toNat ||| BitVec.ofInt 64 imm.toInt) ∧
      writesSreg (.xori d x imm) d (fun s a => s.sreg a x.toNat ^^^ BitVec.ofInt 64 imm.toInt) ∧
      writesSreg (.slti d x imm) d (fun s a => if (s.sreg a x.toNat).toInt < imm.toInt then 1 else 0)) ∧
    (∀ sh : BitVec 6,
      writesSreg (.shli d x sh) d (fun s a => BitVec.ofNat 64 ((s.sreg a x.toNat).toNat * 2 ^ sh.toNat)) ∧
      writesSreg (.shri d x sh) d (fun s a => BitVec.ofNat 64 ((s.sreg a x.toNat).toNat / 2 ^ sh.toNat)) ∧
      writesSreg (.sari d x sh) d (fun s a => BitVec.ofInt 64 ((s.sreg a x.toNat).toInt / 2 ^ sh.toNat))) ∧
    ∀ imm : BitVec 19,
      writesSreg (.lui d imm) d (fun _ _ => BitVec.ofInt 64 (imm.toInt * 2 ^ 13)) ∧
      writesSreg (.lpc d imm) d (fun s a => BitVec.ofNat 64 (wordsFrom (s.pcOf a) imm.toInt))

/-- R132, R133, R153: control transfers that always complete, and what they leave alone. -/
def Obligations.ScalarBranches : Prop :=
  (∀ (x y : SReg) (off : BitVec 13),
    goesTo (.beq x y off) (fun s a =>
      wordsFrom (s.pcOf a) (if s.sreg a x.toNat = s.sreg a y.toNat then off.toInt else 1)) ∧
    goesTo (.bne x y off) (fun s a =>
      wordsFrom (s.pcOf a) (if s.sreg a x.toNat = s.sreg a y.toNat then 1 else off.toInt)) ∧
    goesTo (.blt x y off) (fun s a =>
      wordsFrom (s.pcOf a) (if (s.sreg a x.toNat).toInt < (s.sreg a y.toNat).toInt then off.toInt else 1)) ∧
    goesTo (.bge x y off) (fun s a =>
      wordsFrom (s.pcOf a) (if (s.sreg a y.toNat).toInt ≤ (s.sreg a x.toNat).toInt then off.toInt else 1)) ∧
    goesTo (.bltn x y off) (fun s a =>
      wordsFrom (s.pcOf a) (if (s.sreg a x.toNat).toNat < (s.sreg a y.toNat).toNat then off.toInt else 1)) ∧
    goesTo (.bgen x y off) (fun s a =>
      wordsFrom (s.pcOf a) (if (s.sreg a y.toNat).toNat ≤ (s.sreg a x.toNat).toNat then off.toInt else 1))) ∧
  (∀ off : BitVec 21,
    goesTo (.jmp off) (fun s a => wordsFrom (s.pcOf a) off.toInt) ∧
    ∀ s a, s.scalarGo a .both (.call off) → ∃ t, exec (.call off) s = .next t ∧
      (∀ r : SReg, t.sreg a r.toNat =
        if r = 63 then BitVec.ofNat 64 (wordsFrom (s.pcOf a) 1) else s.sreg a r.toNat) ∧
      t.pcOf a = wordsFrom (s.pcOf a) off.toInt ∧ (∀ pa, t.memByte pa = s.memByte pa) ∧ s.sameButContext t a) ∧
  goesTo .nop (fun s a => wordsFrom (s.pcOf a) 1) ∧
  (∀ s gid, s.scalarGo (.group gid) .both .yield →
    exec .yield s =
      .next (s.modGroup gid (fun g => { g with yielded := true, pc := wordsFrom g.pc 1, wait := none }))) ∧
  ∀ s sl, s.scalarGo (.bdc sl) .both .yield →
    ∃ t, exec .yield s = .next t ∧ s.went t (.bdc sl) (wordsFrom (s.pcOf (.bdc sl)) 1)

/-- R134. -/
def Obligations.ReturnToRegister : Prop :=
  ∀ (x : SReg) s a, s.scalarGo a .both (.ret x) →
    ((s.sreg a x.toNat).toNat % 4 = 0 →
      ∃ t, exec (.ret x) s = .next t ∧ s.went t a (s.sreg a x.toNat).toNat) ∧
    ((s.sreg a x.toNat).toNat % 4 ≠ 0 → exec (.ret x) s = .next (s.trap a 3 1 (s.sreg a x.toNat)))

/-- R128 to R131, R239: scalar loads and stores. Alignment before bounds is the model's reading (log entry 25). -/
def Obligations.ScalarMemoryForms : Prop :=
  (∀ s gid (d x : SReg) (disp : BitVec 13) (A pa : Nat) (w : Bool), A = (s.sreg (.group gid) x.toNat + BitVec.ofInt 64 (8 * disp.toInt)).toNat →
    s.scalarGo (.group gid) .both (.sld d x disp) → A % 8 = 0 → (s.group gid).room .const → s.hits gid A .read pa w →
    ∃ t, exec (.sld d x disp) s = .next t ∧
      s.issuedScalar t gid
        { aid := (s.group gid).nextAid, path := .const, op := .load false, space := .konst, size := 8, scope := .dev,
          lanes := [{ lane := 64, addr := A, pa := pa, stage := .ready, ro := !w }], dest := .sreg d.toNat,
          pc := (s.group gid).pc, laneWord := false }) ∧
  (∀ s gid (x y : SReg) (disp : BitVec 13) (A pa : Nat), A = (s.sreg (.group gid) x.toNat + BitVec.ofInt 64 (8 * disp.toInt)).toNat →
    s.scalarGo (.group gid) .both (.sst x y disp) → A % 8 = 0 → (s.group gid).room .ls → s.hits gid A .write pa true →
    ∃ t, exec (.sst x y disp) s = .next t ∧
      s.issuedScalar t gid
        { aid := (s.group gid).nextAid, path := .ls, op := .store, space := .mem, size := 8, scope := .dev,
          lanes := [{ lane := 64, addr := A, data := natBytes 8 (s.sreg (.group gid) y.toNat).toNat, pa := pa,
                      stage := .ready, ro := false }], dest := .none, pc := (s.group gid).pc, laneWord := false }) ∧
  (∀ s gid (d x : SReg) (disp : BitVec 13) (o : Int) (A pa : Nat) (w : Bool),
    o = (s.sreg (.group gid) x.toNat + BitVec.ofInt 64 (8 * disp.toInt)).toInt →
    A = (((s.launchOf gid).constBase : Int) + o).toNat % 2 ^ 64 → 0 ≤ o → o + 8 ≤ (s.headerOf gid).constSize →
    s.scalarGo (.group gid) .both (.sldk d x disp) → A % 8 = 0 → (s.group gid).room .const → s.hits gid A .read pa w →
    ∃ t, exec (.sldk d x disp) s = .next t ∧
      s.issuedScalar t gid
        { aid := (s.group gid).nextAid, path := .const, op := .load false, space := .konst, size := 8, scope := .dev,
          lanes := [{ lane := 64, addr := A, pa := pa, stage := .ready, ro := !w }], dest := .sreg d.toNat,
          pc := (s.group gid).pc, laneWord := false }) ∧
  (∀ s sl (d x : SReg) (disp : BitVec 13) (A : Nat), A = (s.sreg (.bdc sl) x.toNat + BitVec.ofInt 64 (8 * disp.toInt)).toNat →
    s.scalarGo (.bdc sl) .both (.sld d x disp) → A % 8 = 0 → A + 8 ≤ 65536 →
    ∃ t, exec (.sld d x disp) s = .next t ∧
      s.wrote t (.bdc sl) d (BitVec.ofNat 64 (bytesNat ((List.range 8).map (fun i => tabGet 0 (s.bdc sl).store (A + i)))))) ∧
  (∀ s sl (x y : SReg) (disp : BitVec 13) (A : Nat), A = (s.sreg (.bdc sl) x.toNat + BitVec.ofInt 64 (8 * disp.toInt)).toNat →
    s.scalarGo (.bdc sl) .both (.sst x y disp) → A % 8 = 0 → A + 8 ≤ 65536 →
    ∃ t, exec (.sst x y disp) s = .next t ∧
      (∀ o, tabGet 0 (t.bdc sl).store o =
        if A ≤ o ∧ o < A + 8 then BitVec.ofNat 8 ((s.sreg (.bdc sl) y.toNat).toNat / 256 ^ (o - A)) else tabGet 0 (s.bdc sl).store o) ∧
      (∀ pa, t.memByte pa = s.memByte pa) ∧
      t = s.modBdc sl (fun c => { c with store := (t.bdc sl).store, pc := wordsFrom c.pc 1, wait := none })) ∧
  (∀ s sl (d x : SReg) (disp : BitVec 13) (o : Nat), o = (s.sreg (.bdc sl) x.toNat + BitVec.ofInt 64 (8 * disp.toInt)).toNat →
    s.scalarGo (.bdc sl) .both (.sldk d x disp) → ((s.bdc sl).constBase + o) % 8 = 0 → o < 2 ^ 63 → o + 8 ≤ (s.bdc sl).constSize →
    ∃ t, exec (.sldk d x disp) s = .next t ∧
      s.wrote t (.bdc sl) d (BitVec.ofNat 64 (bytesNat ((List.range 8).map (fun i => tabGet 0 (s.bdc sl).konst (o + i)))))) ∧
  (∀ s a (d x : SReg) (disp : BitVec 13) (A : Word64), A = s.sreg a x.toNat + BitVec.ofInt 64 (8 * disp.toInt) → A.toNat % 8 ≠ 0 →
    (s.scalarGo a .both (.sld d x disp) → exec (.sld d x disp) s = .next (s.trap a 3 0 A)) ∧
    (s.scalarGo a .both (.sst x d disp) → exec (.sst x d disp) s = .next (s.trap a 3 0 A))) ∧
  (∀ s sl (d x : SReg) (disp : BitVec 13) (A : Word64), A = s.sreg (.bdc sl) x.toNat + BitVec.ofInt 64 (8 * disp.toInt) →
    A.toNat % 8 = 0 → 65536 < A.toNat + 8 →
    (s.scalarGo (.bdc sl) .both (.sld d x disp) → exec (.sld d x disp) s = .next (s.trap (.bdc sl) 4 4 A)) ∧
    (s.scalarGo (.bdc sl) .both (.sst x d disp) → exec (.sst x d disp) s = .next (s.trap (.bdc sl) 4 4 A))) ∧
  ∀ s a (d x : SReg) (disp : BitVec 13) (o A : Word64) (base size : Nat), s.scalarGo a .both (.sldk d x disp) →
    o = s.sreg a x.toNat + BitVec.ofInt 64 (8 * disp.toInt) →
    (∀ gid, a = .group gid → base = (s.launchOf gid).constBase ∧ size = (s.headerOf gid).constSize) →
    (∀ sl, a = .bdc sl → base = (s.bdc sl).constBase ∧ size = (s.bdc sl).constSize) →
    A = BitVec.ofNat 64 base + o →
    (A.toNat % 8 ≠ 0 → exec (.sldk d x disp) s = .next (s.trap a 3 0 A)) ∧
    (A.toNat % 8 = 0 → (o.toInt < 0 ∨ (size : Int) < o.toInt + 8) → exec (.sldk d x disp) s = .next (s.trap a 4 4 A))

/-- R135, R241. -/
def Obligations.ExitForms : Prop :=
  (∀ s gid, s.scalarGo (.group gid) .both .exit →
    exec .exit s = .next (s.modGroup gid (fun g => { g with wait := some .retire }))) ∧
  ∀ s sl lid, s.scalarGo (.bdc sl) .both .exit → (s.bdc sl).lid = some lid → (tabFind s.launches lid).isSome = true →
    ∃ t, exec .exit s = .next t ∧ (t.bdc sl).lid = none ∧ (t.bdc sl).mbx = [] ∧ (t.bdc sl).opened = [] ∧
      (t.launch lid).ended = true ∧ ((s.launch lid).failed = false → (t.launch lid).endc = 0) ∧
      ∀ pa, t.memByte pa = s.memByte pa

/-- R137. -/
def Obligations.JoinRegister : Prop :=
  ∀ (off : BitVec 21) s gid, s.scalarGo (.group gid) .computeOnly (.setjoin off) →
    let put (g : Group) : Group := { g with joinpc := wordsFrom (s.group gid).pc off.toInt, jv := true }
    (∃ op : BitVec 7, encodeScalar (.setjoin off) = some (op ++ 0#4 ++ off)) ∧
    ((s.group gid).converged = false →
      exec (.setjoin off) s =
        .next (s.modGroup gid (fun g => { (put g) with pc := wordsFrom (s.group gid).pc 1, wait := none }))) ∧
    ((s.group gid).converged = true →
      exec (.setjoin off) s =
        .next (((s.modGroup (leadOf gid) put).modGroup (leadOf gid + 1) put).setPc (.group gid) (wordsFrom (s.group gid).pc 1)))

/-- R138 to R141, R50 to R52, in a group that is not a converged pair. `State.spillPa` is where an entry of the stack is
spilled; which slot of the spill region a group slot has is the model's choice (log entry 58). -/
def Obligations.DivergenceForms : Prop :=
  (∀ (p : BitVec 7) (neg : Bool) (off : BitVec 17) s gid (M pv : Mask),
    s.scalarGo (.group gid) .computeOnly (.divergence p neg off) → (s.group gid).converged = false →
    p.toNat < (s.group gid).p → s.lanesIssued gid = true →
    M = (s.group gid).exm &&& ~~~(s.group gid).deadm →
    pv = (if neg then ~~~tabGet 0 (s.group gid).preds p.toNat else tabGet 0 (s.group gid).preds p.toNat) →
    let g := s.group gid
    let T := M &&& pv
    let F := M &&& ~~~pv
    let next := wordsFrom g.pc 1
    let target := wordsFrom g.pc off.toInt
    let join : StackEntry := { isElse := false, fmt := g.fmt, mask := M, pc := g.joinpc }
    let other : StackEntry := { isElse := true, fmt := g.fmt, mask := F, pc := target }
    (g.jv = false → exec (.divergence p neg off) s = .next (s.trap (.group gid) 1 2 (scalarTval (.divergence p neg off)))) ∧
    (g.jv = true → 256 < g.stack.length + (if T = 0 ∨ F = 0 then 1 else 2) →
      exec (.divergence p neg off) s = .next (s.bumpFree.trap (.group gid) 9 0 (Config.freeTval s.free))) ∧
    (g.jv = true → g.stack.length + (if T = 0 ∨ F = 0 then 1 else 2) ≤ 32 →
      exec (.divergence p neg off) s = .next (s.modGroup gid (fun g =>
        { g with
          stack := if T = 0 ∨ F = 0 then join :: g.stack else other :: join :: g.stack
          jv := false
          exm := if T = 0 ∨ F = 0 then g.exm else T
          pc := if F = 0 then next else if T = 0 then target else next
          wait := none }))) ∧
    (g.jv = true → ∀ (n pa : Nat) (old : StackEntry), n = (if T = 0 ∨ F = 0 then 1 else 2) →
      ((n = 1 ∧ 32 ≤ g.stack.length) ∨ (n = 2 ∧ g.stack.length = 31)) → g.stack.length + n ≤ 256 →
      g.stack[32 - n]? = some old → s.spillPa gid (g.stack.length + n - 33) = some pa → pa % 64 + 32 ≤ 64 →
      s.reachesRow (s.worldOf gid) pa →
      ∃ t, exec (.divergence p neg off) s = .next t ∧ (t.group gid).stack = (if n = 1 then [join] else [other, join]) ++ g.stack ∧
        (t.group gid).jv = false ∧ (t.group gid).exm = (if n = 1 then g.exm else T) ∧ (t.group gid).fmt = g.fmt ∧
        (t.group gid).pc = (if F = 0 then next else if T = 0 then target else next) ∧
        (∀ x, t.memByte x = if pa ≤ x ∧ x < pa + 32 then old.bytes.getD (x - pa) 0 else s.memByte x) ∧
        ∀ k, k ≠ gid → t.group k = s.group k)) ∧
  ∀ s gid, s.scalarGo (.group gid) .computeOnly .join → (s.group gid).converged = false →
    ((s.group gid).stack = [] → exec .join s = .next (s.bumpFree.trap (.group gid) 9 1 (Config.freeTval s.free))) ∧
    ∀ e rest, (s.group gid).stack = e :: rest →
      (rest.length < 32 →
        exec .join s = .next (s.modGroup gid (fun g =>
          { g with stack := rest, exm := e.mask &&& allLanes g.w &&& ~~~g.deadm, fmt := e.fmt, pc := e.pc, wait := none }))) ∧
      ∀ pa, 32 ≤ rest.length → s.spillPa gid (rest.length - 32) = some pa → pa % 64 + 32 ≤ 64 →
        s.reachesRow (s.worldOf gid) pa →
        ∃ t, exec .join s = .next t ∧ (t.group gid).stack = rest.set 31 (stackEntryOf (s.memBytes pa 32)) ∧
          (t.group gid).exm = e.mask &&& allLanes (s.group gid).w &&& ~~~(s.group gid).deadm ∧ (t.group gid).fmt = e.fmt ∧
          (t.group gid).pc = e.pc ∧ (∀ x, t.memByte x = s.memByte x) ∧ ∀ k, k ≠ gid → t.group k = s.group k

/-- R140, R141, R211, in a converged pair. -/
def Obligations.DivergenceInPair : Prop :=
  ∀ s gid, (s.group gid).converged = true → (s.group (gid + 1)).converged = true → s.live (gid + 1) = true →
    let parted (t : State) (pcs : Nat → Nat) : Prop :=
      (pcs gid = pcs (gid + 1) → t.pcOf (.group gid) = pcs gid ∧ (t.group gid).split = (s.group gid).split) ∧
      (pcs gid ≠ pcs (gid + 1) → (t.group gid).split = true ∧ (t.group (gid + 1)).split = true ∧
        (t.group gid).pc = pcs gid ∧ (t.group (gid + 1)).pc = pcs (gid + 1)) ∧
      (∀ h, h ≠ gid → h ≠ gid + 1 → t.group h = s.group h) ∧ ∀ pa, t.memByte pa = s.memByte pa
    (∀ (p : BitVec 7) (neg : Bool) (off : BitVec 17), s.scalarGo (.group gid) .computeOnly (.divergence p neg off) →
      p.toNat < (s.group gid).p → s.lanesIssued gid = true →
      (∀ h, (h = gid ∨ h = gid + 1) → (s.group h).jv = true ∧ (s.group h).stack.length ≤ 30) →
      let T (h : Nat) : Mask := (s.group h).active &&& (s.group h).pv p neg
      let F (h : Nat) : Mask := (s.group h).active &&& ~~~(s.group h).pv p neg
      let target := wordsFrom (s.group gid).pc off.toInt
      let next := wordsFrom (s.group gid).pc 1
      ∃ t, exec (.divergence p neg off) s = .next t ∧
        parted t (fun h => if F h = 0 then next else if T h = 0 then target else next) ∧
        ∀ h, (h = gid ∨ h = gid + 1) →
          (t.group h).exm = (if T h = 0 ∨ F h = 0 then (s.group h).exm else T h) ∧ (t.group h).jv = false ∧
          (t.group h).stack =
            (if T h = 0 ∨ F h = 0 then [] else [{ isElse := true, fmt := (s.group h).fmt, mask := F h, pc := target }]) ++
              { isElse := false, fmt := (s.group h).fmt, mask := (s.group h).active, pc := (s.group h).joinpc } ::
                (s.group h).stack) ∧
    (s.scalarGo (.group gid) .computeOnly .join → ∀ e : Nat → StackEntry, ∀ rest : Nat → List StackEntry,
      (∀ h, (h = gid ∨ h = gid + 1) → (s.group h).stack = e h :: rest h ∧ (rest h).length < 30) →
      ∃ t, exec .join s = .next t ∧ parted t (fun h => (e h).pc) ∧
        ∀ h, (h = gid ∨ h = gid + 1) → (t.group h).stack = rest h ∧ (t.group h).fmt = (e h).fmt ∧
          (t.group h).exm = (e h).mask &&& allLanes (s.group h).w &&& ~~~(s.group h).deadm)

/-- R142, R211. -/
def Obligations.UniformBranches : Prop :=
  ∀ (p : BitVec 7) (neg : Bool) (off : BitVec 17) (i : Instr) (taken : Mask → Mask → Prop),
    ((i = .bany p neg off ∧ ∀ S v, taken S v ↔ S &&& v ≠ 0) ∨ (i = .ball p neg off ∧ ∀ S v, taken S v ↔ S &&& ~~~v = 0) ∨
      (i = .bnone p neg off ∧ ∀ S v, taken S v ↔ S &&& v = 0)) →
    ∀ s gid, s.scalarGo (.group gid) .computeOnly i → p.toNat < (s.group gid).p → s.lanesIssued gid = true →
      let set (k : Nat) : Mask := (s.group k).exm &&& ~~~(s.group k).deadm &&& ~~~(s.group k).helpm
      let pv (k : Nat) : Mask := if neg then ~~~tabGet 0 (s.group k).preds p.toNat else tabGet 0 (s.group k).preds p.toNat
      let target := wordsFrom (s.group gid).pc off.toInt
      let next := wordsFrom (s.group gid).pc 1
      ((s.group gid).converged = false →
        (taken (set gid) (pv gid) → ∃ t, exec i s = .next t ∧ s.went t (.group gid) target) ∧
        (¬taken (set gid) (pv gid) → ∃ t, exec i s = .next t ∧ s.went t (.group gid) next)) ∧
      ((s.group gid).converged = true → (taken (set gid) (pv gid) ↔ taken (set (gid + 1)) (pv (gid + 1))) →
        ∃ t, exec i s = .next t ∧ (t.pcOf (.group gid) = target ∨ t.pcOf (.group gid) = next) ∧
          (t.pcOf (.group gid) = target ↔ taken (set gid) (pv gid) ∨ target = next) ∧ s.went t (.group gid) (t.pcOf (.group gid))) ∧
      ((s.group gid).converged = true → s.live (gid + 1) = true → target ≠ next →
        (taken (set gid) (pv gid) ↔ ¬taken (set (gid + 1)) (pv (gid + 1))) →
        ∃ t, exec i s = .next t ∧ (t.group gid).split = true ∧ (t.group (gid + 1)).split = true ∧
          (∀ k, (k = gid ∨ k = gid + 1) →
            (taken (set k) (pv k) → (t.group k).pc = target) ∧ (¬taken (set k) (pv k) → (t.group k).pc = next)) ∧
          (t.group gid).sregs = (s.group gid).sregs ∧ (t.group (gid + 1)).sregs = (s.group gid).sregs ∧
          (t.group gid).laneq = (s.group gid).laneq ∧ (t.group (gid + 1)).laneq = (s.group (gid + 1)).laneq ∧
          (t.group gid).engq = (s.group gid).engq ∧
          (∀ k : Nat, k < 8 → (t.guard gid k).st = (s.guard gid k).st ∧ (t.guard (gid + 1) k).st = (s.guard gid k).st) ∧
          (∀ k : Nat, k ≠ gid → k ≠ gid + 1 → t.group k = s.group k) ∧ ∀ pa, t.memByte pa = s.memByte pa)

/-- R143, R144, R214. -/
def Obligations.MaskForms : Prop :=
  (∀ (x : SReg) (sel : BitVec 2) s gid, s.scalarGo (.group gid) .computeOnly (.setexm x sel) →
    let put (g : Group) : Group := { g with exm := s.sreg (.group gid) x.toNat &&& allLanes g.w &&& ~~~g.deadm }
    ((s.group gid).converged = false →
      exec (.setexm x sel) s = .next (s.modGroup gid (fun g => { (put g) with pc := wordsFrom g.pc 1, wait := none }))) ∧
    ((s.group gid).converged = true →
      exec (.setexm x sel) s = .next
        ((if sel = 0 then (s.modGroup (leadOf gid) put).modGroup (leadOf gid + 1) put
          else if sel = 1 then s.modGroup (leadOf gid) put
          else s.modGroup (leadOf gid + 1) put).setPc (.group gid) (wordsFrom (s.group gid).pc 1)))) ∧
  (∀ (d : SReg) (hsel : Bool) s gid, s.scalarGo (.group gid) .computeOnly (.getexm d hsel) → s.lanesCompleted gid = true →
    let g := s.group (if (s.group gid).converged then leadOf gid + (if hsel then 1 else 0) else gid)
    ∃ t, exec (.getexm d hsel) s = .next t ∧ s.wrote t (.group gid) d (g.exm &&& ~~~g.deadm)) ∧
  ∀ s gid, s.scalarGo (.group gid) .computeOnly .twjoin →
    (((s.group gid).twin = false ∨ (s.group gid).split = false) →
      ∃ t, exec .twjoin s = .next t ∧ s.went t (.group gid) (wordsFrom (s.group gid).pc 1)) ∧
    ((s.group gid).twin = true → (s.group gid).split = true → s.lanesIssued gid = true → s.lanesCompleted gid = true →
      s.guardedCmd gid = false →
      (s.live (partnerOf gid) = false → ∃ t, exec .twjoin s = .next t ∧ s.went t (.group gid) (wordsFrom (s.group gid).pc 1)) ∧
      (s.live (partnerOf gid) = true → (s.group (partnerOf gid)).rdv = none →
        exec .twjoin s = .next (s.modGroup gid (fun g => { g with jwait := true, wait := some .rejoin }))))

/-- R145, R147, R148, R331. -/
def Obligations.LaneQueueForms : Prop :=
  (∀ (gd : Option (BitVec 3)) (idx : BitVec 21) s gid, s.scalarGo (.group gid) .computeOnly (.run gd idx) →
    ((s.group gid).trapMode = true →
      exec (.run gd idx) s = .next (s.trap (.group gid) 1 8 (scalarTval (.run gd idx)))) ∧
    ((s.group gid).trapMode = false → (s.group gid).converged = false → (s.group gid).laneq.length < 8 →
      (∀ k, gd = some k → (s.guard gid k.toNat).count < 15) →
      ∃ t r, exec (.run gd idx) s = .next t ∧ (t.group gid).laneq = (s.group gid).laneq ++ [r] ∧
        r.next = idx.toNat ∧ r.exm = (s.group gid).exm ∧ r.fmt = (s.group gid).fmt ∧ r.svals = (s.group gid).sregs ∧
        r.guard = gd.map BitVec.toNat ∧
        (∀ k : BitVec 3, (t.guard gid k.toNat).count = (s.guard gid k.toNat).count + (if gd = some k then 1 else 0) ∧
          (t.guard gid k.toNat).st = (s.guard gid k.toNat).st) ∧
        t = s.modGroup gid (fun g =>
          { g with
            laneq := (t.group gid).laneq
            runsQueued := g.runsQueued + 1
            guards := (t.group gid).guards
            pc := wordsFrom g.pc 1
            wait := none })) ∧
    ((s.group gid).trapMode = false → (s.group gid).converged = true → s.live (gid + 1) = true →
      (s.group gid).laneq.length < 8 → (s.group (gid + 1)).laneq.length < 8 →
      (∀ k, gd = some k → (s.guard gid k.toNat).count < 14) →
      ∃ t, exec (.run gd idx) s = .next t ∧ t.pcOf (.group gid) = wordsFrom (s.group gid).pc 1 ∧
        (∀ h, (h = gid ∨ h = gid + 1) → ∃ r, (t.group h).laneq = (s.group h).laneq ++ [r] ∧
          r.next = idx.toNat ∧ r.exm = (s.group h).exm ∧ r.fmt = (s.group h).fmt ∧ r.svals = (s.group gid).sregs ∧
          r.guard = gd.map BitVec.toNat) ∧
        (∀ k : BitVec 3, (t.guard gid k.toNat).count = (s.guard gid k.toNat).count + (if gd = some k then 2 else 0)) ∧
        (∀ r : SReg, t.sreg (.group gid) r.toNat = s.sreg (.group gid) r.toNat) ∧
        (∀ h, h ≠ gid → h ≠ gid + 1 → t.group h = s.group h) ∧ ∀ pa, t.memByte pa = s.memByte pa)) ∧
  ∀ (k : BitVec 3) s gid,
    (s.scalarGo (.group gid) .computeOnly (.gclr k) →
      (0 < (s.guard gid k.toNat).count → exec (.gclr k) s = .next (s.trap (.group gid) 1 3 (scalarTval (.gclr k)))) ∧
      ((s.guard gid k.toNat).count = 0 → ∃ t, exec (.gclr k) s = .next t ∧ (t.guard gid k.toNat).st = .pending ∧
        (∀ j : BitVec 3, j ≠ k → t.guard gid j.toNat = s.guard gid j.toNat) ∧
        t = s.modGroup gid (fun g => { g with guards := (t.group gid).guards, pc := wordsFrom g.pc 1, wait := none }))) ∧
    (s.scalarGo (.group gid) .computeOnly (.grd k) →
      ((s.guard gid k.toNat).st ≠ .pending → ∃ t, exec (.grd k) s = .next t ∧ s.went t (.group gid) (wordsFrom (s.group gid).pc 1)) ∧
      ((s.guard gid k.toNat).st = .pending →
        exec (.grd k) s = .next (s.modGroup gid (fun g => { g with wait := some (.guardResolved k.toNat) })))) ∧
    ∀ off : BitVec 21, s.scalarGo (.group gid) .computeOnly (.bg k off) →
      ((s.guard gid k.toNat).st = .resolvedTrue →
        ∃ t, exec (.bg k off) s = .next t ∧ s.went t (.group gid) (wordsFrom (s.group gid).pc off.toInt)) ∧
      ((s.guard gid k.toNat).st = .resolvedFalse →
        ∃ t, exec (.bg k off) s = .next t ∧ s.went t (.group gid) (wordsFrom (s.group gid).pc 1)) ∧
      ((s.guard gid k.toNat).st = .pending →
        exec (.bg k off) s = .next (s.modGroup gid (fun g => { g with wait := some (.guardResolved k.toNat) })))

/-- R149. -/
def Obligations.FormatForms : Prop :=
  (∀ (v : BitVec 14) s a, s.scalarGo a .both (.setfmt v) →
    (fmtLegal v.toNat = false → exec (.setfmt v) s = .next (s.trap a 2 4 (scalarTval (.setfmt v)))) ∧
    (fmtLegal v.toNat = true →
      (∀ sl, a = .bdc sl →
        exec (.setfmt v) s = .next (s.modBdc sl (fun c => { c with fmt := v.setWidth 32, pc := wordsFrom c.pc 1, wait := none }))) ∧
      (∀ gid, a = .group gid → (s.group gid).converged = false →
        exec (.setfmt v) s = .next (s.modGroup gid (fun g => { g with fmt := v.setWidth 32, pc := wordsFrom g.pc 1, wait := none }))) ∧
      ∀ gid, a = .group gid → (s.group gid).converged = true →
        exec (.setfmt v) s = .next
          (((s.modGroup gid (fun g => { g with fmt := v.setWidth 32 })).modGroup (gid + 1)
            (fun g => { g with fmt := v.setWidth 32 })).setPc a (wordsFrom (s.group gid).pc 1)))) ∧
  (∀ (x : SReg) (sel : BitVec 2) s a, s.scalarGo a .both (.setfmtr x sel) →
    let v := s.sreg a x.toNat
    ((2 ^ 14 ≤ v.toNat ∨ fmtLegal v.toNat = false) →
      exec (.setfmtr x sel) s = .next (s.trap a 2 4 (scalarTval (.setfmtr x sel)))) ∧
    (v.toNat < 2 ^ 14 → fmtLegal v.toNat = true →
      (∀ sl, a = .bdc sl →
        exec (.setfmtr x sel) s = .next (s.modBdc sl (fun c => { c with fmt := v.setWidth 32, pc := wordsFrom c.pc 1, wait := none }))) ∧
      (∀ gid, a = .group gid → (s.group gid).converged = false →
        exec (.setfmtr x sel) s = .next (s.modGroup gid (fun g => { g with fmt := v.setWidth 32, pc := wordsFrom g.pc 1, wait := none }))) ∧
      ∀ gid, a = .group gid → (s.group gid).converged = true →
        let put (g : Group) : Group := { g with fmt := v.setWidth 32 }
        exec (.setfmtr x sel) s = .next
          ((if sel = 0 then (s.modGroup gid put).modGroup (gid + 1) put
            else if sel = 1 then s.modGroup gid put
            else s.modGroup (gid + 1) put).setPc a (wordsFrom (s.group gid).pc 1)))) ∧
  ∀ (d : SReg) (hsel : Bool) s a, s.scalarGo a .both (.getfmt d hsel) →
    ∃ t, exec (.getfmt d hsel) s = .next t ∧
      (∀ sl, a = .bdc sl → s.wrote t a d ((s.bdc sl).fmt.setWidth 64)) ∧
      ∀ gid, a = .group gid →
        s.wrote t a d ((s.group (if (s.group gid).converged then gid + (if hsel then 1 else 0) else gid)).fmt.setWidth 64)

/-- R46, R47, R150, R239: what `SPRR` reads. -/
def Obligations.SpecialRegisterReads : Prop :=
  (∀ (d : SReg) (n : BitVec 7) (hsel : Bool) s gid, s.scalarGo (.group gid) .both (.sprr d n hsel) →
    let assigned := n.toNat ≤ 0x0c ∨ (0x10 ≤ n.toNat ∧ n.toNat ≤ 0x14) ∨ (0x18 ≤ n.toNat ∧ n.toNat ≤ 0x1a)
    let c := s.group gid
    let g := s.group (if c.converged then gid + (if hsel then 1 else 0) else gid)
    let reads (k : Nat) (v : Word64) : Prop := n.toNat = k → ∃ t, exec (.sprr d n hsel) s = .next t ∧ s.wrote t (.group gid) d v
    (¬assigned → exec (.sprr d n hsel) s = .next (s.trap (.group gid) 2 5 (scalarTval (.sprr d n hsel)))) ∧
    (s.lanesCompleted gid = true →
      reads 0x00 (g.fflags.setWidth 64) ∧ reads 0x02 g.exm ∧ reads 0x03 g.deadm ∧ reads 0x04 g.helpm ∧
      reads 0x05 (g.dither.setWidth 64) ∧
      reads 0x09 (match g.latch with
        | some l => BitVec.ofNat 64 (512 + l.base)
        | none => 0) ∧
      ∀ k, k < 5 → reads (0x10 + k) (tabGet 0 (s.core (s.coreOf gid)).terms (5 * g.quarter + k))) ∧
    reads 0x01 (g.fmt.setWidth 64) ∧ reads 0x06 (BitVec.ofNat 64 g.stack.length) ∧
    (∃ v : Word64, reads 0x07 v ∧ (∀ k, k < 8 → v.toNat / 4 ^ k % 4 =
      (match (s.guard gid k).st with
       | .pending => 0
       | .resolvedTrue => 1
       | .resolvedFalse => 2)) ∧ v.toNat < 2 ^ 16) ∧
    (∃ v : Word64, reads 0x08 v ∧ (∀ k, k < 8 → v.toNat / 64 ^ k % 64 = tabGet 0 g.ifc k % 64) ∧ v.toNat < 2 ^ 48) ∧
    reads 0x0a (BitVec.ofNat 64 ((if g.twin then 1 else 0) + (if g.twin && g.grpid % 2 == 1 then 2 else 0) +
      (if g.split then 4 else 0) + (if g.jwait then 8 else 0))) ∧
    reads 0x0b (BitVec.ofNat 64 g.laneq.length) ∧
    reads 0x0c (BitVec.ofNat 64 (s.now - (s.core (s.coreOf gid)).clockBase)) ∧
    reads 0x18 (g.tcause.setWidth 64) ∧ reads 0x19 (BitVec.ofNat 64 g.tepc) ∧ reads 0x1a g.tval) ∧
  ∀ (d : SReg) (n : BitVec 7) (hsel : Bool) s sl, s.scalarGo (.bdc sl) .both (.sprr d n hsel) →
    let assigned := n.toNat = 0 ∨ n.toNat = 1 ∨ n.toNat = 0x0c ∨ (0x18 ≤ n.toNat ∧ n.toNat ≤ 0x1a) ∨ (0x20 ≤ n.toNat ∧ n.toNat ≤ 0x22)
    let c := s.bdc sl
    let reads (k : Nat) (v : Word64) : Prop := n.toNat = k → ∃ t, exec (.sprr d n hsel) s = .next t ∧ s.wrote t (.bdc sl) d v
    (¬assigned → exec (.sprr d n hsel) s = .next (s.trap (.bdc sl) 2 5 (scalarTval (.sprr d n hsel)))) ∧
    reads 0x00 (c.fflags.setWidth 64) ∧ reads 0x01 (c.fmt.setWidth 64) ∧
    reads 0x0c (BitVec.ofNat 64 ((s.now - c.clockBase) / 2)) ∧
    reads 0x18 (c.tcause.setWidth 64) ∧ reads 0x19 (BitVec.ofNat 64 c.tepc) ∧ reads 0x1a c.tval ∧
    reads 0x20 (BitVec.ofNat 64 c.mbx.length) ∧ reads 0x21 (BitVec.ofNat 64 c.opened.length) ∧
    reads 0x22 (BitVec.ofNat 64
      ((s.world ((s.slice sl).owner.getD 0)).slices.findIdx (· == sl) % 256 + 256 * (sl % 256)))

/-- R46, R47, R150, R239: what `SPRW` writes. -/
def Obligations.SpecialRegisterWrites : Prop :=
  (∀ (n : BitVec 7) (hsel : Bool) (x : SReg) s gid, s.scalarGo (.group gid) .both (.sprw n hsel x) →
    let assigned := n.toNat ≤ 0x0c ∨ (0x10 ≤ n.toNat ∧ n.toNat ≤ 0x14) ∨ (0x18 ≤ n.toNat ∧ n.toNat ≤ 0x1a)
    let v := s.sreg (.group gid) x.toNat
    let half := if (s.group gid).converged then gid + (if hsel then 1 else 0) else gid
    let on (t : State) : Prop := exec (.sprw n hsel x) s = .next (t.setPc (.group gid) (wordsFrom (s.group gid).pc 1))
    (¬assigned → exec (.sprw n hsel x) s = .next (s.trap (.group gid) 2 5 (scalarTval (.sprw n hsel x)))) ∧
    (n.toNat = 1 → fmtLegal (v.toNat % 2 ^ 14) = false →
      exec (.sprw n hsel x) s = .next (s.trap (.group gid) 2 4 (scalarTval (.sprw n hsel x)))) ∧
    (s.lanesCompleted gid = true →
      (n.toNat = 0x00 → on (s.modGroup half (fun g => { g with fflags := v.setWidth 32 &&& 0x3f }))) ∧
      (n.toNat = 0x01 → fmtLegal (v.toNat % 2 ^ 14) = true →
        on (s.modGroup half (fun g => { g with fmt := BitVec.ofNat 32 (v.toNat % 2 ^ 14) }))) ∧
      (n.toNat = 0x05 → on (s.modGroup half (fun g => { g with dither := v.setWidth 32 })))) ∧
    (n.toNat = 0x02 → on (s.modGroup half (fun g => { g with exm := v &&& allLanes g.w &&& ~~~g.deadm }))) ∧
    (∀ k, k < 5 → n.toNat = 0x10 + k →
      on (s.modCore (s.coreOf gid) (fun c => { c with terms := tabSet 0 c.terms (5 * (s.group half).quarter + k) v }))) ∧
    ((s.group gid).trapMode = true →
      (n.toNat = 0x18 → on (s.modGroup half (fun g => { g with tcause := v.setWidth 32 }))) ∧
      (n.toNat = 0x19 → on (s.modGroup half (fun g => { g with tepc := v.toNat }))) ∧
      (n.toNat = 0x1a → on (s.modGroup half (fun g => { g with tval := v })))) ∧
    ((s.group gid).trapMode = false → 0x18 ≤ n.toNat → n.toNat ≤ 0x1a → on s) ∧
    ((n.toNat = 3 ∨ n.toNat = 4 ∨ (6 ≤ n.toNat ∧ n.toNat ≤ 0x0c)) → on s)) ∧
  ∀ (n : BitVec 7) (hsel : Bool) (x : SReg) s sl, s.scalarGo (.bdc sl) .both (.sprw n hsel x) →
    let assigned := n.toNat = 0 ∨ n.toNat = 1 ∨ n.toNat = 0x0c ∨ (0x18 ≤ n.toNat ∧ n.toNat ≤ 0x1a) ∨ (0x20 ≤ n.toNat ∧ n.toNat ≤ 0x22)
    let v := s.sreg (.bdc sl) x.toNat
    (¬assigned → exec (.sprw n hsel x) s = .next (s.trap (.bdc sl) 2 5 (scalarTval (.sprw n hsel x)))) ∧
    (n.toNat = 1 → fmtLegal (v.toNat % 2 ^ 14) = false →
      exec (.sprw n hsel x) s = .next (s.trap (.bdc sl) 2 4 (scalarTval (.sprw n hsel x)))) ∧
    (n.toNat = 0x00 → exec (.sprw n hsel x) s =
      .next (s.modBdc sl (fun c => { c with fflags := v.setWidth 32 &&& 0x3f, pc := wordsFrom c.pc 1, wait := none }))) ∧
    (n.toNat = 0x01 → fmtLegal (v.toNat % 2 ^ 14) = true → exec (.sprw n hsel x) s =
      .next (s.modBdc sl (fun c => { c with fmt := BitVec.ofNat 32 (v.toNat % 2 ^ 14), pc := wordsFrom c.pc 1, wait := none }))) ∧
    ((n.toNat = 0x0c ∨ (0x18 ≤ n.toNat ∧ n.toNat ≤ 0x1a) ∨ (0x20 ≤ n.toNat ∧ n.toNat ≤ 0x22)) →
      ∃ t, exec (.sprw n hsel x) s = .next t ∧ s.went t (.bdc sl) (wordsFrom (s.bdc sl).pc 1))

/-- R151, R326, R328, R330. That the entry clears the rendezvous and the rejoin wait is the model's reading (log entry 31). -/
def Obligations.TrapEntryRouted : Prop :=
  (∀ (s : State) gid cls cause (tval : Word64) (after : Bool), 1 ≤ cls → cls ≤ 13 → cause < 256 → s.live gid = true →
    s.ctxOf gid = gid → (s.group gid).trapMode = false → s.routed gid cls = true → (cls = 10 → s.takesOn gid = false) →
    (cls = 13 → (s.world (s.worldOf gid)).dbg.attach = false) → (after = true → cause = 0) →
    let t := if after then s.trapAfter (.group gid) cls tval else s.trap (.group gid) cls cause tval
    (t.group gid).tcause = BitVec.ofNat 32 (cls + 256 * cause) ∧ (t.group gid).tval = tval ∧
      (t.group gid).tepc = (if after then wordsFrom (s.group gid).pc 1 else (s.group gid).pc % 2 ^ 64) ∧
      (t.group gid).trapMode = true ∧
      (t.group gid).pc = ((s.launchOf gid).obj + (s.headerOf gid).scodeOff + (s.launchOf gid).hoff) % 2 ^ 64 ∧
      t.group gid =
        { s.group gid with
          tcause := (t.group gid).tcause
          tepc := (t.group gid).tepc
          tval := tval
          trapMode := true
          pc := (t.group gid).pc
          jwait := false
          wait := none
          lwait := none
          rdv := none
          accs := (t.group gid).accs
          ifc := (t.group gid).ifc } ∧
      (t.group gid).accs = (s.group gid).accs.filter (fun b =>
        (s.group gid).wait != some (.trans b.aid) && (s.group gid).lwait != some (.trans b.aid)) ∧
      ((t.group gid).accs = (s.group gid).accs → (t.group gid).ifc = (s.group gid).ifc) ∧
      (∀ k, k ≠ gid → (s.group gid).converged = false → t.group k = s.group k) ∧
      (∀ r : SReg, t.sreg (.group gid) r.toNat = s.sreg (.group gid) r.toNat) ∧ ∀ pa, t.memByte pa = s.memByte pa) ∧
  ∀ (imm : BitVec 19) s a,
    (s.scalarGo a .both (.trap imm) → exec (.trap imm) s = .next (s.trapAfter a 12 (BitVec.ofNat 64 imm.toNat))) ∧
    (s.scalarGo a .both (.brk imm) → exec (.brk imm) s = .next (s.trapAfter a 13 (BitVec.ofNat 64 imm.toNat)))

/-- R325, R226, R383, R387. -/
def Obligations.RingTermination : Prop :=
  ∀ (s : State) gid cls cause (tval : Word64), 1 ≤ cls → cls ≤ 13 → s.live gid = true → s.ctxOf gid = gid →
    (s.group gid).trapMode = false → s.routed gid cls = false → (cls = 10 → s.takesOn gid = false) →
    (cls = 13 → (s.world (s.worldOf gid)).dbg.attach = false) → (s.group gid).tid = gid / 16 →
    (tabFind s.troupes (gid / 16)).isSome = true → (tabFind s.launches (s.troupe (gid / 16)).lid).isSome = true →
    let lid := (s.troupe (gid / 16)).lid
    let t := s.trap (.group gid) cls cause tval
    (∀ k, k ∈ s.launchGroups lid →
      if (s.group k).adrift = [] then t.live k = false
      else (t.group k).ended = true ∧ (t.group k).laneq = [] ∧ (t.group k).accs = [] ∧ (t.group k).engq = (s.group k).adrift) ∧
      (∀ k, k / 16 ∉ s.troupesOf lid → t.group k = s.group k) ∧
      (t.launch lid).failed = true ∧
      ((s.launch lid).failed = false → (t.launch lid).endc = 1 ∧ (t.launch lid).cls = cls) ∧
      (∃ e : List Byte, (s.worldOf gid, e) ∈ t.logPend ∧ e.length = 64 ∧ e.head? = some 0x10) ∧
      ∀ pa, t.memByte pa = s.memByte pa

/-- R152; what becomes of the lane queue with neither LSKIP nor LDROP in effect is R331's. -/
def Obligations.ReturnFromTrap : Prop :=
  (∃ op : BitVec 7, encodeScalar .rte = some (op ++ 0#25)) ∧
  (∀ s gid, s.scalarGo (.group gid) .both .rte →
    ((s.group gid).trapMode = false → exec .rte s = .next (s.trap (.group gid) 1 4 (scalarTval .rte))) ∧
    ((s.group gid).trapMode = true → (s.group gid).tepc % 4 = 0 →
      ∃ t, exec .rte s = .next t ∧ t.pcOf (.group gid) = (s.group gid).tepc ∧ (t.group gid).trapMode = false ∧
        ((s.group gid).tcause.getLsbD 4 = false ∨
            ((s.group gid).tcause.getLsbD 6 = false ∧ (s.group gid).tcause.getLsbD 7 = false) →
          t = s.modGroup gid (fun g => { g with pc := g.tepc, trapMode := false, wait := none }))) ∧
    ((s.group gid).trapMode = true → (s.group gid).tepc % 4 ≠ 0 →
      exec .rte s = .next (s.trap (.group gid) 3 1 (BitVec.ofNat 64 (s.group gid).tepc)))) ∧
  ∀ s sl, s.scalarGo (.bdc sl) .both .rte → exec .rte s = .next (s.trap (.bdc sl) 1 4 (scalarTval .rte))

/-- R328, R415. -/
def Obligations.TrapOfBaseDieCore : Prop :=
  ∀ (s : State) sl lid cls cause (tval : Word64), 1 ≤ cls → cls ≤ 13 → cause < 256 → (s.bdc sl).lid = some lid →
    (tabFind s.launches lid).isSome = true → (s.launch lid).failed = false →
    let t := s.trap (.bdc sl) cls cause tval
    (t.bdc sl).tcause = BitVec.ofNat 32 (cls + 256 * cause) ∧ (t.bdc sl).tepc = (s.bdc sl).pc % 2 ^ 64 ∧
      (t.bdc sl).tval = tval ∧ (t.bdc sl).lid = none ∧ (t.slice sl).err.cause = 7 ∧ (t.slice sl).err.bank = cls ∧
      (t.slice sl).err.tval = tval ∧ (t.slice sl).err.trapCause = cause ∧
      (t.launch lid).ended = true ∧ (t.launch lid).endc = 1 ∧ (t.launch lid).cls = cls ∧ ∀ pa, t.memByte pa = s.memByte pa

/-- R96, R103, R104, R116. -/
def Obligations.ScalarWordsHeld : Prop :=
  (∀ (i : Instr) (w : BitVec 32) s a, encodeScalar i = some w → s.running = some a →
    (coreOk (agentKind a) i = false → exec i s = .next (s.trap a 1 1 (w.setWidth 64))) ∧
    (coreOk (agentKind a) i = true → fieldOk i = false → exec i s = .next (s.trap a 1 0 (w.setWidth 64)))) ∧
  (∀ s a, s.running = some a →
    (agentKind a = .base → exec .join s = .next (s.trap a 1 1 (scalarTval .join)) ∧
      exec .twjoin s = .next (s.trap a 1 1 (scalarTval .twjoin))) ∧
    (agentKind a = .compute → ∀ x : SReg, exec (.mbxput x) s = .next (s.trap a 1 1 (scalarTval (.mbxput x))))) ∧
  (∀ (x : SReg) s gid, s.running = some (.group gid) →
    exec (.setexm x 3) s = .next (s.trap (.group gid) 1 0 (scalarTval (.setexm x 3)))) ∧
  (∀ (d x y : SReg) s gid k (acc : Access), s.running = some (.group gid) →
    s.scalarPending gid (.add d x y) = some (k, acc) → acc.refusal = none →
    exec (.add d x y) s = .next (s.modGroup gid (fun g => { g with wait := some (.operand k acc.aid) }))) ∧
  ∀ cls cause (tval : Word64) s a, s.running = some a →
    exec (.notAnInstruction cls cause false tval) s = .next (s.trap a cls cause tval)

/-- R216, R219 to R223, R225: issue of the engine commands whose operands are legal. -/
def Obligations.EngineIssue : Prop :=
  ∀ (k : Option (BitVec 3)) (d x y : SReg) s gid,
    let vd := s.sreg (.group gid) d.toNat
    let va := s.sreg (.group gid) x.toNat
    let vb := s.sreg (.group gid) y.toNat
    let bound := spadBytes (s.headerOf gid)
    let copies (mode : CpyMode) : Prop :=
      ((cpyMem mode).1 = true ∨ (va.toNat < 2 ^ 35 ∧ rowsWithin bound (va.toNat % 2 ^ 32) (cpyRowb vb) (cpyRows vb) (cpySpitch vb))) ∧
      ((cpyMem mode).2 = true ∨ (vd.toNat < 2 ^ 35 ∧ rowsWithin bound (vd.toNat % 2 ^ 32) (cpyRowb vb) (cpyRows vb) (cpyDpitch vb)))
    let lists (spad base : Word64) : Prop :=
      vb.toNat < 5 * 2 ^ 48 ∧ spad.toNat < 2 ^ 35 ∧ gthIdx vb % 4 = 0 ∧ base.toNat % gthElem vb = 0 ∧
        rowsWithin bound (gthIdx vb) (4 * gthCount vb) 1 0 ∧ rowsWithin bound (spad.toNat % 2 ^ 32) (gthCount vb * gthElem vb) 1 0
    (∀ mode, s.scalarGo (.group gid) .computeOnly (.cpy k mode d x y) → s.cmdRoom gid .copy k (cpyMem mode).2 → copies mode →
      ∃ t, exec (.cpy k mode d x y) s = .next t ∧ s.issuedCmd t gid .copy (.cpy mode) vd va vb 0 k) ∧
    (∀ mode vf, vf = s.sreg (.group gid) (y.toNat + 1) → s.scalarGo (.group gid) .computeOnly (.cpyw k mode d x y) →
      s.cmdRoom gid .copy k true → copies mode → vf.toNat < 6 * 2 ^ 57 → vf.toNat % 8 = 0 →
      ∃ t, exec (.cpyw k mode d x y) s = .next t ∧ s.issuedCmd t gid .copy (.cpyw mode) vd va vb vf k) ∧
    (s.scalarGo (.group gid) .computeOnly (.gth k d x y) → s.cmdRoom gid .gath k false → lists vd va →
      ∃ t, exec (.gth k d x y) s = .next t ∧ s.issuedCmd t gid .gath .gth vd va vb 0 k) ∧
    (s.scalarGo (.group gid) .computeOnly (.sct k d x y) → s.cmdRoom gid .gath k true → lists va vd →
      ∃ t, exec (.sct k d x y) s = .next t ∧ s.issuedCmd t gid .gath .sct vd va vb 0 k) ∧
    (∀ mode, s.scalarGo (.group gid) .computeOnly (.coll k mode d x y) → s.cmdRoom gid .coll k true →
      vb.toNat / 2 ^ 16 % 16 < 5 → s.anyParked gid = false →
      ∃ t, exec (.coll k mode d x y) s = .next t ∧ s.issuedCmd t gid .coll (.coll mode) vd va vb 0 k) ∧
    ∀ fin sl, s.scalarGo (.group gid) .computeOnly (.bnk k fin d x y) → s.cmdRoom gid .bank k true →
      va.toNat < 2 ^ 32 → va.toNat / 2 ^ 8 % 2 ^ 8 = 0 → (s.world (s.worldOf gid)).slices[va.toNat % 256]? = some sl →
      ∃ t, exec (.bnk k fin d x y) s = .next t ∧
        s.issuedCmd t gid .bank (.bnk fin) vd va vb (BitVec.ofNat 64 sl) k

/-- R218 to R223, R225: the issue checks. TVAL of the bound trap and of BNK's slice is log entry 29's reading, the order of
GTH's and SCT's checks entry 10's, and cause 6 for reserved bits of a scratchpad register and of BNK's target entry 58's. -/
def Obligations.EngineIssueTraps : Prop :=
  ∀ (k : Option (BitVec 3)) (d x y : SReg) s gid,
    let vd := s.sreg (.group gid) d.toNat
    let va := s.sreg (.group gid) x.toNat
    let vb := s.sreg (.group gid) y.toNat
    let bound := spadBytes (s.headerOf gid)
    let traps (i : Instr) (cls cause : Nat) (tval : Word64) : Prop :=
      s.scalarGo (.group gid) .computeOnly i → exec i s = .next (s.trap (.group gid) cls cause tval)
    (2 ^ 35 ≤ vd.toNat → traps (.cpy k .ms d x y) 2 6 (scalarTval (.cpy k .ms d x y))) ∧
    (2 ^ 35 ≤ va.toNat → traps (.cpy k .sm d x y) 2 6 (scalarTval (.cpy k .sm d x y))) ∧
    (vd.toNat < 2 ^ 32 → bound ≤ vd.toNat → 0 < cpyRowb vb → 0 < cpyRows vb →
      traps (.cpy k .ms d x y) 4 4 vd) ∧
    (∀ vf : Word64, vf = s.sreg (.group gid) (y.toNat + 1) → 6 * 2 ^ 57 ≤ vf.toNat →
      traps (.cpyw k .mm d x y) 2 6 (scalarTval (.cpyw k .mm d x y))) ∧
    (∀ vf : Word64, vf = s.sreg (.group gid) (y.toNat + 1) → vf.toNat < 2 ^ 57 → vf.toNat % 8 ≠ 0 →
      traps (.cpyw k .mm d x y) 3 0 vf) ∧
    (5 * 2 ^ 48 ≤ vb.toNat →
      traps (.gth k d x y) 2 6 (scalarTval (.gth k d x y)) ∧ traps (.sct k d x y) 2 6 (scalarTval (.sct k d x y))) ∧
    (2 ^ 35 ≤ vd.toNat → traps (.gth k d x y) 2 6 (scalarTval (.gth k d x y))) ∧
    (2 ^ 35 ≤ va.toNat → traps (.sct k d x y) 2 6 (scalarTval (.sct k d x y))) ∧
    (vb.toNat < 5 * 2 ^ 48 →
      (vd.toNat < 2 ^ 35 → vb.toNat % 4 ≠ 0 → traps (.gth k d x y) 3 0 (BitVec.ofNat 64 (vb.toNat % 2 ^ 32))) ∧
      (va.toNat < 2 ^ 35 → vb.toNat % 4 ≠ 0 → traps (.sct k d x y) 3 0 (BitVec.ofNat 64 (vb.toNat % 2 ^ 32))) ∧
      (vd.toNat < 2 ^ 35 → vb.toNat % 4 = 0 → va.toNat % gthElem vb ≠ 0 → traps (.gth k d x y) 3 0 va) ∧
      (va.toNat < 2 ^ 35 → vb.toNat % 4 = 0 → vd.toNat % gthElem vb ≠ 0 → traps (.sct k d x y) 3 0 vd)) ∧
    (∀ mode, 5 ≤ vb.toNat / 2 ^ 16 % 16 → traps (.coll k mode d x y) 2 6 (scalarTval (.coll k mode d x y))) ∧
    (∀ fin, (2 ^ 32 ≤ va.toNat ∨ va.toNat / 2 ^ 8 % 2 ^ 8 ≠ 0) → traps (.bnk k fin d x y) 2 6 (scalarTval (.bnk k fin d x y))) ∧
    ∀ fin, va.toNat < 256 → (s.world (s.worldOf gid)).slices[va.toNat]? = none → traps (.bnk k fin d x y) 4 7 va

/-- R228, R313. -/
def Obligations.BarrierForm : Prop :=
  ∀ (kind : BarKind) (h : BitVec 5) s gid, s.scalarGo (.group gid) .computeOnly (.bar kind false h 0 none) →
    (s.group gid).converged = false → s.lanesIssued gid = true → s.anyParked gid = false → s.takesOn gid = false →
    (s.group gid).resumeWait = [] → (s.troupe (s.group gid).tid).replay = [] →
    let i := Instr.bar kind false h 0 none
    let entry := tabGet 0 (s.world (s.worldOf gid)).handles h.toNat
    let level := entry.toNat / 2 ^ 13 % 4
    let num := entry.toNat / 2 ^ 9 % 16
    let key := s.barrierKey gid level num
    let b := s.barrier key
    let members := s.membersOf gid level num
    let misuse (cause : Nat) : Prop := exec i s = .next (s.bumpFree.trap (.group gid) 8 cause (Config.freeTval s.free))
    let next := wordsFrom (s.group gid).pc 1
    ((entry.getLsbD 15 = false ∨ barrierCount level ≤ num) → misuse 0) ∧
    (entry.getLsbD 15 = true → num < barrierCount level → gid ∉ members → misuse 1) ∧
    (entry.getLsbD 15 = true → num < barrierCount level → gid ∈ members →
      (kind = .wait → tabFind b.records gid = none → misuse 3) ∧
      (kind = .wait → ∀ p, tabFind b.records gid = some p → p ≠ b.phase → (s.world (s.worldOf gid)).dbg.step = none →
        ∃ t, exec i s = .next t ∧ (t.group gid).pc = next ∧ tabFind (t.barrier key).records gid = none ∧
          (t.barrier key).phase = b.phase ∧ (t.barrier key).arrived = b.arrived) ∧
      (kind = .wait → tabFind b.records gid = some b.phase →
        exec i s = .next (s.modGroup gid (fun g => { g with wait := some (.barrier key b.phase) }))) ∧
      (kind ≠ .wait → tabFind b.records gid = some b.phase → misuse 2) ∧
      (kind = .arrive → tabFind b.records gid ≠ some b.phase →
        ∃ t, exec i s = .next t ∧ (t.group gid).pc = next ∧ tabFind (t.barrier key).records gid = some b.phase ∧
          ((∀ m ∈ members, m ∈ b.arrived ∨ m = gid) → (t.barrier key).phase = b.phase + 1 ∧ (t.barrier key).arrived = []) ∧
          (∀ m ∈ members, m ∉ b.arrived → m ≠ gid → (t.barrier key).phase = b.phase ∧
            (t.barrier key).arrived = gid :: b.arrived)) ∧
      (kind = .sync → tabFind b.records gid ≠ some b.phase → (s.world (s.worldOf gid)).dbg.step = none →
        ∃ t, exec i s = .next t ∧
          ((∀ m ∈ members, m ∈ b.arrived ∨ m = gid) → (t.group gid).pc = next ∧ (t.group gid).wait = none ∧
            (t.barrier key).phase = b.phase + 1 ∧ tabFind (t.barrier key).records gid = none) ∧
          (∀ m ∈ members, m ∉ b.arrived → m ≠ gid → (t.group gid).pc = (s.group gid).pc ∧
            (t.group gid).wait = some (.barrier key b.phase) ∧ (t.group gid).resumeWait = [(s.group gid).pc] ∧
            tabFind (t.barrier key).records gid = some b.phase)))

/-- R227, R229 to R231, R239, R286, R292. -/
def Obligations.FenceForms : Prop :=
  (∀ kind sc s sl, s.scalarGo (.bdc sl) .both (.fence kind sc) →
    ∃ t, exec (.fence kind sc) s = .next t ∧ s.went t (.bdc sl) (wordsFrom (s.bdc sl).pc 1)) ∧
  ∀ s gid, s.lanesIssued gid = true → s.takesOn gid = false → s.anyParked gid = false →
    let read (sc : Scope) : Prop :=
      ∀ k ∈ s.halvesOf gid, s.allPerformed k sc true = true ∧ s.tookPerformed k sc = true ∧ s.matrixRead k = true
    let settled (sc : Scope) : Prop :=
      ∀ k ∈ s.halvesOf gid, s.allPerformed k sc false = true ∧ s.tookGoes k sc ((s.core (s.coreOf gid)).dirtyBelow sc) ∧
        s.matrixRead k = true
    let core := s.coreOf gid
    let next := wordsFrom (s.group gid).pc 1
    let canGo (ks : List Nat) : Prop := (∀ k ∈ ks, s.canWriteBack core k = true ∧ 64 * k < deviceBytes) ∧
      tabSorted (s.core core).l1 = true ∧ ∀ e ∈ (s.core core).wbuf, e.side ≠ 1
    (∀ sc, s.scalarGo (.group gid) .both (.fence .acq sc) → scopeRank sc ≤ 1 → read sc →
      ∃ t, exec (.fence .acq sc) s = .next t ∧ (s.noAhead gid).went t (.group gid) next) ∧
    (∀ sc, s.scalarGo (.group gid) .both (.fence .acq sc) → 2 ≤ scopeRank sc → read sc →
      ∃ t, exec (.fence .acq sc) s = .next t ∧ t.pcOf (.group gid) = next ∧
        (t.core core).l1 = (s.core core).l1.filter (fun p => p.2.dirty != 0) ∧
        (∀ r : SReg, t.sreg (.group gid) r.toNat = s.sreg (.group gid) r.toNat) ∧ ∀ a, t.memByte a = s.memByte a) ∧
    (∀ kind sc, (kind = .rel ∨ (kind = .ar ∧ scopeRank sc ≤ 1)) →
      s.scalarGo (.group gid) .both (.fence kind sc) → settled sc →
      (scopeRank sc ≤ 1 ∨ ∀ e ∈ (s.core core).wbuf, e.booth = false) → canGo ((s.core core).dirtyBelow sc) →
      ∃ t, exec (.fence kind sc) s = .next t ∧ t.pcOf (.group gid) = next ∧ (t.core core).dirtyBelow sc = [] ∧
        ∀ r : SReg, t.sreg (.group gid) r.toNat = s.sreg (.group gid) r.toNat) ∧
    (∀ pa pb sc, s.scalarGo (.group gid) .computeOnly (.pfence pa pb sc) → pa ≠ .ls →
      (∀ k ∈ s.halvesOf gid, s.pathPerformed k pa sc = true ∧ (pa = .mtx → s.matrixRead k = true)) →
      ∃ t, exec (.pfence pa pb sc) s = .next t ∧ t.pcOf (.group gid) = next ∧
        (∀ r : SReg, t.sreg (.group gid) r.toNat = s.sreg (.group gid) r.toNat) ∧
        ((pb = .ls ∧ (pa = .copy ∨ pa = .gath ∨ pa = .coll ∨ pa = .bank)) → ∀ p ∈ (t.core core).l1, p.2.dirty ≠ 0) ∧
        ∀ a, t.memByte a = s.memByte a) ∧
    (∀ pb sc, s.scalarGo (.group gid) .computeOnly (.pfence .ls pb sc) →
      (∀ k ∈ s.halvesOf gid, s.pathPerformed k .ls sc = true) →
      let home := pb = .const ∨ pb = .copy ∨ pb = .gath ∨ pb = .coll ∨ pb = .bank
      let ks := if home then (s.core core).dirtySectors else (s.core core).dirtyBelow sc
      (∀ k ∈ s.halvesOf gid, s.tookGoes k (if home then .sys else sc) ks ∧
        (home → ∀ e ∈ (s.core core).wbuf, e.side = 0 → e.gid ≠ k)) →
      canGo ks →
      ∃ t, exec (.pfence .ls pb sc) s = .next t ∧ t.pcOf (.group gid) = next ∧
        (home → (t.core core).dirtySectors = []) ∧ (¬home → (t.core core).dirtyBelow sc = []) ∧
        ∀ r : SReg, t.sreg (.group gid) r.toNat = s.sreg (.group gid) r.toNat) ∧
    ∀ p (n : BitVec 6), s.scalarGo (.group gid) .computeOnly (.waitp p n) →
      ((∀ k ∈ s.halvesOf gid, (s.group k).count p ≤ n.toNat) →
        ∃ t, exec (.waitp p n) s = .next t ∧ (s.noAhead gid).went t (.group gid) next) ∧
      ((∃ k ∈ s.halvesOf gid, n.toNat < (s.group k).count p) → s.refusedOf gid = none →
        exec (.waitp p n) s = .next (s.modGroup gid (fun g => { g with wait := some (.counter p n.toNat) })))

/-- R131, R234. -/
def Obligations.ScalarAtomics : Prop :=
  ∀ (op : AtomOp) (sc : Scope) (d x y : SReg) s gid (A pa : Nat), A = (s.sreg (.group gid) x.toNat).toNat →
    s.scalarGo (.group gid) .computeOnly (.satom op sc d x y) →
    (A % 8 ≠ 0 → exec (.satom op sc d x y) s = .next (s.trap (.group gid) 3 0 (BitVec.ofNat 64 A))) ∧
    (A % 8 = 0 → s.takesOn gid = false → (s.group gid).room .atom → s.hits gid A .write pa true → pa < deviceBytes →
      ∃ t, exec (.satom op sc d x y) s = .next t ∧
        s.issuedScalar t gid
          { aid := (s.group gid).nextAid, path := .atom, op := .atom op true, space := .mem, size := 8, scope := sc,
            lanes := [{ lane := 64, addr := A, data := (if op = .cas then natBytes 8 (s.sreg (.group gid) d.toNat).toNat else []) ++
                          natBytes 8 (s.sreg (.group gid) y.toNat).toNat, pa := pa, stage := .ready, ro := false }],
            dest := .sreg d.toNat, pc := (s.group gid).pc, laneWord := false })

/-- R245, R246, R254 to R256. -/
def Obligations.BaseDieCoreForms : Prop :=
  (∀ (d x y : SReg) s sl, s.scalarGo (.bdc sl) .baseOnly (.brun d x y) →
    let a := (s.sreg (.bdc sl) x.toNat).toNat
    let b := (s.sreg (.bdc sl) y.toNat).toNat
    (2 ^ 21 ≤ a → exec (.brun d x y) s = .next (s.trap (.bdc sl) 2 6 (s.sreg (.bdc sl) x.toNat))) ∧
    (a < 2 ^ 21 → (b / 2 ^ 33 % 2 ^ 15 ≠ 0 ∨ 2 ^ 58 ≤ b) →
      exec (.brun d x y) s = .next (s.trap (.bdc sl) 2 6 (s.sreg (.bdc sl) y.toNat))) ∧
    (a < 2 ^ 21 → b / 2 ^ 33 % 2 ^ 15 = 0 → b < 2 ^ 58 →
      (b % 2 ^ 16 = 0 → ∃ t, exec (.brun d x y) s = .next t ∧ s.wrote t (.bdc sl) d 0) ∧
      (b % 2 ^ 16 ≠ 0 → exec (.brun d x y) s = .next (s.modBdc sl (fun c =>
        { c with
          brun := some
            { dest := d.toNat, mask := b % 2 ^ 16, rbase := b / 2 ^ 16 % 2 ^ 17, lbase := b / 2 ^ 48 % 2 ^ 10,
              fmt := c.fmt, next := a }
          wait := some .brun }))))) ∧
  (∀ (d : SReg) (nb : Bool) s sl, s.scalarGo (.bdc sl) .baseOnly (.mbxget d nb) → 0 < d.toNat → d.toNat < 62 →
    ((s.bdc sl).mbx = [] → nb = false →
      exec (.mbxget d nb) s = .next (s.modBdc sl (fun c => { c with wait := some .mailbox }))) ∧
    ((s.bdc sl).mbx = [] → nb = true → ∃ t, exec (.mbxget d nb) s = .next t ∧
      (∀ r : SReg, t.sreg (.bdc sl) r.toNat =
        if d.toNat ≤ r.toNat ∧ r.toNat ≤ d.toNat + 2 then 0 else s.sreg (.bdc sl) r.toNat) ∧
      t.pcOf (.bdc sl) = wordsFrom (s.bdc sl).pc 1 ∧ (t.bdc sl).opened = (s.bdc sl).opened ∧ (t.bdc sl).mbx = []) ∧
    ∀ m rest, (s.bdc sl).mbx = m :: rest → (m.info.getLsbD 48 = false ∨ (s.bdc sl).opened.length < 16) →
      ∃ t, exec (.mbxget d nb) s = .next t ∧ t.sreg (.bdc sl) d.toNat = m.w0 ∧ t.sreg (.bdc sl) (d.toNat + 1) = m.w1 ∧
        t.sreg (.bdc sl) (d.toNat + 2) = m.info ||| 0x8000000000000000 ∧
        (∀ r : SReg, (r.toNat < d.toNat ∨ d.toNat + 2 < r.toNat) → t.sreg (.bdc sl) r.toNat = s.sreg (.bdc sl) r.toNat) ∧
        (t.bdc sl).mbx = rest ∧
        (t.bdc sl).opened = (s.bdc sl).opened ++ (if m.info.getLsbD 48 then [m] else []) ∧
        t.pcOf (.bdc sl) = wordsFrom (s.bdc sl).pc 1 ∧ (∀ k, t.group k = s.group k) ∧ ∀ pa, t.memByte pa = s.memByte pa) ∧
  ∀ (x : SReg) s sl, s.scalarGo (.bdc sl) .baseOnly (.mbxput x) →
    let v := (s.sreg (.bdc sl) x.toNat).toNat % 2 ^ 49
    ((∀ m ∈ (s.bdc sl).opened, m.info.toNat % 2 ^ 49 ≠ v) →
      exec (.mbxput x) s = .next (s.trap (.bdc sl) 2 7 (scalarTval (.mbxput x)))) ∧
    ∀ m, (s.bdc sl).opened = [m] → m.info.toNat % 2 ^ 49 = v →
      ∃ t, exec (.mbxput x) s = .next t ∧ (t.bdc sl).opened = [] ∧ t.pcOf (.bdc sl) = wordsFrom (s.bdc sl).pc 1 ∧
        (∀ r : SReg, t.sreg (.bdc sl) r.toNat = s.sreg (.bdc sl) r.toNat) ∧ ∀ pa, t.memByte pa = s.memByte pa

/-- R155, R156, R158, R162 to R164: the integer forms. Shifts use five bits of B; division into fields truncates at bit
31. That BFE with S = 1 into a subfield clamps the signed field is the model's choice (log entry 58). -/
def Obligations.LaneIntegerForms : Prop :=
  ∀ (h : LaneHead) (imm : Option (BitVec 14)),
    let put (x : Word32 → Word32 → Word32 → Int) : LaneEnv → Nat → Word32 → Word32 × Word32 :=
      fun e l old => narrowI e.run.fmt h.md old (x (e.ia h l) (e.ibi h imm l) (e.ic h l))
    let one (x : Word32 → Int) : LaneEnv → Nat → Word32 → Word32 × Word32 :=
      fun e l old => narrowI e.run.fmt h.md old (x (e.ia h l))
    writesLane (.iadd h imm) h (put fun a b _ => a.toInt + b.toInt) ∧
    writesLane (.isub h imm) h (put fun a b _ => a.toInt - b.toInt) ∧
    writesLane (.imul h imm) h (put fun a b _ => a.toInt * b.toInt) ∧
    writesLane (.imulh h imm) h (put fun a b _ => a.toInt * b.toInt / 2 ^ 32) ∧
    writesLane (.imulhn h imm) h (put fun a b _ => (a.toNat * b.toNat / 2 ^ 32 : Nat)) ∧
    writesLane (.imad h imm) h (put fun a b c => a.toInt * b.toInt + c.toInt) ∧
    writesLane (.imin h imm) h (put fun a b _ => min a.toInt b.toInt) ∧
    writesLane (.imax h imm) h (put fun a b _ => max a.toInt b.toInt) ∧
    writesLane (.iminn h imm) h (put fun a b _ => (min a.toNat b.toNat : Nat)) ∧
    writesLane (.imaxn h imm) h (put fun a b _ => (max a.toNat b.toNat : Nat)) ∧
    writesLane (.laneAnd h imm) h (put fun a b _ => ((a &&& b).toNat : Int)) ∧
    writesLane (.laneOr h imm) h (put fun a b _ => ((a ||| b).toNat : Int)) ∧
    writesLane (.laneXor h imm) h (put fun a b _ => ((a ^^^ b).toNat : Int)) ∧
    writesLane (.laneShl h imm) h (put fun a b _ => (a.toNat * 2 ^ (b.toNat % 32) : Nat)) ∧
    writesLane (.laneShr h imm) h (put fun a b _ => (a.toNat / 2 ^ (b.toNat % 32) : Nat)) ∧
    writesLane (.laneSar h imm) h (put fun a b _ => a.toInt / 2 ^ (b.toNat % 32)) ∧
    writesLane (.rotl h imm) h (put fun a b _ =>
      ((a.toNat * 2 ^ (b.toNat % 32) % 2 ^ 32 + a.toNat / 2 ^ (32 - b.toNat % 32)) % 2 ^ 32 : Nat)) ∧
    writesLane (.iabs h) h (one fun a => max a.toInt (-a.toInt)) ∧
    writesLane (.ineg h) h (one fun a => -a.toInt) ∧
    writesLane (.inot h) h (one fun a => ((2 ^ 32 - 1 - a.toNat : Nat) : Int)) ∧
    writesLane (.popc h) h (one fun a => ((List.range 32).countP (fun k => a.getLsbD k) : Nat)) ∧
    writesLane (.clz h) h (one fun a => if a = 0 then 32 else 31 - (Nat.log2 a.toNat : Int)) ∧
    writesLane (.brev h) h (one fun a => ((a.reverse).toNat : Int)) ∧
    (∀ (pos : BitVec 5) (len : BitVec 6) (sgn : Bool),
      let n := min len.toNat (32 - pos.toNat)
      writesLane (.bfe h pos len sgn) h (one fun a =>
        let v := a.toNat / 2 ^ pos.toNat % 2 ^ n
        if sgn = true ∧ 0 < n ∧ 2 ^ (n - 1) ≤ v then (v : Int) - 2 ^ n else v)) ∧
    ∀ (pos : BitVec 5) (len : BitVec 6),
      let n := min len.toNat (32 - pos.toNat)
      writesLane (.bfi h pos len) h (fun e l old => narrowI e.run.fmt h.md old
        (((e.ib h l).toNat - ((e.ib h l).toNat / 2 ^ pos.toNat % 2 ^ n) * 2 ^ pos.toNat +
          (e.ia h l).toNat % 2 ^ n * 2 ^ pos.toNat : Nat)))

/-- R65, R67, R70, R90, R91, R163. -/
def Obligations.IntegerNarrowing : Prop :=
  (∀ (fmt old : Word32) (md : DstMod) (x : Int), md.sz = 0 →
    (narrowI fmt md old x).2 = 0 ∧ (((narrowI fmt md old x).1.toNat : Int) - x) % 2 ^ 32 = 0) ∧
  (∀ (fmt old : Word32) (md : DstMod) (x lo hi : Int) (bits : Nat),
    ((md.sz = 1 ∧ md.ix.toNat < 4 ∧ bits = 8 ∧ fmt.toNat % 4 = 2 ∧ lo = -128 ∧ hi = 127) ∨
      (md.sz = 1 ∧ md.ix.toNat < 4 ∧ bits = 8 ∧ fmt.toNat % 4 = 3 ∧ lo = 0 ∧ hi = 255) ∨
      (md.sz = 3 ∧ bits = 4 ∧ fmt.toNat / 16 % 4 = 1 ∧ lo = -8 ∧ hi = 7) ∨
      (md.sz = 3 ∧ bits = 4 ∧ fmt.toNat / 16 % 4 = 2 ∧ lo = 0 ∧ hi = 15)) →
    let r := narrowI fmt md old x
    r.1.toNat / 2 ^ (bits * md.ix.toNat) % 2 ^ bits = (max lo (min hi x) % 2 ^ bits).toNat ∧
    (∀ k : Nat, k < 32 → (k < bits * md.ix.toNat ∨ bits * md.ix.toNat + bits ≤ k) → r.1.getLsbD k = old.getLsbD k) ∧
    r.2 = if x < lo ∨ hi < x then flSat ||| flNv else 0) ∧
  ∀ (fmt w : Word32) (m : SrcMod) (bits : Nat) (sgn : Bool),
    ((m.sz = 1 ∧ m.ix.toNat < 4 ∧ bits = 8 ∧ fmt.toNat % 4 = (if sgn then 2 else 3)) ∨
      (m.sz = 3 ∧ bits = 4 ∧ fmt.toNat / 16 % 4 = (if sgn then 1 else 2))) →
    let v := w.toNat / 2 ^ (bits * m.ix.toNat) % 2 ^ bits
    (widenI32 fmt m w).toInt = if sgn = true ∧ 2 ^ (bits - 1) ≤ v then (v : Int) - 2 ^ bits else v

/-- R49, R155, R156, R167 to R176: what the floating-point forms write. That FRND with X = 0 still sets NV for a signalling
NaN is the model's choice (log entry 58). -/
def Obligations.LaneFloatForms : Prop :=
  ∀ (h : LaneHead) (ty : FTy),
    (∀ e : LaneEnv, ∀ l : Nat, ∀ k : Nat, k < 3 → e.operand h .f32 false k l =
      if k = 0 then e.fa h l else if k = 1 then e.fb h l else e.fc h l) ∧
    writesLane (.fadd h ty) h (fun e => e.arith h ty 2 (fun xs => xAdd (e.rdn h) (xAt xs 0) (xAt xs 1))) ∧
    writesLane (.fsub h ty) h (fun e => e.arith h ty 2 (fun xs => xAdd (e.rdn h) (xAt xs 0) (xOpp (xAt xs 1)))) ∧
    writesLane (.fmul h ty) h (fun e => e.arith h ty 2 (fun xs => xMul (xAt xs 0) (xAt xs 1))) ∧
    writesLane (.ffma h ty) h (fun e =>
      e.arith h ty 3 (fun xs => xAdd (e.rdn h) (xMul (xAt xs 0) (xAt xs 1)) (xAt xs 2))) ∧
    writesLane (.fmin h ty) h (fun e => e.choose h ty false) ∧
    writesLane (.fmax h ty) h (fun e => e.choose h ty true) ∧
    writesLane (.fclass h ty) h (fun e l old => clampFlags (narrowInt e.run.fmt h.md (e.rnd h false l) old (e.fclass h ty l))) ∧
    (∀ nx : Bool, writesLane (.frnd h ty nx) h (fun e => e.frnd h ty nx)) ∧
    writesLane (.fscale h ty) h (fun e => e.fscale h ty) ∧
    (∀ src dst : CvtFmt, writesLane (.cvt h src dst) h (fun e l old =>
      let x := cvtSource e.run.fmt h.ma src (e.raw h.va l)
      let r := cvtDest e.run.fmt h.md (e.rnd h false l) dst old x.1
      (r.1, x.2 ||| r.2))) ∧
    (∀ mode : BsMode, writesLane (.bscale h mode) h (fun e => e.bscale h mode)) ∧
    (∀ (f : Sf) (i : Instr),
      (f, i) ∈ [(Sf.rcp, Instr.rcp h), (.rsq, .rsq h), (.sqrt, .sqrt h), (.exp2, .exp2 h), (.log2, .log2 h),
        (.sinpi, .sinpi h), (.cospi, .cospi h), (.tanh, .tanh h)] →
      writesLane i h (fun e l old =>
        let a := e.fa h l
        let c := sfCode f e.run.fmt a.1
        let r := narrowCode e.run.fmt h.md (e.rnd h false l) old (BitVec.ofNat 32 c.1)
        (r.1, a.2 ||| c.2 ||| r.2))) ∧
    ∀ (pd : BitVec 7) (c : FCond),
      let at_ (high : Bool) (e : LaneEnv) (l : Nat) : Bool × Word32 :=
        let a := e.operand h ty high 0 l
        let b := e.operand h ty high 1 l
        ((fcmpVal c a.1 b.1).1, a.2 ||| b.2 ||| (fcmpVal c a.1 b.1).2)
      writesPreds (.fcmp h ty pd c) h (fun e =>
        if ty = .f32 then [(pd.toNat, at_ false e)] else [(pd.toNat, at_ false e), (pd.toNat + 1, at_ true e)])

/-- R58, R59, R69, R77, R168 to R170. -/
def Obligations.FloatRules : Prop :=
  (∀ (rdn : Bool) (x : XVal), xAdd rdn .nan x = .nan ∧ xAdd rdn x .nan = .nan ∧ xMul .nan x = .nan ∧ xMul x .nan = .nan) ∧
  (∀ (rdn s : Bool), xAdd rdn (.inf s) (.inf !s) = .nan ∧ xAdd rdn (.inf s) (.inf s) = .inf s) ∧
  (∀ (s t : Bool) (d : Nat) (e : Int), xMul (.inf s) (.fin t 0 d e) = .nan ∧ xMul (.fin t 0 d e) (.inf s) = .nan) ∧
  (∀ (r : Rnd), (xRound .f32 r .nan).1 = 0x7fc00000) ∧
  (∀ (xs : List (XVal × Word32)), (∀ p ∈ xs, p.1 ≠ .nan) → (madeFlags xs .nan).getLsbD 4 = true) ∧
  (∀ c : Nat, c < 2 ^ 32 → (xIsNan (rawVal .f32 c) = true ↔ 0x7f800000 < c % 2 ^ 31) ∧
    (rawVal .f32 c = .inf false ↔ c = 0x7f800000) ∧ (rawVal .f32 c = .inf true ↔ c = 0xff800000)) ∧
  (∀ (fmt : Word32) (c : Nat), c < 2 ^ 32 → 0x7f800000 < c % 2 ^ 31 → (readVal fmt .f32 c).1 = .nan ∧
    (readVal fmt .f32 c).2 = if c % 2 ^ 23 < 2 ^ 22 then flNv else 0) ∧
  (∀ c : Nat, c < 2 ^ 32 → c % 2 ^ 31 < 0x7f800000 → xRound .f32 { rm := 0 } (rawVal .f32 c) = (c, 0)) ∧
  (∀ (mx : Bool) (a b : Nat), a < 2 ^ 32 → b < 2 ^ 32 → xIsNan (rawVal .f32 a) = true →
    chooseCode .f32 mx a b = (if xIsNan (rawVal .f32 b) then 0x7fc00000 else b) ∧
    (xIsNan (rawVal .f32 b) = false → chooseCode .f32 mx b a = b)) ∧
  chooseCode .f32 false 0 0x80000000 = 0x80000000 ∧ chooseCode .f32 true 0x80000000 0 = 0 ∧
  (∀ (c : FCond) (x : XVal), c = .lt ∨ c = .le ∨ c = .gt ∨ c = .ge →
    fcmpVal c .nan x = (false, flNv) ∧ fcmpVal c x .nan = (false, flNv)) ∧
  ∀ x : XVal, fcmpVal .eq .nan x = (false, 0) ∧ fcmpVal .ne .nan x = (true, 0) ∧ fcmpVal .un x .nan = (true, 0) ∧
    fcmpVal .or x .nan = (false, 0)

/-- R99, R165, R166, R177 to R179, R194. That a uniform form reads a predicate source in its lowest active lane is the
model's reading (log entry 43): R156 speaks of vector-register sources. -/
def Obligations.LanePredicatesAndMoves : Prop :=
  ∀ h : LaneHead,
    (∀ (pd : BitVec 7) (c : ICond), writesPreds (.icmp h pd c) h (fun e => [(pd.toNat, fun l =>
      let a := e.ia h l
      let b := e.ib h l
      (match c with
        | .eq => decide (a = b)
        | .ne => decide (a ≠ b)
        | .lt => decide (a.toInt < b.toInt)
        | .le => decide (a.toInt ≤ b.toInt)
        | .gt => decide (b.toInt < a.toInt)
        | .ge => decide (b.toInt ≤ a.toInt)
        | .ltn => decide (a.toNat < b.toNat)
        | .len => decide (a.toNat ≤ b.toNat)
        | .gtn => decide (b.toNat < a.toNat)
        | .gen => decide (b.toNat ≤ a.toNat), 0))])) ∧
    (∀ (pd pa : BitVec 7) (na : Bool),
      let old (e : LaneEnv) (l : Nat) : Bool := (e.g.pr pd.toNat).getLsbD l
      let q (e : LaneEnv) (l : Nat) : Bool := (e.g.pr pa.toNat).getLsbD l ^^ na
      writesPreds (.pand h pd pa na) h (fun e => [(pd.toNat, fun l => (old e l && q e l, 0))]) ∧
      writesPreds (.por h pd pa na) h (fun e => [(pd.toNat, fun l => (old e l || q e l, 0))]) ∧
      writesPreds (.pxor h pd pa na) h (fun e => [(pd.toNat, fun l => (old e l ^^ q e l, 0))]) ∧
      writesPreds (.pnot h pd pa na) h (fun e => [(pd.toNat, fun l => (!q e l, 0))]) ∧
      writesPreds (.pmov h pd pa na) h (fun e => [(pd.toNat, fun l => (q e l, 0))])) ∧
    (∀ pa : BitVec 7, ∃ x : LaneEnv → Nat → Nat,
      (∀ e l k, k < 32 → (x e l).testBit k = (decide (pa.toNat + k < e.g.p) && (e.g.pr (pa.toNat + k)).getLsbD l)) ∧
      (∀ e l, x e l < 2 ^ 32) ∧ writesLane (.ptoi h pa) h (fun e l old => narrowInt e.run.fmt h.md (e.rnd h false l) old (x e l))) ∧
    (∀ (ps : BitVec 7) (ns : Bool), writesLane (.sel h ps ns) h (fun e l old =>
      narrowRaw h.md old (if ((e.g.pr ps.toNat).getLsbD l ^^ ns) = true then e.ia h l else e.ib h l))) ∧
    writesLane (.mov h) h (fun e l old => narrowRaw h.md old (e.ia h l)) ∧
    (∀ lo : BitVec 15, writesLane (.limm h lo) h (fun _ _ old =>
      narrowRaw h.md old (BitVec.ofNat 32 (lo.toNat + 2 ^ 15 * h.vb.toNat + 2 ^ 24 * (h.vc.toNat % 256))))) ∧
    (∀ nb : Bool,
      let num (e : LaneEnv) (v : BitVec 9) (l : Nat) : Nat :=
        (e.g.vr v.toNat l).toNat + 2 ^ 32 * (e.g.vr (v.toNat + 1) l).toNat + 2 ^ 64 * (e.g.vr (v.toNat + 2) l).toNat +
          2 ^ 96 * (e.g.vr (v.toNat + 3) l).toNat
      writesSpan (.cadd128 h nb) h 4 (fun e l k => BitVec.ofNat 32
        ((num e h.va l + (if nb then (e.raw h.vb l).toNat else num e h.vb l)) / 2 ^ (32 * k)))) ∧
    ∀ unit : Bool, writesSpan (.rngx h unit) h 4 (fun e l k =>
      (rngWords ((List.range 4).map (fun j => e.g.vr (h.va.toNat + j) l))
        (if isScalar h.vb then (e.s64 h.vb).setWidth 32 else e.g.vr h.vb.toNat l)
        (if isScalar h.vb then (e.s64 h.vb >>> 32).setWidth 32 else e.g.vr (h.vb.toNat + 1) l) unit).getD k 0)

/-- R155, R180 to R184. Whether a float REDUX or SCAN into a full register advances DITHER is the model's choice (log
entry 58). -/
def Obligations.CrossLaneForms : Prop :=
  ∀ h : LaneHead,
    (∀ (mode : ShflMode) (pv : BitVec 7) (imm : Option (BitVec 5)) (s : State) (gid : Nat),
      s.laneGo gid (.shfl h mode pv imm) h → (∀ m ∈ (s.group gid).poison, m.file ≠ 0) →
      let g := s.group gid
      let idx (e : LaneEnv) (l : Nat) : Int :=
        let n : Nat := match imm with
          | some k => k.toNat
          | none => (e.raw h.vb l).toNat % 64
        match mode with
        | .idx => n
        | .up => (l : Int) - n
        | .down => (l : Int) + n
        | .xor => ((l ^^^ n : Nat) : Int)
      let inside (e : LaneEnv) (l : Nat) : Bool := decide (0 ≤ idx e l) && decide (idx e l < g.w)
      let dead (e : LaneEnv) (l : Nat) : Bool := g.deadm.getLsbD (idx e l).toNat
      let e := s.wordEnv gid (.shfl h mode pv imm)
      ∃ t u : State, exec (.shfl h mode pv imm) s = .next (u.laneDone gid h.e) ∧
        s.laneWrote t gid (.shfl h mode pv imm) h (fun e l old => narrowRaw h.md old
          (if inside e l then (if dead e l then 0 else e.ia h (idx e l).toNat) else e.ia h l)) ∧
        (pv = 127 → u = t) ∧
        (pv ≠ 127 →
          (∀ l, l < g.w → ((u.group gid).pr pv.toNat).getLsbD l =
            if (g.laneSet h).getLsbD l then inside e (g.from h l) && !dead e (g.from h l) else (g.pr pv.toNat).getLsbD l) ∧
          (∀ k, k ≠ pv.toNat → (u.group gid).pr k = g.pr k) ∧
          u = t.modGroup gid (fun g => { g with preds := (u.group gid).preds, poison := (u.group gid).poison }))) ∧
    (∀ (pa : BitVec 7) (na : Bool) (mode : VoteMode) (s : State) (gid : Nat), s.laneGo gid (.vote h pa na mode) h →
      let g := s.group gid
      let i := Instr.vote h pa na mode
      let set := g.laneSet h &&& ~~~g.helpm
      ∃ ones : Mask, (∀ l, ones.getLsbD l = (decide (l < g.w) && set.getLsbD l && ((g.pr pa.toNat).getLsbD l ^^ na))) ∧
        ∃ t : State, exec i s = .next (t.laneDone gid h.e) ∧
          ((mode ≠ .ballot ∨ g.w ≠ 64) → s.laneWrote t gid i h (fun e l old => narrowInt e.run.fmt h.md (e.rnd h false l) old
            (match mode with
              | .any => if ones ≠ 0 then 1 else 0
              | .all => if ones = set then 1 else 0
              | .count => ((List.range 64).countP (fun l => ones.getLsbD l) : Nat)
              | .ballot => (ones.toNat : Int)))) ∧
          (mode = .ballot → g.w = 64 →
            (∀ r l, l < 64 → (t.group gid).vr r l =
              if (g.laneSet h).getLsbD l = true ∧ r = h.vd.toNat then ones.setWidth 32
              else if (g.laneSet h).getLsbD l = true ∧ r = h.vd.toNat + 1 then (ones >>> 32).setWidth 32 else g.vr r l) ∧
            (t.group gid).preds = g.preds ∧ (t.group gid).fflags = g.fflags ∧ s.laneFrame t gid i)) ∧
    (∀ (op : RedOp), redFloat op = false →
      let fold (e : LaneEnv) (ls : List Nat) : Word32 :=
        let f (z : Word32) (op : Word32 → Word32 → Word32) : Word32 := ls.foldl (fun acc l => op acc (e.ia h l)) z
        match op with
        | .iadd => f 0 (· + ·)
        | .imin => f 0x7fffffff (fun a b => if a.toInt ≤ b.toInt then a else b)
        | .imax => f 0x80000000 (fun a b => if a.toInt ≤ b.toInt then b else a)
        | .iminn => f 0xffffffff (fun a b => if a.toNat ≤ b.toNat then a else b)
        | .imaxn => f 0 (fun a b => if a.toNat ≤ b.toNat then b else a)
        | .and => f 0xffffffff (· &&& ·)
        | .or => f 0 (· ||| ·)
        | .xor => f 0 (· ^^^ ·)
        | _ => 0
      let put (e : LaneEnv) (l : Nat) (old v : Word32) : Word32 × Word32 :=
        narrowInt e.run.fmt h.md (e.rnd h false l) old (if op = .iadd ∨ op = .imin ∨ op = .imax then v.toInt else (v.toNat : Int))
      (∀ (s : State) (gid : Nat), s.laneGo gid (.redux h op) h → ∃ t : State, exec (.redux h op) s = .next (t.laneDone gid h.e) ∧
        s.laneWrote t gid (.redux h op) h (fun e l old =>
          put e l old (fold e (lanesOf (s.group gid).w ((s.group gid).laneSet h))))) ∧
      ∀ (excl : Bool) (s : State) (gid : Nat), s.laneGo gid (.scan h op excl) h →
        ∃ t : State, exec (.scan h op excl) s = .next (t.laneDone gid h.e) ∧
          s.laneWrote t gid (.scan h op excl) h (fun e l old =>
            put e l old (fold e ((lanesOf (s.group gid).w ((s.group gid).laneSet h)).filter
              (fun k => if excl then decide (k < l) else decide (k ≤ l)))))) ∧
    (∀ op : RedOp, redFloat op = true → ∀ (s : State) (gid : Nat),
      let step (fmt : Word32) (a b : Nat) : Nat × Word32 :=
        if op = .fadd then
          let x := readVal fmt .f32 a
          let y := readVal fmt .f32 b
          let z := xAdd false x.1 y.1
          let r := xRound .f32 { rm := 0, fmt := fmt } z
          (r.1, madeFlags [x, y] z ||| r.2)
        else
          let x := readHalf fmt .f32 a
          let y := readHalf fmt .f32 b
          (chooseCode .f32 (decide (op = .fmax)) x.1 y.1, x.2 ||| y.2)
      let first : Nat := match op with
        | .fadd => 0x80000000
        | .fmin => 0x7f800000
        | _ => 0xff800000
      let fold (e : LaneEnv) (ls : List Nat) : Nat × Word32 := ls.foldl (fun r l =>
        let q := step e.run.fmt r.1 (e.redIn h op l).1
        (q.1, r.2 ||| q.2)) (first, 0)
      let set := lanesOf (s.group gid).w ((s.group gid).laneSet h)
      let reads (e : LaneEnv) : Word32 := set.foldl (fun fl l => fl ||| (e.redIn h op l).2) 0
      let put (e : LaneEnv) (l : Nat) (old : Word32) (r : Nat × Word32) : Word32 × Word32 :=
        let n := narrowCode e.run.fmt h.md (e.rnd h false l) old (BitVec.ofNat 32 r.1)
        (n.1, n.2 ||| r.2 ||| reads e)
      (op ≠ .fadd → s.laneGo gid (.redux h op) h → ∃ t : State, exec (.redux h op) s = .next (t.laneDone gid h.e) ∧
        s.laneWrote t gid (.redux h op) h (fun e l old => put e l old (fold e set))) ∧
      (∀ excl : Bool, s.laneGo gid (.scan h op excl) h → ∃ t : State, exec (.scan h op excl) s = .next (t.laneDone gid h.e) ∧
        s.laneWrote t gid (.scan h op excl) h (fun e l old =>
          put e l old (fold e (set.filter (fun k => if excl then decide (k < l) else decide (k ≤ l)))))) ∧
      (s.laneGo gid (.redux h op) h → ∃ (t : State) (v : Nat) (fl : Word32),
        exec (.redux h op) s = .next (t.laneDone gid h.e) ∧
          (∀ l, lanesOf (s.group gid).w ((s.group gid).laneSet h) = [l] →
            v = ((s.wordEnv gid (.redux h op)).redIn h op l).1 ∧ fl = ((s.wordEnv gid (.redux h op)).redIn h op l).2) ∧
          s.laneWrote t gid (.redux h op) h (fun e l old =>
            let n := narrowCode e.run.fmt h.md (e.rnd h false l) old (BitVec.ofNat 32 v)
            (n.1, n.2 ||| fl)))) ∧
    ∀ (s : State) (gid : Nat), s.laneGo gid (.demote h) h → ∃ t : State, exec (.demote h) s = .next (t.laneDone gid h.e) ∧
      t.group gid = { s.group gid with helpm := (s.group gid).helpm ||| (s.group gid).laneSet h } ∧
      (∀ j, j ≠ gid → t.group j = s.group j) ∧ (∀ j, t.troupe j = s.troupe j) ∧ (∀ pa, t.memByte pa = s.memByte pa) ∧
      t = { s with groups := t.groups, troupes := t.troupes }

/-- R185. -/
def Obligations.GuardVote : Prop :=
  ∀ (h : LaneHead) (k : BitVec 3) (all : Bool) (pa : BitVec 7) (na : Bool) (s : State) (gid : Nat),
    let i := Instr.vguard h k all pa na
    let set (j : Nat) : Mask := (s.group j).pset h &&& ~~~(s.group j).helpm
    s.laneIssues gid i h.e → (∀ l, (s.group gid).hurtIn i l = none) →
    ∃ ones : Mask,
      (∀ l, ones.getLsbD l =
        (decide (l < (s.group gid).w) && (set gid).getLsbD l && (((s.group gid).pr pa.toNat).getLsbD l ^^ na))) ∧
      ((s.group gid).converged = false → ∃ t : State, exec i s = .next (t.laneDone gid h.e) ∧
        (t.guard gid k.toNat).st =
          (if (if all then ones = set gid else ones ≠ 0) then .resolvedTrue else .resolvedFalse) ∧
        (t.guard gid k.toNat).count = (s.guard gid k.toNat).count ∧
        (∀ j : BitVec 3, j ≠ k → t.guard gid j.toNat = s.guard gid j.toNat) ∧
        t = s.modGroup gid (fun g => { g with guards := (t.group gid).guards })) ∧
      ((s.group gid).converged = true → (s.group gid).isDouble = false → ∃ t : State, exec i s = .next (t.laneDone gid h.e) ∧
        t = s.modGroup gid (fun g =>
          { g with vote := some (k.toNat, all, decide (ones ≠ 0), decide (ones ≠ set gid)) })) ∧
      ((s.group gid).converged = true → (s.group gid).isDouble = true → s.live (leadOf gid) = true →
        ∀ yes no, (s.group (leadOf gid)).vote = some (k.toNat, all, yes, no) →
        ∃ t : State, exec i s = .next (t.laneDone gid h.e) ∧
          (t.guard gid k.toNat).st =
            (if (if all then ones = set gid ∧ no = false else ones ≠ 0 ∨ yes = true) then .resolvedTrue
              else .resolvedFalse) ∧
          (t.guard gid k.toNat).count = (s.guard gid k.toNat).count ∧
          (∀ j : BitVec 3, j ≠ k → t.guard gid j.toNat = s.guard gid j.toNat) ∧
          t = s.modGroup (leadOf gid) (fun g => { g with guards := (t.group (leadOf gid)).guards, vote := none }))

/-- R186 to R188. -/
def Obligations.RegroupForms : Prop :=
  (∀ (h : LaneHead) (count : BitVec 9) (pd : BitVec 6) (s : State) (gid : Nat),
    let i := Instr.regroup h count pd
    let g := s.group gid
    let who := ((s.wordEnv gid i).raw h.vb (lowestLane g.w g.runActive)).toNat
    s.laneIssues gid i h.e → g.twin = false → g.stack = [] → g.headRun.regroup = none → s.laneFree gid i →
    s.queueMisuse gid i false = none → s.queueWait gid i false = none → (∀ l, g.hurtIn i l = none) →
    who < (s.headerOf gid).grps → who ≠ gid % 16 →
    (s.live (16 * g.tid + who) = true → ∃ t : State, exec i s = .next t ∧
      t.group gid =
        { g with
          rdv := some { partner := some who, vbase := h.va.toNat, count := count.toNat, pd := pd.toNat,
                        addr := s.headAddr gid, e := h.e }
          lwait := some .meeting
          laneq := match g.laneq with
            | [] => []
            | r :: l => { r with regroup := some who } :: l } ∧
      (∀ j, j ≠ gid → t.group j = s.group j) ∧ ∀ pa, t.memByte pa = s.memByte pa) ∧
    (s.live (16 * g.tid + who) = false → ∃ t : State, exec i s = .next (t.laneDone gid h.e) ∧
      (∀ k l, ((t.group gid).pr k).getLsbD l =
        if k = pd.toNat ∧ g.runActive.getLsbD l = true then false else (g.pr k).getLsbD l) ∧
      (∀ r l, (t.group gid).vr r l = g.vr r l) ∧ (t.group gid).latch = none ∧ (t.group gid).exm = g.exm ∧
      (∀ j, j ≠ gid → t.group j = s.group j) ∧ ∀ pa, t.memByte pa = s.memByte pa)) ∧
  ∀ (s : State) (a b : Nat) (r q : Rendezvous),
    let f := s.group a
    let d := s.group b
    let from_ := (lanesOf f.w f.runActive).map (fun l => (false, l)) ++ (lanesOf d.w d.runActive).map (fun l => (true, l))
    a < b → s.live a = true → s.live b = true → f.tid = d.tid → b = 16 * f.tid + b % 16 → a = 16 * f.tid + a % 16 →
    f.rdv = some r → d.rdv = some q → r.partner = some (b % 16) → q.partner = some (a % 16) →
    s.regroupReady a = true → s.regroupReady b = true →
    (f.w < from_.length → ∀ gid, (gid = a ∨ gid = b) →
      exec (.regroupFuse gid) s = .next ((s.regroupNoFit a r.pd r.e).regroupNoFit b q.pd q.e)) ∧
    (from_.length ≤ f.w → f.w ≤ 64 → ∃ u : State,
      (∀ gid, (gid = a ∨ gid = b) → exec (.regroupFuse gid) s = .next ((u.laneDone a r.e).retire b)) ∧
      (∀ i l k, from_[i]? = some (false, l) → k < f.r → (u.group a).vr k i = f.vr k l) ∧
      (∀ i l k, from_[i]? = some (true, l) → k < f.r → r.vbase ≤ k → k < r.vbase + r.count → (u.group a).vr k i = d.vr k l) ∧
      (∀ i x l, from_[i]? = some (x, l) →
        let g := if x then d else f
        (∀ k, k < f.p → k ≠ r.pd → ((u.group a).pr k).getLsbD i = (g.pr k).getLsbD l) ∧
        (u.group a).helpm.getLsbD i = g.helpm.getLsbD l ∧ (u.group a).old i = g.old l) ∧
      (∀ i, from_.length ≤ i → (u.group a).helpm.getLsbD i = false) ∧
      (∀ i, i < from_.length → r.pd < f.p → ((u.group a).pr r.pd).getLsbD i = true) ∧
      (∀ i, (u.group a).exm.getLsbD i = decide (i < from_.length)) ∧ (u.group a).deadm = 0 ∧
      (u.group a).rdv = none ∧ (u.group a).fflags = f.fflags ||| d.fflags ∧ (u.group a).sregs = f.sregs ∧
      (∀ j, j ≠ a → u.group j = s.group j) ∧ ∀ pa, u.memByte pa = s.memByte pa)

/-- R93, R94, R145, R160, R196, R197. -/
def Obligations.LaneRuns : Prop :=
  (∀ (e : Bool) s gid, s.laneIssues gid (.laneNop e) e → exec (.laneNop e) s = .next (s.laneDone gid e)) ∧
  (∀ (s : State) (gid : Nat) (e : Bool) (r : Run) rest, s.live gid = true → (s.group gid).converged = false →
    (s.group gid).laneq = r :: rest →
    let after : List Run :=
      match r.rep with
      | some q =>
        if q.done + 1 < q.count then { r with rep := some { q with done := q.done + 1 }, leadDone := false, matrixLast := false } :: rest
        else if e then rest
        else { r with rep := none, next := r.next + 1, counted := r.counted + 1, leadDone := false, matrixLast := false } :: rest
      | none =>
        if e then rest
        else { r with next := r.next + 1, counted := r.counted + 1, leadDone := false, regroup := none, matrixLast := false } :: rest
    s.laneDone gid e = s.modGroup gid (fun g => { g with laneq := after, lwait := none })) ∧
  (∀ (s : State) (gid : Nat) (e : Bool) (r : Run) rest, s.live gid = true → (s.group gid).converged = true → (s.group gid).isDouble = false →
    (s.group gid).laneq = r :: rest →
    s.laneDone gid e = s.modGroup gid (fun g => { g with laneq := { r with leadDone := true } :: rest, lwait := none })) ∧
  (∀ (d a b c : BitVec 9) (n : BitVec 6) (s t : State) (gid : Nat) l, s.laneIssues gid (.rep d a b c n) true →
    (t.group gid).converged = false →
    s.fetchLane gid { (s.group gid).headRun with next := (s.group gid).headRun.next + 1 } = (t, .bytes l) →
    repTrap (s.group gid).headRun.counted d a b c l = none →
    ∃ u : State, exec (.rep d a b c n) s = .next u ∧
      u = t.modGroup gid (fun g =>
        { g with
          lwait := none
          laneq := match g.laneq with
            | [] => []
            | r :: rest =>
              { r with
                next := r.next + 1
                rep := some { d := d.toInt, a := a.toInt, b := b.toInt, c := c.toInt, done := 0, count := n.toNat + 1 } } :: rest })) ∧
  (∀ (q : RepState) (i : Instr) (h : LaneHead), laneHead i = some h →
    let at_ (v : BitVec 9) (step : Int) : Int := v.toNat + step * q.done
    let ok (v : BitVec 9) (step : Int) : Prop := 0 ≤ at_ v step ∧ at_ v step < 512
    (ok h.vd q.d ∧ ok h.va q.a ∧ ok h.vb q.b ∧ ok h.vc q.c →
      ∃ h' : LaneHead, repeated q i = some (withHead h' i) ∧ laneHead (withHead h' i) = some h' ∧
        (h'.vd.toNat : Int) = at_ h.vd q.d ∧ (h'.va.toNat : Int) = at_ h.va q.a ∧ (h'.vb.toNat : Int) = at_ h.vb q.b ∧
        (h'.vc.toNat : Int) = at_ h.vc q.c ∧ h' = { h with vd := h'.vd, va := h'.va, vb := h'.vb, vc := h'.vc }) ∧
    (¬(ok h.vd q.d ∧ ok h.va q.a ∧ ok h.vb q.b ∧ ok h.vc q.c) → repeated q i = none)) ∧
  ∀ (d a b c : BitVec 9) (n : BitVec 6) counted l i, decodeLaneBytes l = .ok i →
    (repTrap counted d a b c l = some 0 ↔ (repForbidden i = true ∨ repStepBad i d a b c = true)) ∧
    (repTrap counted d a b c l = some 5 ↔
      (repForbidden i = false ∧ repStepBad i d a b c = false ∧ 24 ≤ counted + 1 ∧ wordEnds i = false)) ∧
    repForbidden (.rep d a b c n) = true

/-- R94, R100, R103, R154, R161, R205. `VGUARD`, `REGROUP` and the matrix words have rules of their own for
empty sets. That `REGROUP` in a twin half traps before its operands are checked is the model's reading (log entry 42). -/
def Obligations.LaneWordChecks : Prop :=
  ∀ (i : Instr) (h : LaneHead), laneHead i = some h → isBankForm i = false →
    let own : Bool := match i with
      | .vguard _ _ _ _ _ => true
      | .regroup _ _ _ => true
      | .mma _ _ _ _ => true
      | .mmat _ _ _ _ => true
      | .mguide _ _ => true
      | _ => false
    let once : Bool := match i with
      | .mmat _ _ _ _ => true
      | .mguide _ _ => true
      | _ => false
    let fits (g : Group) : Bool := match i with
      | .regroup _ _ _ => !g.twin
      | .mmat _ _ _ _ => g.twin
      | .mguide _ _ => g.twin
      | _ => true
    let cause : Nat := match i with
      | .regroup _ _ _ => 6
      | _ => 7
    let early (g : Group) : Bool := match i with
      | .mmat _ _ _ _ => (sharedFault g.r g.p i).isSome
      | .mguide _ _ => (sharedFault g.r g.p i).isSome
      | _ => false
    (∀ (s : State) (gid : Nat), s.cur = .group gid → s.live gid = true →
      let g := s.group gid
      let long : Prop := h.e = false ∧ 24 ≤ g.headRun.counted + 1 ∧ g.headRun.rep = none
      (fieldOk i = false → exec i s = .next (s.laneTrap gid once 1 0)) ∧
      (fieldOk i = true → long → exec i s = .next (s.laneTrap gid once 1 5)) ∧
      (fieldOk i = true → ¬long → fits g = false → early g = false →
        exec i s = .next (s.laneTrap gid once 1 cause)) ∧
      (∀ c, fieldOk i = true → ¬long → (fits g = true ∨ early g = true) → operandFault g.r g.p g.w i = some c →
        exec i s = .next (s.laneTrap gid once 2 c)) ∧
      (own = false → s.laneIssues gid i h.e → g.executes h = false → exec i s = .next (s.laneDone gid h.e))) ∧
    ∀ s sl, s.cur = .bdc sl → (s.bdc sl).lid.isSome = true → exec i s = .next (s.bankTrap sl 1 1)

/-- R156, R157, R189 to R193: address, data, lanes and destination of the accesses. -/
def Obligations.LaneLoadsAndStores : Prop :=
  ∀ (h : LaneHead) (size : MSize) (osx : Bool) (disp : BitVec 8) (s : State) (gid : Nat) (pa : Nat → Nat) (w : Nat → Bool),
    let g := s.group gid
    let n : Nat := match size with
      | .z8 => 1
      | .s8 => 1
      | .z16 => 2
      | .s16 => 2
      | .w32 => 4
      | .w64 => 8
      | .w128 => 16
    let signed : Bool := decide (size = .s8 ∨ size = .s16)
    let off (e : LaneEnv) (l : Nat) : Int := if osx then (e.ia h l).toInt else ((e.ia h l).toNat : Int)
    let va (i : Instr) (l : Nat) : Nat :=
      let e := s.wordEnv gid i
      ((((e.s64 h.vb).toNat : Int) + off e l + disp.toInt * n) % 2 ^ 64).toNat
    let at_ (i : Instr) (l : Nat) : Nat :=
      let e := s.wordEnv gid i
      ((((e.raw h.vb l).toNat : Int) + off e l + disp.toInt * n) % 2 ^ 32).toNat
    let bytes (i : Instr) (l : Nat) : List Byte :=
      let e := s.wordEnv gid i
      natBytes n (if n = 16 then (g.vr h.vc.toNat l).toNat + 2 ^ 32 * (g.vr (h.vc.toNat + 1) l).toNat +
            2 ^ 64 * (g.vr (h.vc.toNat + 2) l).toNat + 2 ^ 96 * (g.vr (h.vc.toNat + 3) l).toNat
        else if n = 8 then (g.vr h.vc.toNat l).toNat + 2 ^ 32 * (g.vr (h.vc.toNat + 1) l).toNat
        else (e.ic h l).toNat)
    let dest : Dest := .vreg h.vd.toNat (if n = 16 then 4 else if n = 8 then 2 else 1)
    let all := g.parts h true
    let some_ := g.parts h false
    let idle (i : Instr) : Prop := ∃ t : State, exec i s = .next (t.laneDone gid h.e) ∧ (t.group gid).vregs = g.vregs ∧
      (t.group gid).preds = g.preds ∧ (t.group gid).fflags = g.fflags ∧ (∀ j, j ≠ gid → t.group j = s.group j) ∧
      ∀ pa, t.memByte pa = s.memByte pa
    (∀ sc, let i := Instr.ld h size osx sc disp
      s.laneGo gid i h → (∀ p ∈ all, va i p.2 % n = 0) → g.room .ls → all ≠ [] → s.allHits gid all .read (va i) pa w →
      ∃ t : State, exec i s = .next t ∧ (s.popQueues gid i).issuedLane t gid
        (s.wordAccess gid h .ls (.load signed) .mem n sc dest
          (all.flatMap (fun p => accessParts n (fun k =>
            { lane := p.1, addr := va i p.2 + k, pa := pa p.2 + k, stage := .ready, ro := !w p.2 }))))) ∧
    (∀ sc, let i := Instr.st h size osx sc disp
      s.laneGo gid i h → (∀ p ∈ all, va i p.2 % n = 0) → g.room .ls →
      (some_ = [] → idle i) ∧
      (some_ ≠ [] → s.allHits gid some_ .write (va i) pa w →
        ∃ t : State, exec i s = .next t ∧ (s.popQueues gid i).issuedLane t gid
          (s.wordAccess gid h .ls .store .mem n sc .none
            (some_.flatMap (fun p => accessParts n (fun k =>
              { lane := p.1, addr := va i p.2 + k, pa := pa p.2 + k, stage := .ready, ro := !w p.2,
                data := ((bytes i p.2).drop k).take 8 })))))) ∧
    (∀ i, i = Instr.lds h size osx disp →
      s.laneGo gid i h → (∀ p ∈ all, at_ i p.2 % n = 0 ∧ at_ i p.2 + n ≤ spadBytes (s.headerOf gid)) → g.room .ls → all ≠ [] →
      ∃ t : State, exec i s = .next t ∧ (s.popQueues gid i).issuedLane t gid
        (s.wordAccess gid h .ls (.load signed) .spad n .grp dest
          (all.flatMap (fun p => accessParts n (fun k => { lane := p.1, addr := at_ i p.2 + k, stage := .ready }))))) ∧
    (∀ i, i = Instr.sts h size osx disp →
      s.laneGo gid i h → (∀ p ∈ all, at_ i p.2 % n = 0) → (∀ p ∈ some_, at_ i p.2 + n ≤ spadBytes (s.headerOf gid)) →
      g.room .ls →
      (some_ = [] → idle i) ∧
      (some_ ≠ [] → ∃ t : State, exec i s = .next t ∧ (s.popQueues gid i).issuedLane t gid
        (s.wordAccess gid h .ls .store .spad n .grp .none
          (some_.flatMap (fun p => accessParts n (fun k =>
            { lane := p.1, addr := at_ i p.2 + k, stage := .ready, data := ((bytes i p.2).drop k).take 8 })))))) ∧
    (∀ i, i = Instr.ldc h size osx disp →
      let o (l : Nat) : Int := (BitVec.ofNat 32 (at_ i l)).toInt
      let addr (l : Nat) : Nat := ((((s.launchOf gid).constBase : Int) + o l) % 2 ^ 64).toNat
      s.laneGo gid i h → (∀ p ∈ all, at_ i p.2 % n = 0 ∧ 0 ≤ o p.2 ∧ o p.2 + n ≤ (s.headerOf gid).constSize) →
      g.room .const → all ≠ [] → s.allHits gid all .read addr pa w →
      ∃ t : State, exec i s = .next t ∧ (s.popQueues gid i).issuedLane t gid
        (s.wordAccess gid h .const (.load signed) .konst n .dev dest
          (all.flatMap (fun p => accessParts n (fun k =>
            { lane := p.1, addr := addr p.2 + k, pa := pa p.2 + k, stage := .ready, ro := !w p.2 }))))) ∧
    (∀ sc p, let i := Instr.ld h size osx sc disp
      s.laneGo gid i h → all.find? (fun p => va i p.2 % n != 0) = some p →
      exec i s = .next (s.raiseLane gid false { cls := 3, cause := 0, tval := BitVec.ofNat 64 (va i p.2) })) ∧
    (∀ sc p, let i := Instr.st h size osx sc disp
      s.laneGo gid i h → all.find? (fun p => va i p.2 % n != 0) = some p →
      exec i s = .next (s.raiseLane gid false { cls := 3, cause := 0, tval := BitVec.ofNat 64 (va i p.2) })) ∧
    (∀ p, let i := Instr.lds h size osx disp
      s.laneGo gid i h → (∀ p ∈ all, at_ i p.2 % n = 0) →
      all.find? (fun p => decide (spadBytes (s.headerOf gid) < at_ i p.2 + n)) = some p →
      exec i s = .next (s.raiseLane gid false { cls := 4, cause := 4, tval := BitVec.ofNat 64 (at_ i p.2) })) ∧
    ∀ p, let i := Instr.sts h size osx disp
      s.laneGo gid i h → (∀ p ∈ all, at_ i p.2 % n = 0) →
      some_.find? (fun p => decide (spadBytes (s.headerOf gid) < at_ i p.2 + n)) = some p →
      exec i s = .next (s.raiseLane gid false { cls := 4, cause := 4, tval := BitVec.ofNat 64 (at_ i p.2) })

/-- R189, R192, R193, R235 to R237, R337. -/
def Obligations.LaneAtomicsAndPrefetch : Prop :=
  (∀ (h : LaneHead) (op : AtomOp) (w64 nr osx : Bool) (disp : BitVec 5) (s : State) (gid : Nat) (pa : Nat → Nat) (w : Nat → Bool),
    let g := s.group gid
    let n : Nat := if w64 then 8 else 4
    let off (e : LaneEnv) (l : Nat) : Int := if osx then (e.ia h l).toInt else ((e.ia h l).toNat : Int)
    let va (i : Instr) (l : Nat) : Nat :=
      let e := s.wordEnv gid i
      ((((e.s64 h.vb).toNat : Int) + off e l + disp.toInt * n) % 2 ^ 64).toNat
    let at_ (i : Instr) (l : Nat) : Nat :=
      let e := s.wordEnv gid i
      ((((e.raw h.vb l).toNat : Int) + off e l + disp.toInt * n) % 2 ^ 32).toNat
    let words : Nat := (if w64 then 2 else 1) * (if op = .cas then 2 else 1)
    let bytes (i : Instr) (l : Nat) : List Byte :=
      if words = 1 then natBytes 4 ((s.wordEnv gid i).ic h l).toNat
      else (List.range words).flatMap (fun k => natBytes 4 (g.vr (h.vc.toNat + k) l).toNat)
    let dest : Dest := if nr then .none else .vreg h.vd.toNat (if w64 then 2 else 1)
    let all := g.parts h true
    let some_ := g.parts h false
    (∀ sc, let i := Instr.atom h op w64 sc nr osx disp
      let u := (s.popQueues gid i).spendTake gid true
      s.laneGo gid i h → (∀ p ∈ all, va i p.2 % n = 0) →
      (s.needsTake gid = true → exec i s = .next (s.askTake gid)) ∧
      (s.needsTake gid = false → g.room .atom → some_ ≠ [] → s.allHits gid some_ .write (va i) pa w →
        (∀ p ∈ some_, pa p.2 < deviceBytes) →
        ∃ t : State, exec i s = .next t ∧ u.issuedLane t gid
          (s.wordAccess gid h .atom (.atom op w64) .mem n sc dest
            (some_.map (fun p =>
              { lane := p.1, addr := va i p.2, pa := pa p.2, stage := .ready, ro := !w p.2, data := bytes i p.2 }))))) ∧
    ∀ i, i = Instr.atoms h op w64 nr osx disp →
    let u := (s.popQueues gid i).spendTake gid true
    s.laneGo gid i h → (∀ p ∈ all, at_ i p.2 % n = 0) → (∀ p ∈ some_, at_ i p.2 + n ≤ spadBytes (s.headerOf gid)) →
    (s.needsTake gid = true → exec i s = .next (s.askTake gid)) ∧
    (s.needsTake gid = false → g.room .atom → some_ ≠ [] →
      ∃ t : State, exec i s = .next t ∧ u.issuedLane t gid
        (s.wordAccess gid h .atom (.atom op w64) .spad n .core dest
          (some_.map (fun p => { lane := p.1, addr := at_ i p.2, stage := .ready, data := bytes i p.2 }))))) ∧
  ∀ (h : LaneHead) (osx l2 : Bool) (disp : BitVec 8) (s : State) (gid : Nat), s.laneGo gid (.pref h osx l2 disp) h →
    ∃ t : State, exec (.pref h osx l2 disp) s = .next (t.laneDone gid h.e) ∧ (∀ j, t.group j = s.group j) ∧
      ((∀ p ∈ (s.core (s.coreOf gid)).l1, p.2.dirty = 0) → (∀ p ∈ s.l2, p.2.dirty = 0) →
        ∀ pa, t.memByte pa = s.memByte pa)

/-- R203 to R206, R208, R209, R269. -/
def Obligations.MatrixIssue : Prop :=
  (∀ (h : LaneHead) (m : MmaMode) (acls : ACls) (n32 pair : Bool) (s : State) (gid : Nat),
    let i : Instr := if pair then .mmat h m acls n32 else .mma h m acls n32
    let n : Nat := if n32 then 32 else 16
    let g := s.group gid
    let hs : List Nat := if pair = true ∧ g.converged = true then [leadOf gid, leadOf gid + 1] else [gid]
    let e := s.laneEnv gid []
    let v := (e.s64 h.vc).toNat % 2 ^ 32
    let pieces := tilePieces ((e.s64 h.vb).toNat % 2 ^ 32) v n ((layoutCls v).getD .a4)
    let before : List Nat :=
      (tabGet [] (s.core (s.coreOf gid)).arrayq g.quarter).filter (fun k => (s.group k).lwait == some .array)
    s.laneIssues gid i h.e → (pair = true → g.twin = true) → s.matReady gid hs i h m acls n →
    ((∀ k ∈ hs, (s.group k).runActive = 0) → exec i s = .next (s.matDone gid hs h.e)) ∧
    ((∃ k ∈ hs, (s.group k).runActive ≠ 0) →
      (∀ o, tileBeyond pieces (spadBytes (s.headerOf gid)) = some o →
        exec i s = .next (s.raiseLane gid (hs.length == 2) { cls := 4, cause := 4, tval := BitVec.ofNat 64 o })) ∧
      (∀ o, tileBeyond pieces (spadBytes (s.headerOf gid)) = none →
        tileMismatch (s.troupe g.tid) pieces (v / 2 ^ 29) = some o →
        exec i s = .next (s.raiseLane gid (hs.length == 2) { cls := 5, cause := 0, tval := BitVec.ofNat 64 o })) ∧
      (tileBeyond pieces (spadBytes (s.headerOf gid)) = none → tileMismatch (s.troupe g.tid) pieces (v / 2 ^ 29) = none →
        ((s.arrayOf (s.coreOf gid) g.quarter ≠ none ∨ ∃ k rest, before = k :: rest ∧ k ≠ gid) →
          exec i s = .next ((s.modCore (s.coreOf gid) (fun c =>
            { c with arrayq := tabSet [] c.arrayq g.quarter (before ++ if gid ∈ before then [] else [gid]) })).laneWaits
              gid .array)) ∧
        (s.arrayOf (s.coreOf gid) g.quarter = none → (∀ k rest, before = k :: rest → k = gid) → (∀ k ∈ hs, (s.group k).count .mtx < 63) →
          (∀ k ∈ hs, ∀ l, (s.group k).hurtIn i l = none) →
          ∃ (t : State) (f : ArrayForm), exec i s = .next (t.matDone gid hs h.e) ∧ s.matIssued t gid hs h acls n f ∧
            (f.unshared = true ↔ pair = true ∧ hs.length ≠ 2))))) ∧
  ∀ (h : LaneHead) (cnt : BitVec 5), writesSpan (.mzero h cnt) h (cnt.toNat + 1) (fun _ _ _ => 0)

/-- R78, R203, R206, R207. Which rows of a converged pair each pass holds is the model's choice (log entry 58). -/
def Obligations.MatrixCompletion : Prop :=
  (∀ (r : ArrayRows) (acls bcls : ACls) (n : Nat) (tile : Tile) (l c : Nat), n ≤ 32 → l < 64 → c < n →
    r.active.getLsbD l = true →
    tabFind (r.compute acls bcls n tile).writes (64 * c + l) =
      some (BitVec.ofNat 32 (accumulate r.fmt (tabGet 0 r.c (64 * c + l)).toNat
        (blockDot r.fmt (clsFmt r.fmt acls) (clsFmt r.fmt bcls) (r.aRow acls l) ((List.range 32).map (fun k => tile.b k c))
          (scaleVal (fmtBs r.fmt) (r.aScale acls l)) (scaleVal (fmtBs r.fmt) (tile.scale c)))).1)) ∧
  ∀ (s : State) (core q : Nat) (f : ArrayForm), s.arrayOf core q = some f → (f.rows.map (·.gid)).Nodup →
    (∀ r ∈ f.rows, s.live r.gid = true) →
    let tr : Troupe :=
      match (s.group f.gid).ahead with
      | some b => { s.troupe (s.group f.gid).tid with spad := b }
      | none => s.troupe (s.group f.gid).tid
    (f.reads = false → s.spadHurts f.gid f.offsets = .none → ∃ t : State, exec (.matrixFormCompletion core q true) s = .next t ∧
      t.arrayOf core q = some
        { f with
          reads := true
          rows := f.rows.map (fun r => r.compute f.acls ((layoutCls f.layout).getD .a4) f.n (f.tile tr))
          terms := f.counts (f.tile tr) } ∧
      (∀ r ∈ f.rows, t.group r.gid =
        { s.group r.gid with ifc := tabSet 0 (s.group r.gid).ifc (pathCode .mtx) ((s.group r.gid).count .mtx - 1) }) ∧
      (∀ j, j ∉ f.rows.map (·.gid) → t.group j = s.group j) ∧ t = { s with groups := t.groups, cores := t.cores }) ∧
    (f.reads = true → (∀ r ∈ f.rows, tabSorted r.writes = true) →
      ∃ t : State, exec (.matrixFormCompletion core q false) s = .next t ∧ t.arrayOf core q = none ∧
        (∀ r ∈ f.rows, ∀ k l, l < 64 → (t.group r.gid).vr (f.vd + k) l =
          (tabFind r.writes (64 * k + l)).getD ((s.group r.gid).vr (f.vd + k) l)) ∧
        (∀ r ∈ f.rows, ∀ x l, x < f.vd → l < 64 → (t.group r.gid).vr x l = (s.group r.gid).vr x l) ∧
        (∀ r ∈ f.rows, t.group r.gid =
          { s.group r.gid with
            vregs := (t.group r.gid).vregs
            fflags := (s.group r.gid).fflags ||| r.flags
            latch := (t.group r.gid).latch
            poison := (t.group r.gid).poison }) ∧
        (∀ k, k < f.terms.length → tabGet 0 (t.core core).terms (5 * q + k) =
          tabGet 0 (s.core core).terms (5 * q + k) + BitVec.ofNat 64 (f.terms.getD k 0)) ∧
        (∀ j, j ∉ f.rows.map (·.gid) → t.group j = s.group j) ∧ t = { s with groups := t.groups, cores := t.cores }) ∧
    (f.reads = false → exec (.matrixFormCompletion core q false) s = .next s)

/-- R210, R213. That the E bit is left out of the comparison of the two words is the model's choice (log entry 57). -/
def Obligations.GuideForms : Prop :=
  (∀ (h : LaneHead) (cnt : BitVec 5) (s : State) (gid : Nat),
    let i := Instr.mguide h cnt
    let g := s.group gid
    let r : Rendezvous :=
      { partner := none, count := cnt.toNat + 1, vd := h.vd.toNat, va := h.va.toNat, vb := h.vb.toNat, vc := h.vc.toNat,
        s := ((s.laneEnv gid []).s64 h.vc).setWidth 32, addr := s.headAddr gid, e := h.e }
    s.laneIssues gid i h.e → g.twin = true →
    (g.split = false → s.live (leadOf gid) = true → s.live (leadOf gid + 1) = true →
      s.laneFree (leadOf gid) i → s.laneFree (leadOf gid + 1) i → (∀ l, s.guideHurt (leadOf gid) r l = none) →
      ∃ t : State, exec i s = .next (t.laneDoneBoth gid h.e) ∧ s.guided t (leadOf gid) r) ∧
    (g.split = true → s.laneFree gid i →
      (s.live (partnerOf gid) = false →
        exec i s = .next (s.raiseLane gid false { cls := 6, cause := 2, tval := BitVec.ofNat 64 r.addr })) ∧
      (s.live (partnerOf gid) = true → (s.group (partnerOf gid)).jwait = true →
        exec i s = .next (s.raiseLane gid false { cls := 6, cause := 1, tval := BitVec.ofNat 64 r.addr })) ∧
      (s.live (partnerOf gid) = true → (s.group (partnerOf gid)).jwait = false →
        exec i s = .next (s.modGroup gid (fun g => { g with rdv := some r, lwait := some .meeting }))))) ∧
  ∀ (s : State) (gid : Nat) (a b : Rendezvous),
    let l := leadOf gid
    (s.group l).twin = true → s.live l = true → s.live (l + 1) = true → (s.group l).rdv = some a →
    (s.group (l + 1)).rdv = some b → a.partner = none → b.partner = none →
    let u := (s.modGroup l (fun g => { g with rdv := none, lwait := none })).modGroup (l + 1)
      (fun g => { g with rdv := none, lwait := none })
    let same : Prop := a.count = b.count ∧ a.vd = b.vd ∧ a.va = b.va ∧ a.vb = b.vb ∧ a.vc = b.vc ∧ a.s = b.s
    (same → (∀ k, u.guideHurt l a k = none) → ∃ t : State,
      exec (.mguideRendezvous gid) s = .next ((t.laneDone l a.e).laneDone (l + 1) b.e) ∧ u.guided t l a) ∧
    (¬same → exec (.mguideRendezvous gid) s =
      .next ((u.raiseLane l false { cls := 6, cause := 0, tval := BitVec.ofNat 64 a.addr }).raiseLane (l + 1) false
        { cls := 6, cause := 0, tval := BitVec.ofNat 64 b.addr }))

/-- R243, R248 to R252. -/
def Obligations.BankArithmetic : Prop :=
  ∀ h : LaneHead,
    (∀ (hi : Bool) (rm : BitVec 3), bankWrites (.bfma h hi rm) h (fun b _ _ u =>
      bankFma b.fmt (bankRm b.fmt rm) hi (u.reg h.vd.toNat) (u.reg h.va.toNat) (u.reg h.vb.toNat))) ∧
    (∀ sz : BitVec 4, bankWrites (.bmac h sz) h (fun b _ _ u =>
      bankMac b.fmt sz.toNat (u.reg h.vd.toNat) (u.reg h.va.toNat) (u.reg h.vb.toNat))) ∧
    (∀ (bf : Bool) (rm : BitVec 3),
      bankWrites (.badd h bf rm) h (fun b _ _ u => bankPair b.fmt (if bf then .bf16 else .f32) (if bf then 2 else 4)
        (bankRm b.fmt rm) (u.reg h.va.toNat) (u.reg h.vb.toNat) (xAdd (bankRm b.fmt rm == 2))) ∧
      bankWrites (.bmul h bf rm) h (fun b _ _ u => bankPair b.fmt (if bf then .bf16 else .f32) (if bf then 2 else 4)
        (bankRm b.fmt rm) (u.reg h.va.toNat) (u.reg h.vb.toNat) xMul)) ∧
    (∀ (hi : Bool) (rm : BitVec 3),
      bankWrites (.bcvt h hi true rm) h (fun b _ _ u =>
        let r := gatherElems ((halfView hi (u.reg h.va.toNat)).map (fun c =>
          bankElem b.fmt 0 .f32 [readVal b.fmt .bf16 c] (fun xs => xAt xs 0)))
        (unview 4 r.1, r.2)) ∧
      bankWrites (.bcvt h hi false rm) h (fun b _ _ u =>
        let r := gatherElems ((viewOf 4 (u.reg h.va.toNat)).map (fun c =>
          bankElem b.fmt (bankRm b.fmt rm) .bf16 [readVal b.fmt .f32 c] (fun xs => xAt xs 0)))
        let d := u.reg h.vd.toNat
        (if hi then d.take 512 ++ unview 2 r.1 else unview 2 r.1 ++ d.drop 512, r.2))) ∧
    (∀ sz : BitVec 4, bankWrites (.bred h sz) h (fun b _ _ u => bankRed b.fmt sz.toNat (u.reg h.va.toNat))) ∧
    (∀ rl : BitVec 4, bankWrites (.bmov h rl) h (fun _ _ _ u =>
      ((List.range 1024).map (fun k => u.byte h.va.toNat (if rl = 0 then k else k % 2 ^ rl.toNat)), 0))) ∧
    bankWrites (.bzero h) h (fun _ _ _ _ => ((List.range 1024).map (fun _ => 0), 0)) ∧
    (∀ (x : BitVec 4) (s : State) (sl : Nat) (b : BankRun), s.bankGo sl b (.bxch h x) h →
      ∃ t : State, exec (.bxch h x) s = .next (t.bankDone sl h.e) ∧
        (∀ j r k, k < 1024 → (t.bsu sl j).byte r k =
          if j ∈ b.going ∧ (j ^^^ x.toNat) ∈ b.going ∧ r = h.vd.toNat then (s.bsu sl (j ^^^ x.toNat)).byte h.va.toNat k
          else (s.bsu sl j).byte r k) ∧
        (∀ j, t.bsu sl j = { s.bsu sl j with regs := (t.bsu sl j).regs }) ∧
        (t.bdc sl).brun = some { b with xmiss := b.xmiss || b.going.any (fun j => !b.going.contains (j ^^^ x.toNat)) } ∧
        s.bankFrame t sl) ∧
    (∀ (s : State) (sl : Nat) (b : BankRun), s.bankGo sl b (.brd h) h → (∀ j ∈ b.going, (s.bsu sl j).openRow ≠ none) →
      ∃ t : State, exec (.brd h) s = .next (t.bankDone sl h.e) ∧
        s.bankWrote t sl b h (fun u => ((List.range 1024).map (fun k => tabGet 0 u.rowbuf k), 0))) ∧
    ∀ (sz : BitVec 4) (disp : BitVec 9) (shr : Bool) (s : State) (sl : Nat) (b : BankRun),
      s.bankGo sl b (.bst h sz disp shr true) h →
      let addr (j : Nat) : Nat := 64 * b.lbase + 64 * disp.toNat + (if shr then 0 else j * 2 ^ sz.toNat)
      (∀ j ∈ b.going, addr j + 2 ^ sz.toNat ≤ 65536) →
      ∃ t : State, exec (.bst h sz disp shr true) s = .next (t.bankDone sl h.e) ∧
        (∀ j r k, k < 1024 → (t.bsu sl j).byte r k =
          if j ∈ b.going ∧ r = h.vd.toNat ∧ k < 2 ^ sz.toNat then tabGet 0 (s.bdc sl).store (addr j + k)
          else (s.bsu sl j).byte r k) ∧
        (∀ j, t.bsu sl j = { s.bsu sl j with regs := (t.bsu sl j).regs }) ∧ (t.bdc sl).brun = some b ∧ s.bankFrame t sl

/-- R23, R242, R244, R249, R252, R253. That a refused row stops no BSU is the model's choice (log entry 57), and so is the
order of the stop causes where two meet (log entry 58). -/
def Obligations.BankRows : Prop :=
  (∀ (h : LaneHead) (roff : BitVec 15) (s : State) (sl : Nat) (b : BankRun),
    let run (f : State → Nat → State × Nat) : State :=
      b.going.foldl (fun s j => if (f s j).2 = 0 then (f s j).1 else (f s j).1.stopBsu sl j (f s j).2) s
    (s.bankGo sl b (.bact h roff) h →
      exec (.bact h roff) s = .next ((run (fun s j => s.openRow sl j (b.rbase + roff.toNat))).bankDone sl h.e)) ∧
    (s.bankGo sl b (.bpre h) h → exec (.bpre h) s = .next ((run (fun s j => s.closeRow sl j)).bankDone sl h.e)) ∧
    (s.bankGo sl b (.brd h) h → (∀ j ∈ b.going, (s.bsu sl j).openRow = none) →
      exec (.brd h) s = .next ((run (fun s _ => (s, 4))).bankDone sl h.e)) ∧
    (s.bankGo sl b (.bwr h) h → (∀ j ∈ b.going, (s.bsu sl j).openRow = none) →
      exec (.bwr h) s = .next ((run (fun s _ => (s, 4))).bankDone sl h.e)) ∧
    (s.bankGo sl b (.bwr h) h → (∀ j ∈ b.going, (s.bsu sl j).openRow ≠ none) →
      ∃ t : State, exec (.bwr h) s = .next (t.bankDone sl h.e) ∧
        (∀ j ∈ b.going, (∀ k, k < 1024 → tabGet 0 (t.bsu sl j).rowbuf k = (s.bsu sl j).byte h.va.toNat k) ∧
          t.bsu sl j = { s.bsu sl j with rowbuf := (t.bsu sl j).rowbuf, dirty := true }) ∧
        (∀ j, j ∉ b.going → t.bsu sl j = s.bsu sl j) ∧ (t.bdc sl).brun = some b ∧ s.bankFrame t sl)) ∧
  (∀ (h : LaneHead) (sz : BitVec 4) (disp : BitVec 9) (s : State) (sl : Nat) (b : BankRun) (dir : Bool),
    let n := 2 ^ sz.toNat
    let addr (j : Nat) : Nat := 64 * b.lbase + 64 * disp.toNat + j * n
    (s.bankGo sl b (.bst h sz disp false false) h → (∀ j ∈ b.going, addr j + n ≤ 65536) →
      ∃ t : State, exec (.bst h sz disp false false) s = .next (t.bankDone sl h.e) ∧
        (∀ j ∈ b.going, ∀ k, k < n → tabGet 0 (t.bdc sl).store (addr j + k) = (s.bsu sl j).byte h.va.toNat k) ∧
        (∀ o, (∀ j ∈ b.going, o < addr j ∨ addr j + n ≤ o) → tabGet 0 (t.bdc sl).store o = tabGet 0 (s.bdc sl).store o) ∧
        t = s.modBdc sl (fun c => { c with store := (t.bdc sl).store })) ∧
    (s.bankGo sl b (.bst h sz disp true false) h → addr 0 + n ≤ 65536 →
      ∃ t : State, exec (.bst h sz disp true false) s = .next (t.bankDone sl h.e) ∧
        (∀ j ∈ b.going, (∀ i ∈ b.going, i ≤ j) → ∀ k, k < n →
          tabGet 0 (t.bdc sl).store (addr 0 + k) = (s.bsu sl j).byte h.va.toNat k) ∧
        (∀ o, (o < addr 0 ∨ addr 0 + n ≤ o) → tabGet 0 (t.bdc sl).store o = tabGet 0 (s.bdc sl).store o) ∧
        t = s.modBdc sl (fun c => { c with store := (t.bdc sl).store })) ∧
    (s.bankGo sl b (.bst h sz disp true dir) h → 65536 < addr 0 + n →
      exec (.bst h sz disp true dir) s = .next ((b.going.foldl (fun s j => s.stopBsu sl j 5) s).bankDone sl h.e))) ∧
  ∀ (s : State) (sl j : Nat),
    let u := s.bsu sl j
    (u.openRow = none → s.closeRow sl j = (s, 0)) ∧
    (∀ r, u.openRow = some r → u.dirty = false →
      s.closeRow sl j = (s.modBsu sl j (fun u => { u with openRow := none, dirty := false, rowbuf := [] }), 0)) ∧
    (∀ r, u.openRow = some r → u.dirty = true → (s.slice sl).readOnly = true → (s.closeRow sl j).2 = 6 ∧
      (∀ a, (s.closeRow sl j).1.memByte a = s.memByte a) ∧ ((s.closeRow sl j).1.bsu sl j).openRow = none) ∧
    (∀ r, u.openRow = some r → u.dirty = true → (s.slice sl).readOnly = false → s.ownerKey sl = none →
      s.closeRow sl j = ((s.modBsu sl j (fun u => { u with openRow := none, dirty := false, rowbuf := [] })).refuseAt
        ((s.slice sl).owner.getD 0) (rowPa sl j r), 0)) ∧
    (∀ r, u.openRow = some r → u.dirty = true → (s.slice sl).readOnly = false → (s.ownerKey sl).isSome = true →
      s.rowCounter (rowPa sl j r) ≠ 2 ^ 56 - 1 → (s.closeRow sl j).2 = 0 ∧
      (∀ a, (s.closeRow sl j).1.memByte a =
        if rowPa sl j r ≤ a ∧ a < rowPa sl j r + 1024 then tabGet 0 u.rowbuf (a - rowPa sl j r) else s.memByte a) ∧
      (s.closeRow sl j).1.rowCounter (rowPa sl j r) = s.rowCounter (rowPa sl j r) + 1 ∧
      ((s.closeRow sl j).1.bsu sl j).openRow = none) ∧
    (∀ r, u.openRow = some r → u.dirty = true → (s.slice sl).readOnly = false → (s.ownerKey sl).isSome = true →
      s.rowCounter (rowPa sl j r) = 2 ^ 56 - 1 → (s.closeRow sl j).2 = 7 ∧
      (∀ a, (s.closeRow sl j).1.memByte a = s.memByte a) ∧ ((s.closeRow sl j).1.bsu sl j).openRow = none) ∧
    (∀ r q, u.openRow = some q →
      s.openRow sl j r = if (s.closeRow sl j).2 = 0 then (s.closeRow sl j).1.openRow sl j r else s.closeRow sl j) ∧
    (∀ r, u.openRow = none → r < 98304 →
      (∀ k ∈ rowSectors (rowPa sl j r), tabFind s.turn k = none ∧ tabFind s.l2 k = none) → (s.ownerKey sl).isSome = true →
      (s.rowOk (rowPa sl j r) = false → s.openRow sl j r = (s.tagFailure (rowPa sl j r), 2)) ∧
      (s.rowOk (rowPa sl j r) = true →
        ((s.rowMeta (rowPa sl j r)).uncorr = true ∨ ∃ a ∈ s.homePoison, inRange (rowPa sl j r) 1024 a = true) →
        (s.openRow sl j r).2 = 3)) ∧
    (∀ r, u.openRow = none → 98304 ≤ r → s.openRow sl j r = (s, 1)) ∧
    ∀ r, u.openRow = none → r < 98304 →
      (∀ k ∈ rowSectors (rowPa sl j r), tabFind s.turn k = none ∧ tabFind s.l2 k = none) →
      (s.ownerKey sl).isSome = true → s.rowOk (rowPa sl j r) = true → (s.rowMeta (rowPa sl j r)).uncorr = false →
      (∀ a ∈ s.homePoison, inRange (rowPa sl j r) 1024 a = false) →
      ∃ t : State, s.openRow sl j r = (t, 0) ∧
        (∀ k, k < 1024 → tabGet 0 (t.bsu sl j).rowbuf k = s.memByte (rowPa sl j r + k)) ∧
        t = (s.holdWalk (rowPa sl j r)).modBsu sl j (fun u => { u with openRow := some r, dirty := false, rowbuf := (t.bsu sl j).rowbuf })

/-- R100, R246, R247, R248. The entry of a trap of a base-die core is in `TrapOfBaseDieCore`. -/
def Obligations.BankRunEnd : Prop :=
  (∀ (s : State) (sl : Nat) (b : BankRun), (s.bdc sl).brun = some b →
    (b.ended = false → exec (.brunComplete sl) s = .next s) ∧
    (b.ended = true → (∀ j ∈ b.going, (s.bsu sl j).openRow = none) →
      (∀ t, b.trap = some t → exec (.brunComplete sl) s =
        .next ((s.modBdc sl (fun c => { c with brun := none })).trapBdc sl t (((s.bdc sl).pc + 4) % 2 ^ 64))) ∧
      (b.trap = none → (s.bdc sl).lid.isSome = true → b.mask < 2 ^ 16 → b.stopped < 2 ^ 16 → (∀ k, tabGet 0 b.causes k < 16) →
        ∃ (t : State) (v : Word64) (first : Nat),
          exec (.brunComplete sl) s = .next t ∧
          (b.stopped ≠ 0 → b.stopped.testBit first = true ∧ ∀ k, k < first → b.stopped.testBit k = false) ∧
          (b.stopped = 0 → first = 0) ∧
          (∀ k, k < 16 → v.toNat.testBit k = (b.mask.testBit k && !b.stopped.testBit k)) ∧
          v.toNat / 2 ^ 16 = b.stopped + 2 ^ 16 * first + 2 ^ 20 * (if b.stopped = 0 then 0 else tabGet 0 b.causes first) +
            2 ^ 24 * (b.flags % 64) + 2 ^ 30 * (if b.xmiss then 1 else 0) ∧
          (∀ r, r < 64 → tabGet 0 (t.bdc sl).sregs r = if r = b.dest ∧ r ≠ 0 then v else tabGet 0 (s.bdc sl).sregs r) ∧
          (t.bdc sl).fflags = (s.bdc sl).fflags ||| BitVec.ofNat 32 (b.flags % 64) ∧
          t = s.modBdc sl (fun c =>
            { c with
              brun := none
              sregs := (t.bdc sl).sregs
              fflags := (t.bdc sl).fflags
              pc := (c.pc + 4) % 2 ^ 64
              wait := none })))) ∧
  (∀ (s : State) (sl : Nat), (s.bdc sl).brun = none → exec (.brunComplete sl) s = .next s) ∧
  ∀ (i : Instr) (h : LaneHead), laneHead i = some h → isBankForm i = true →
    (∀ (s : State) (gid : Nat), s.cur = .group gid → s.live gid = true → exec i s = .next (s.laneTrap gid false 1 1)) ∧
    ∀ (s : State) (sl : Nat) (b : BankRun), s.cur = .bdc sl → (s.bdc sl).brun = some b →
      (fieldOk i = false → exec i s = .next (s.bankTrap sl 1 0)) ∧
      (fieldOk i = true → h.e = false → 24 ≤ b.counted + 1 → exec i s = .next (s.bankTrap sl 1 5)) ∧
      ∀ c, fieldOk i = true → (h.e = true ∨ b.counted + 1 < 24) → operandFault 384 96 64 i = some c →
        exec i s = .next (s.bankTrap sl 2 c)

/-- R378 to R380, R385, R386, R390, R408, R421, R426, R428, R434, R439. -/
def Obligations.HostQueueRegisters : Prop :=
  ∀ (s : State) (w : Nat),
    let wd := s.world w
    (∀ (q : Nat) (t : BitVec 32),
      let r := wd.lq q
      let d := (t - r.tail).toNat
      let fits : Prop := r.en = true ∧ r.err = false ∧ 0 < d ∧ d + (r.tail - r.head).toNat ≤ 2 ^ (min r.depth 10 + 2)
      (wd.present = true → q < 4 → fits →
        ∃ u : State, exec (.doorbell w q t) s = .next u ∧ (u.world w).lq q = { r with tail := t } ∧
          (∀ k, k ≠ q → (u.world w).lq k = wd.lq k) ∧ u = s.modWorld w (fun v => { v with lqs := (u.world w).lqs })) ∧
      (wd.present = true → q < 4 → ¬fits →
        exec (.doorbell w q t) s = .next (s.stopQueue w q 0 t.toNat) ∧
          ((s.stopQueue w q 0 t.toNat).world w).lq q = { r with err := true }) ∧
      ((wd.present = false ∨ 4 ≤ q) → exec (.doorbell w q t) s = .next s)) ∧
    (∀ v : Word64,
      let b (k : Nat) : Bool := v.getLsbD k
      let cfg (loc : Bool) (r : RingCfg) : RingCfg :=
        { base := if r.en then r.base else v.toNat / 4096 * 4096
          depth := if r.en then r.depth else v.toNat / 256 % 16
          err := r.err && !b 2
          loc := if r.en then r.loc else loc && b 1
          en := b 0
          head := if b 0 && !r.en then 0 else r.head
          tail := if b 0 && !r.en then 0 else r.tail }
      (wd.present = true →
        (∀ q, q < 4 → ∃ u : State, exec (.lqcfg w q v) s = .next u ∧ (u.world w).lq q = cfg true (wd.lq q) ∧
          (∀ k, k ≠ q → (u.world w).lq k = wd.lq k) ∧ u = s.modWorld w (fun v => { v with lqs := (u.world w).lqs })) ∧
        exec (.elcfg w v) s = .next (s.modWorld w (fun x => { x with el := cfg false x.el })) ∧
        exec (.fqcfg w v) s =
          .next (wd.faults.foldl (fun s f => s.postFault w f) (s.modWorld w (fun x => { x with fq := cfg false x.fq })))) ∧
      (∀ q, 4 ≤ q → exec (.lqcfg w q v) s = .next s) ∧
      (wd.present = false → (∀ q, exec (.lqcfg w q v) s = .next s) ∧ exec (.elcfg w v) s = .next s ∧
        exec (.fqcfg w v) s = .next s)) ∧
    (∀ v : BitVec 32,
      (wd.present = true → exec (.fqhead w v) s =
        .next (wd.faults.foldl (fun s f => s.postFault w f) (s.modWorld w (fun x => { x with fq := { x.fq with head := v } })))) ∧
      (wd.present = false → exec (.fqhead w v) s = .next s)) ∧
    (∀ f : FaultRec,
      let n := 2 ^ (min wd.fq.depth 10 + 2)
      let slot := wd.fq.base + 32 * (wd.fq.tail.toNat % n)
      let open_ : Prop := f.posted = false ∧ wd.fq.en = true ∧ wd.fq.err = false ∧ (wd.fq.tail - wd.fq.head).toNat < n
      (¬open_ → s.postFault w f = s) ∧
      (open_ → s.hostFails.contains slot = true → s.postFault w f =
        (s.hostFailed slot).modWorld w (fun v => { v with fq := { v.fq with err := true } })) ∧
      (open_ → s.hostFails.contains slot = false → ∃ u : State, s.postFault w f = u ∧
        (u.world w).faults = wd.faults.map (fun r => if r.seq = f.seq then { r with posted := true } else r) ∧
        (u.world w).fq = { wd.fq with tail := wd.fq.tail + 1 } ∧
        (∀ k, k < 32 → u.hostByte (slot + k) =
          (natBytes 8 f.va ++ natBytes 1 f.kind ++ natBytes 3 f.desc ++ natBytes 4 f.seq ++ natBytes 16 0).getD k 0) ∧
        (∀ a, (a < slot ∨ slot + 32 ≤ a) → u.hostByte a = s.hostByte a) ∧ u.groups = s.groups ∧
        ∀ pa, u.memByte pa = s.memByte pa)) ∧
    (∀ v : Word64,
      (∀ f, wd.faults.find? (fun f => f.posted && f.seq == v.toNat % 2 ^ 32) = some f → exec (.freply w v) s =
        .next (f.who.foldl (fun s x => s.answerOne w f (v.getLsbD 32) x)
          (s.modWorld w (fun x => { x with faults := x.faults.filter (fun r => r.seq != f.seq) })))) ∧
      ((∀ f ∈ wd.faults, f.posted = false ∨ f.seq ≠ v.toNat % 2 ^ 32) → exec (.freply w v) s = .next s)) ∧
    (∀ (f : FaultRec) (gid lid q : Nat) (ok : Bool),
      s.answerOne w f ok (.fetch gid false) =
        (if s.live gid = true ∧ (s.group gid).wait = some .fetch then
          (if ok then s.modGroup gid (fun g => { g with wait := none }) else s.refuseFetch gid false f.page)
        else s) ∧
      s.answerOne w f ok (.fetch gid true) =
        (if s.live gid = true ∧ (s.group gid).lwait = some .fetch then
          (if ok then s.modGroup gid (fun g => { g with lwait := none }) else s.refuseFetch gid true f.page)
        else s) ∧
      s.answerOne w f true (.launch lid) = s ∧ s.answerOne w f true (.slot q) = s ∧
      s.answerOne w f false (.slot q) = s.stopQueue w q 1 (wd.lq q).head.toNat ∧
      ∀ aid lane, s.answerOne w f false (.access gid aid lane) = s.modGroup gid (fun g => g.modAcc aid (fun a =>
          a.modLane lane (fun l => match l.stage with
            | .parked _ => { l with stage := .refused 9 }
            | _ => l)))) ∧
    (∀ off,
      (wd.present = true → ∀ k,
        (k < 9 → off = 0x1000 + 8 * k → exec (.counterReadLow w off) s = .next
          { (s.modWorld w (fun v => { v with latch := tabGet 0 wd.counters k })) with
            bus := (tabGet 0 wd.counters k).toNat % 2 ^ 32 }) ∧
        (k < 6 → w = 0 → off = 0x1100 + 8 * k → exec (.counterReadLow w off) s = .next
          { (s.modWorld w (fun v => { v with latch := tabGet 0 s.shared k })) with
            bus := (tabGet 0 s.shared k).toNat % 2 ^ 32 }) ∧
        (k < 8 → off = 0x1f00 + 16 * k → exec (.counterReadLow w off) s = .next
          { (s.modWorld w (fun v => { v with latch := tabGet 0 wd.dbg.hits k })) with
            bus := (tabGet 0 wd.dbg.hits k).toNat % 2 ^ 32 }) ∧
        (k < 8 → off = 0x1f08 + 16 * k → exec (.counterReadLow w off) s = .next
          { (s.modWorld w (fun v => { v with latch := tabGet 0 wd.dbg.cycs k })) with
            bus := (tabGet 0 wd.dbg.cycs k).toNat % 2 ^ 32 }) ∧
        (off = 0x1f80 → exec (.counterReadLow w off) s = .next
          { (s.modWorld w (fun v => { v with latch := wd.dbg.inserted })) with bus := wd.dbg.inserted.toNat % 2 ^ 32 })) ∧
      ((wd.present = false ∨ off % 8 ≠ 0 ∨ off < 0x1000 ∨ (0x1048 ≤ off ∧ off < 0x1100) ∨
          (w ≠ 0 ∧ 0x1100 ≤ off ∧ off < 0x1130) ∨ (0x1130 ≤ off ∧ off < 0x1f00) ∨ 0x1f88 ≤ off) →
        exec (.counterReadLow w off) s = .next { s with bus := 0 })) ∧
    ∀ (off : Nat) (v : Word64),
      let dbg (f : Debug → Debug) : Out := .next (s.modWorld w (fun x => { x with dbg := f x.dbg }))
      let cmd (f : Cmdif → Cmdif) : Out := .next { s with cmdif := f s.cmdif }
      let points : Prop := 0x9060 ≤ off ∧ off < 0x90a0 ∧ off % 8 = 0
      let consumed : Prop := 0xc000 ≤ off ∧ off < 0xe000 ∧ off % 8 = 0 ∧ (off - 0xc000) / 8 < (worldCores wd).length
      (wd.present = true →
        (off = 0x030c → exec (.registerWrite w off v) s =
          .next (s.modWorld w (fun x => { x with el := { x.el with head := BitVec.ofNat 32 v.toNat } }))) ∧
        (off = 0x9000 → exec (.registerWrite w off v) s = dbg (fun d => { d with attach := v.getLsbD 0 })) ∧
        (off = 0x9008 → exec (.registerWrite w off v) s = dbg (fun d => { d with launch := v.toNat % 2 ^ 32 })) ∧
        (off = 0x9028 → exec (.registerWrite w off v) s = dbg (fun d => { d with data := v })) ∧
        (off = 0x9030 → exec (.registerWrite w off v) s = dbg (fun d => { d with trctl := v.toNat % 16 })) ∧
        (off = 0x9038 → exec (.registerWrite w off v) s =
          dbg (fun d => { d with trbase := v.toNat / 65536 * 65536, trsz := v.toNat % 32 })) ∧
        (off = 0x9048 → exec (.registerWrite w off v) s = dbg (fun d => if d.rhEn then d else { d with rhLo := v })) ∧
        (off = 0x9050 → exec (.registerWrite w off v) s = dbg (fun d => if d.rhEn then d else { d with rhHi := v })) ∧
        (points → exec (.registerWrite w off v) s =
          dbg (fun d => if d.rhEn then d else { d with points := tabSet 0 d.points ((off - 0x9060) / 8) v })) ∧
        (consumed → exec (.registerWrite w off v) s =
          dbg (fun d => { d with consumed := tabSet 0 d.consumed ((off - 0xc000) / 8) v })) ∧
        (w = 0 →
          (off = 0x2008 → exec (.registerWrite w off v) s = cmd (fun c => { c with warg0 := v })) ∧
          (off = 0x2010 → exec (.registerWrite w off v) s = cmd (fun c => { c with warg1 := v })) ∧
          (off = 0x2018 → exec (.registerWrite w off v) s = cmd (fun c => { c with warg2 := v })) ∧
          (off = 0x3008 → exec (.registerWrite w off v) s = cmd (fun c => { c with karg := v })) ∧
          (off = 0x8000 → exec (.registerWrite w off v) s = cmd (fun c => { c with fwaddr := v })) ∧
          (off = 0x8008 → exec (.registerWrite w off v) s = cmd (fun c => { c with fwlen := BitVec.ofNat 32 v.toNat })) ∧
          (off = 0x2000 → exec (.registerWrite w off v) s = cmd (fun c =>
            if (v.toNat % 256 = 0 ∨ 0x16 < v.toNat % 256) ∧ c.wbusy = false then { c with wok := false, werr := 1 } else c)) ∧
          (off = 0x3000 → exec (.registerWrite w off v) s = cmd (fun c =>
            if 4 ≤ v.toNat % 16 ∧ c.kbusy = false then { c with kok := false, kerr := 1 } else c)) ∧
          (off = 0x8010 → exec (.registerWrite w off v) s = cmd (fun c =>
            if v.toNat % 4 = 0 ∨ v.toNat % 4 = 3 then { c with fwok := false, fwerr := 4 } else c)))) ∧
      ((wd.present = false ∨
          (off ∉ [0x030c, 0x9000, 0x9008, 0x9028, 0x9030, 0x9038, 0x9048, 0x9050] ∧ ¬points ∧ ¬consumed ∧
            (w = 0 → off ∉ [0x2000, 0x2008, 0x2010, 0x2018, 0x3000, 0x3008, 0x8000, 0x8008, 0x8010]))) →
        exec (.registerWrite w off v) s = .next s)

/-- R34, R49, R240, R260, R262, R263, R380 to R383, R438. A completion address that is not a multiple of 32 gives the
entry of KIND 0x17: the model's choice, log entry 28. -/
def Obligations.LaunchEvents : Prop :=
  (∀ (s : State) (w q : Nat),
    let r := (s.world w).lq q
    let slot := s.hostBytes (r.base + 64 * (r.head.toNat % 2 ^ (min r.depth 10 + 2))) 64
    s.unread w = none → s.nextQueue w = some q → s.launchTurn w = true → s.unitParked w (.slot q) = false → r.loc = false →
    s.hostFails.contains (r.base + 64 * (r.head.toNat % 2 ^ (min r.depth 10 + 2))) = false → s.recordOk w slot = false →
    ∃ t : State, exec (.launchTake w) s = .next t ∧ (t.world w).launchSeq = (s.world w).launchSeq + 1 ∧
      ((t.world w).lq q).head = r.head + 1 ∧ t.nextLid = s.nextLid + 1 ∧ t.rrWorld = tabSet 0 s.rrWorld (s.launchUnit w) w ∧
      (t.launch s.nextLid).ended = true ∧ (t.launch s.nextLid).status = 2 ∧ (t.launch s.nextLid).queue = q ∧
      (t.launch s.nextLid).seq = (s.world w).launchSeq + 1 ∧ (∀ l, l ≠ s.nextLid → t.launch l = s.launch l) ∧
      t.groups = s.groups ∧ ∀ pa, t.memByte pa = s.memByte pa) ∧
  (∀ (s t : State) (w lid : Nat) (raw : List Byte), s.unread w = some lid →
    s.unitParked (s.launch lid).world (.launch lid) = false → (s.launch lid).denied = none →
    s.unitRead (s.launch lid).world (s.launch lid).obj 256 (.launch lid) = (t, .bytes raw) →
    let st := t.launchStatus (s.launch lid) raw
    (st = 0 → exec (.launchTake w) s = .next (t.modLaunch lid (fun l => { l with hdr := some (parseHeader raw) }))) ∧
    (st ≠ 0 → exec (.launchTake w) s =
      .next (t.modLaunch lid (fun l => { l with ended := true, failed := true, status := st })))) ∧
  (∀ (s : State) (lid ox oy : Nat) (h : Header),
    let l := s.launch lid
    (tabFind s.launches lid).isSome = true → l.hdr = some h → l.placed = false → l.ended = false → l.micro = false →
    s.anyFrozen l.world = false → s.serialOk l = true → s.chooseOrigin lid h = some (ox, oy) → h.grps ≤ 16 →
    ∃ t : State, exec (.ringPlace lid) s = .next t ∧ (t.launch lid).placed = true ∧ (t.launch lid).ox = ox ∧
      (t.launch lid).oy = oy ∧ t.nextTid = s.nextTid + l.rw * l.rh * l.rz ∧
      (∀ x y z, x < l.rw → y < l.rh → z < l.rz →
        let tid := s.nextTid + (z * l.rh + y) * l.rw + x
        (t.troupe tid).lid = lid ∧ (t.troupe tid).x = x ∧ (t.troupe tid).y = y ∧ (t.troupe tid).z = z ∧
          (t.troupe tid).core = (ox + x) + 32 * (oy + y) ∧ (t.troupe tid).resident = false ∧
          tid ∈ (t.core ((ox + x) + 32 * (oy + y))).waitList ∧
          ∀ i, i < h.grps →
            let g := t.group (16 * tid + i)
            t.live (16 * tid + i) = true ∧ g.pc = (l.scodeBase + h.entry) % 2 ^ 64 ∧ g.exm = allLanes h.w ∧
              g.deadm = 0 ∧ g.fmt = 0 ∧ g.fflags = 0 ∧ g.stack = [] ∧ g.laneq = [] ∧
              g.dither = BitVec.ofNat 32 (16 * (l.rw * l.rh * z + l.rw * y + x) + i) ∧
              tabGet 0 g.sregs 1 = (if h.twin = true ∧ i % 2 = 1 then 0 else l.args)) ∧
      (∀ tid, tid < s.nextTid → t.troupe tid = s.troupe tid) ∧
      (∀ gid, gid < 16 * s.nextTid → t.group gid = s.group gid) ∧ ∀ pa, t.memByte pa = s.memByte pa) ∧
  (∀ (s u : State) (lid sl : Nat) (h : Header) (secs : List (List Byte)),
    let l := s.launch lid
    (tabFind s.launches lid).isSome = true → l.hdr = some h → (s.world l.world).slices[l.slice]? = some sl →
    l.micro = true → l.placed = false → l.ended = false → (s.bdc sl).lid = none → s.anyFrozen l.world = false →
    s.serialOk l = true → s.unitParked l.world (.launch lid) = false → l.denied = none →
    s.readSections lid h = (u, secs, none) → (tabFind u.launches lid).isSome = true →
    ∃ t : State, exec (.microkernelStart lid) s = .next t ∧ (t.launch lid).placed = true ∧ (t.bdc sl).lid = some lid ∧
      (t.bdc sl).pc = (l.scodeBase + h.entry) % 2 ^ 64 ∧ (t.bdc sl).fmt = 0 ∧ (t.bdc sl).fflags = 0 ∧
      (∀ r, r < 64 → tabGet 0 (t.bdc sl).sregs r = if r = 1 then BitVec.ofNat 64 (l.args.toNat % 65536) else 0) ∧
      (∀ k, k < (secs.getD 0 []).length → tabGet 0 (t.bdc sl).scode k = (secs.getD 0 []).getD k 0) ∧
      (∀ k, k < (secs.getD 3 []).length → tabGet 0 (t.bdc sl).store k = (secs.getD 3 []).getD k 0) ∧
      (t.bdc sl).mbx = (u.bdc sl).mbx ∧ t.groups = u.groups ∧ ∀ pa, t.memByte pa = u.memByte pa) ∧
  ∀ (s : State) (lid : Nat),
    let l := s.launch lid
    let word := l.status % 256 + 2 ^ 8 * (l.endc % 256) + 2 ^ 16 * (l.cls % 256) + 2 ^ 31
    let closed (u : State) : State := u.modLaunch lid (fun l => { l with past := true, denied := none })
    l.ended = true → l.past = false → s.launchGroups lid = [] → s.launchStored lid = true → s.launchCores lid = [] →
    s.unitParked l.world (.launch lid) = false →
    (∀ u, l.cpl % 32 = 0 → l.denied = none →
      s.unitWrite l.world l.cpl
        (natBytes 4 word ++ natBytes 4 l.tag ++ natBytes 8 l.seq ++ natBytes 8 (s.now - l.taken) ++ natBytes 8 0)
        (.launch lid) = (u, .bytes []) →
      exec (.completionRecord lid) s = .next (closed u)) ∧
    (l.cpl % 32 ≠ 0 → ∃ v : Nat, exec (.completionRecord lid) s = .next (closed (s.log l.world v)) ∧ v % 2 ^ 8 = 0x17)

/-- R50, R51, R146, R263 to R270, R333, R334, R417, R422. -/
def Obligations.SchedulerEvents : Prop :=
  (∀ (s : State) (c tid : Nat),
    let h := s.troupeHeader tid
    s.nextTroupe c = some tid → (tabFind s.troupes tid).isSome = true → (s.troupe tid).core = c →
    (∀ k ∈ s.groupsOf tid, (s.group k).stack.length ≤ 32 ∧ (s.group k).withdrawn = [] ∧ (s.group k).engq = []) →
    ((s.troupe tid).saved = true → s.imageHeld tid (s.troupe tid).saveSlot = false) →
    (s.residents c = [] → (s.core c).l1Held.length ≤ (2 ^ 20 - coreHolds h * spadBytes h) / 128) →
    ∃ t : State, exec (.troupeResident c) s = .next t ∧ (t.troupe tid).resident = true ∧ (t.troupe tid).saved = false ∧
      (t.troupe tid).residentSince = s.now ∧ tid ∉ (t.core c).waitList ∧
      (s.residents c = [] → (t.core c).split = coreHolds h * spadBytes h) ∧
      (∀ k ∈ s.groupsOf tid, t.group k =
        { s.group k with
          quarter := quarterOf h (k % 16)
          slot := (t.group k).slot
          cueWait := none
          cueLwait := none
          cueRdv := none
          accs := []
          ifc := [] }) ∧
      (∀ k, s.groupsOf tid = [k] →
        let q := quarterOf h (k % 16)
        (t.group k).slot = ((s.core c).freeSlots h q).headD 0 ∧
          tabFind (t.core c).slots (16 * q + (t.group k).slot) = some k) ∧
      (∀ k, k ∉ s.groupsOf tid → t.group k = s.group k) ∧ (∀ k, k ≠ tid → t.troupe k = s.troupe k) ∧
      ∀ pa, t.memByte pa = s.memByte pa) ∧
  (∀ (s : State) (c q sl gid : Nat) (r : Run) (l : List Run),
    let us := (s.unitsOf c q).filter s.eligible
    sl < 4 → s.sliceFree c q sl = true → gid ∈ us →
    (∀ k ∈ us, k ≠ gid → s.runBefore gid k = true ∧ s.runBefore k gid = false) →
    (s.group gid).converged = false → s.live gid = true → (s.group gid).laneq = r :: l →
    ∃ t : State, exec (.runStart c q sl) s = .next t ∧
      (t.group gid).laneq = { r with slice := some sl, admitted := true } :: l ∧ (t.group gid).lwait = none ∧
      (∀ k, (t.guard gid k).st = (s.guard gid k).st ∧
        (t.guard gid k).count =
          (s.guard gid k).count - (if r.admitted = false ∧ r.guard = some k then 1 else 0)) ∧
      t = s.modGroup gid (fun g =>
        { g with laneq := (t.group gid).laneq, guards := (t.group gid).guards, lwait := none })) ∧
  (∀ (s : State) (gid n : Nat) (r : Run) (l : List Run),
    (s.group gid).converged = false → (s.group gid).laneq = r :: l → s.eligible gid = true → r.promoted = none →
    s.eligibleSince gid = n → n + 256 ≤ s.now →
    exec (.runPromotion gid) s = .next (s.modGroup gid (fun g =>
      { g with laneq := { r with eligible := some n, promoted := some (n + 256) } :: l }))) ∧
  (∀ (s : State) (gid k : Nat) (r : Run) (l : List Run),
    (s.group gid).converged = false → s.mayIssue gid = true → (s.group gid).trapMode = false →
    (s.group gid).laneq = r :: l → r.guard = some k → r.admitted = false → (s.guard gid k).st = .resolvedFalse →
    ∃ t : State, exec (.guardedEntryDiscard gid) s = .next t ∧ (t.group gid).laneq = l ∧
      (∀ j, (t.guard gid j).st = (s.guard gid j).st ∧
        (t.guard gid j).count = (s.guard gid j).count - (if j = k then 1 else 0)) ∧
      t = s.modGroup gid (fun g =>
        { g with laneq := l, guards := (t.group gid).guards, lwait := none })) ∧
  (∀ (s : State) (c w : Nat), (s.core c).owner = some w → (s.world w).present = true →
    let q := 1200 * (s.world w).quantum
    (s.now < (s.core c).lastExpiry + (s.core c).period.getD q → exec (.quantumExpiry c) s = .next s) ∧
    ((s.core c).lastExpiry + (s.core c).period.getD q ≤ s.now → (s.waiting c).Nodup →
      (∀ k ∈ s.waiting c, (tabFind s.troupes k).isSome = true) →
      ∃ t : State, exec (.quantumExpiry c) s = .next t ∧ (t.core c).lastExpiry = s.now ∧ (t.core c).period = some q ∧ t.groups = s.groups ∧
        t.mem = s.mem ∧
        (∀ k ∈ s.waiting c, (t.troupe k).waited = (s.troupe k).waited + 1 ∧
          (t.troupe k).reached = (if (s.troupe k).waited = 7 then some s.now else (s.troupe k).reached)) ∧
        (∀ head, s.waiting c = [head] →
          (∃ k ∈ s.residents c, (s.troupe k).lid ≠ (s.troupe head).lid) →
          ∀ k ∈ s.residents c, (s.troupe k).halting = none → (s.troupe k).held = false → (s.troupe k).retired = false →
            (t.troupe k).halting = some .save) ∧
          ∀ head, s.waiting c = [head] →
            (∃ k ∈ s.residents c, (s.troupe k).lid ≠ (s.troupe head).lid) →
            ∀ k ∈ s.residents c, ((s.troupe k).halting = some .take ∨ (s.troupe k).halting = some .rollback) →
              (s.troupe k).held = false → (t.troupe k).saveDue = true ∧ (t.troupe k).halting = (s.troupe k).halting)) ∧
  ∀ (s : State) (tid : Nat), (tabFind s.troupes tid).isSome = true →
    let w := (s.launch (s.troupe tid).lid).world
    let c := (s.troupe tid).core
    let image (x : Nat) : Prop := ∃ p, s.slotPa w c (s.openSlot w c) = some p ∧ p ≤ x ∧ x < p + slotBytes
    let plain : Prop := s.released tid = true ∧ s.imageHeld tid (s.openSlot w c) = false ∧
      (∀ x v, s.cachedInL2 v x = false) ∧ ∀ sl, (s.slice sl).forward = false
    ((s.troupe tid).halting = none → exec (.preemptionHalt tid) s = .next s) ∧
    (∀ why, (s.troupe tid).halting = some why → (s.troupe tid).resident = true → s.troupeDrained tid = true → plain →
      (∀ k ∈ s.groupsOf tid,
        (s.group k).stack = [] ∧ (s.group k).accs = [] ∧ (s.group k).engq = [] ∧ (s.group k).withdrawn = [] ∧
          (∀ n, (s.group k).wait ≠ some (.trans n)) ∧ ∀ n, (s.group k).lwait ≠ some (.trans n)) →
      ((why = .save ∨ why = .freeze) →
        ∃ t : State, exec (.preemptionHalt tid) s = .next t ∧ (t.troupe tid).resident = false ∧
          (t.troupe tid).saved = true ∧ (t.troupe tid).halting = none ∧ (t.troupe tid).entered = s.now ∧
          tid ∈ (t.core c).waitList ∧ (t.troupe tid).saveSlot = s.openSlot w c ∧
          (∀ k ∈ s.groupsOf tid,
            (∀ p ∈ (t.core c).slots, p.2 ≠ k) ∧
            t.group k =
              { (s.group k).unseat with
                ifc := []
                ahead := none
                rdv := none
                wait := none
                lwait := none }) ∧
          (∀ k, k ∉ s.groupsOf tid → t.group k = s.group k) ∧ ∀ x, ¬image x → t.memByte x = s.memByte x) ∧
      (why = .debug → s.atBoundary tid = true →
        ∃ t : State, exec (.preemptionHalt tid) s = .next t ∧ (t.troupe tid).resident = true ∧
          (t.troupe tid).halting = none ∧
          ∀ k ∈ s.groupsOf tid, (t.group k).halted = true ∧
            ((s.group k).recorded = false → (t.group k).record.isSome = true) ∧ (t.group k).sregs = (s.group k).sregs ∧
            (t.group k).vregs = (s.group k).vregs ∧ (t.group k).pc = (s.group k).pc)) ∧
    ∀ gid e pa, ((s.troupe tid).halting = some .save ∨ (s.troupe tid).halting = some .freeze) →
      (s.troupe tid).resident = true → s.troupeDrained tid = true → plain → s.groupsOf tid = [gid] →
      (s.group gid).stack = [e] → (s.group gid).withdrawn = [] → (s.group gid).accs = [] → (s.group gid).engq = [] → (s.group gid).wait = none → (s.group gid).lwait = none →
      s.spillPa gid 0 = some pa → pa % 64 + 32 ≤ 64 → s.reachesRow (s.worldOf gid) pa →
      ∃ t : State, exec (.preemptionHalt tid) s = .next t ∧ (t.troupe tid).saved = true ∧ (t.group gid).stack = [e] ∧
        ∀ x, ¬image x → t.memByte x = if pa ≤ x ∧ x < pa + 32 then e.bytes.getD (x - pa) 0 else s.memByte x

/-- R116, R135, R144, R214, R226, R313, R314, R320 to R323, R327, R332, R336 to R338. -/
def Obligations.WaitAndTakeEvents : Prop :=
  (∀ (s : State) (gid : Nat) (w : WaitOn), s.ctxOf gid = gid → (s.group gid).wait = some w → s.mayIssue gid = true →
    let ends : Out := .next (s.modGroup gid (fun g => { g with wait := none }))
    let e := exec (.scalarWaitEnd (.group gid)) s
    (∀ key n, w = .barrier key n → e = if (s.barrier key).phase ≠ n then ends else .next s) ∧
    (∀ k, w = .guardResolved k → e = if (s.guard gid k).st ≠ .pending then ends else .next s) ∧
    (∀ k n, w = .guardRoom k n → e = if (s.guard gid k).count + n ≤ 15 then ends else .next s) ∧
    (∀ p n, w = .counter p n → (s.group gid).converged = false →
      e = if (s.group gid).count p ≤ n then ends else .next s) ∧
    (w = .laneRoom → (s.group gid).converged = false →
      e = if (s.group gid).laneq.length < 8 then ends else .next s) ∧
    (w = .issued → (s.group gid).converged = false → (s.group gid).trapMode = false →
      e = if (s.group gid).laneq = [] then ends else .next s)) ∧
  (∀ (s : State) (sl : Nat), (s.bdc sl).wait = some .mailbox →
    exec (.scalarWaitEnd (.bdc sl)) s =
      .next (if (s.bdc sl).mbx = [] then s else s.modBdc sl (fun c => { c with wait := none }))) ∧
  (∀ (s : State) (gid : Nat), s.ctxOf gid = gid → s.mayIssue gid = true → (s.group gid).delay = 0 →
    (s.group gid).trapMode = false → (∀ n, (s.group gid).wait ≠ some (.trans n)) →
    let taken (d : TrapInfo) : Out :=
      .next ((s.modGroup gid (fun g => { g with deferred := g.deferred.erase d })).takeTrap gid d (s.group gid).pc)
    let e := exec (.deferredTrapDelivery gid) s
    ((s.group gid).deferred = [] → e = .next s) ∧
    (∀ d l, (s.group gid).deferred = d :: l → d.laneWord = true → e = taken d) ∧
    (∀ a b, (s.group gid).deferred = [a, b] → a.laneWord = false → b.laneWord = true → e = taken b) ∧
    (∀ a b, (s.group gid).deferred = [a, b] → a.laneWord = false → b.laneWord = false →
      e = if b.path < a.path ∨ (b.path = a.path ∧ b.seq < a.seq) then taken b else taken a)) ∧
  (∀ (s : State) (gid tid : Nat), s.ctxOf gid = gid → s.mayRetire gid = true → gid / 16 = tid →
    (s.group gid).tid = tid → (s.group (partnerOf gid)).rdv = none → (s.troupe tid).hold = [] → s.released tid = true →
    (s.group gid).converged = false →
    ∃ t : State, exec (.groupRetire gid) s = .next t ∧ t.live gid = false ∧
      (∀ k, k ≠ gid → t.group k = s.group k ∧ t.live k = s.live k) ∧
      (∀ c, ∀ p ∈ (t.core c).slots, c = s.coreOf gid → p.2 ≠ gid) ∧
      (s.groupsOf tid = [gid] → (t.troupe tid).retired = true ∧ (t.troupe tid).resident = false ∧
        tid ∉ (t.core (s.coreOf gid)).waitList) ∧
      (s.groupsOf tid ≠ [gid] → (t.troupe tid).retired = (s.troupe tid).retired) ∧
      ∀ pa, t.memByte pa = s.memByte pa) ∧
  (∀ (s : State) (gid : Nat), s.mayIssue gid = true → (s.group gid).split = true → (s.group gid).wait = some .rejoin →
    let p := partnerOf gid
    let l := leadOf gid
    (s.live p = true → (s.group gid).jwait = true → (s.group p).jwait = true → (s.group p).wait = some .rejoin →
      ∃ t : State, exec (.twinRejoin gid) s = .next t ∧ (t.group l).split = false ∧ (t.group (l + 1)).split = false ∧
        (t.group l).pc = wordsFrom (s.group l).pc 1 ∧ (t.group l).sregs = (s.group l).sregs ∧
        (t.group l).wait = none ∧ (t.group l).jwait = false ∧ (t.group (l + 1)).jwait = false ∧
        (∀ k, (t.group k).vregs = (s.group k).vregs ∧ (t.group k).preds = (s.group k).preds ∧
          (t.group k).exm = (s.group k).exm ∧ (t.group k).fmt = (s.group k).fmt) ∧
        (∀ k, k ≠ l → k ≠ l + 1 → t.group k = s.group k)) ∧
    (s.live p = true → (s.group gid).jwait = true → (s.group p).jwait = false →
      exec (.twinRejoin gid) s = .next s) ∧
    (s.live p = false →
      exec (.twinRejoin gid) s = .next (s.modGroup gid (fun g =>
        { g with
          jwait := false
          pc := wordsFrom g.pc 1
          wait := none }))) ∧
    (s.live p = true → (s.group gid).jwait = false → s.guardedCmd gid = false → (s.group p).rdv = none →
      exec (.twinRejoin gid) s = .next (s.modGroup gid (fun g => { g with jwait := true })))) ∧
  (∀ (s : State) (lid : Nat),
    let l := s.launch lid
    let d := s.stuck lid
    let ks := d.map (·.1)
    (∀ p ∈ d, p.2.leaves ks = false) ∧
    let set := d.map (fun p => (p.1, p.2.obj, p.2.objid))
    let noted (s : State) : State := s.modLaunch lid (fun l => { l with reported := set })
    ((l.placed = false ∨ l.ended = true ∨ l.micro = true) → exec (.cueSheetWalk lid) s = .next s) ∧
    (l.placed = true → l.ended = false → l.micro = false → (d = [] ∨ (s.world l.world).policy = false) →
      exec (.cueSheetWalk lid) s =
        .next (noted (if d = [] ∨ l.reported = set then s else s.logDeadlock lid d))) ∧
    (d ≠ [] → l.placed = true → l.ended = false → l.micro = false → l.failed = false →
      (s.world l.world).policy = true → (s.world l.world).assisted 1 = false →
      ∃ t : State, exec (.cueSheetWalk lid) s = .next t ∧ (t.launch lid).failed = true ∧ (t.launch lid).endc = 2 ∧
        (∀ k ∈ s.launchGroups lid,
          if (s.group k).adrift = [] then t.live k = false
          else (t.group k).ended = true ∧ (t.group k).laneq = [] ∧ (t.group k).engq = (s.group k).adrift) ∧
        ∀ pa, t.memByte pa = s.memByte pa)) ∧
  ∀ (s : State) (tid : Nat), (s.troupe tid).resident = true → (s.troupe tid).retired = false →
    let tr := s.troupe tid
    let w := (s.launch tr.lid).world
    let buffer (x : Nat) : Prop := ∃ p, s.takePa tid = some p ∧ p ≤ x ∧ x < p + takeBytes
    (tr.takesOn = true → tr.halting = none → tr.takeDue (s.troupeHeader tid) = true →
      exec (.takeCapture tid) s = .next (s.modTroupe tid (fun t => { t with halting := some .take }))) ∧
    (tr.takesOn = true → tr.halting = some .take → tr.landing = false → s.troupeDrained tid = true → tr.hold = [] →
      s.released tid = true → s.takeHeld tid = false → (∀ x v, s.cachedInL2 v x = false) →
      (∀ sl, (s.slice sl).forward = false) →
      s.frozenRing (s.launch tr.lid) = false → tr.held = false → tr.saveDue = false →
      (∀ k ∈ s.groupsOf tid,
        (s.group k).stack.length ≤ 32 ∧ (s.group k).accs = [] ∧ (s.group k).engq = [] ∧ (s.group k).withdrawn = [] ∧
          (∀ n, (s.group k).wait ≠ some (.trans n)) ∧ ∀ n, (s.group k).lwait ≠ some (.trans n)) →
      ∃ (t : State) (c : Take), exec (.takeCapture tid) s = .next t ∧ (t.troupe tid).take = some c ∧
        (t.troupe tid).halting = none ∧ (t.troupe tid).rollbacks = 0 ∧ (t.troupe tid).arrivals = [] ∧
        (t.troupe tid).takeBuf = 1 - tr.takeBuf ∧ c.spad = tr.spad ∧ c.spadPoison = tr.spadPoison ∧ c.queues = tr.queues ∧
        c.groups = (s.groupsOf tid).map (fun k => (k,
          { s.group k with
            ifc := []
            ahead := none
            rdv := none
            wait := none
            lwait := none })) ∧
        (∀ p ∈ c.groups, t.group p.1 = p.2) ∧ (∀ k, k ∉ s.groupsOf tid → t.group k = s.group k) ∧
        ∀ x, ¬buffer x → t.memByte x = s.memByte x) ∧
    (tr.takesOn = true → tr.halting = some .take → tr.landing = true → s.released tid = false →
      exec (.takeCapture tid) s = .next s) ∧
    (∀ c, tr.halting = some .rollback → s.troupeDrained tid = true → tr.take = some c →
      s.frozenRing (s.launch tr.lid) = false → tr.held = false → tr.saveDue = false → tr.secondTakes = [] → (c.groups.map (·.1)).Nodup →
      (∀ p ∈ c.groups, p.2.withdrawn = [] ∧ p.2.engq = [] ∧ p.2.stack.length ≤ 32) →
      (∀ k ∈ s.groupsOf tid, (s.group k).stack.length ≤ 32) →
      ∃ t : State, exec (.rollback tid) s = .next t ∧ (t.troupe tid).spad = c.spad ∧
        (t.troupe tid).spadPoison = c.spadPoison ∧ (t.troupe tid).queues = c.queues ∧
        (t.troupe tid).hold = [] ∧ (t.troupe tid).rollbacks = tr.rollbacks + 1 ∧ (t.troupe tid).halting = none ∧
        (∀ p ∈ c.groups, (t.group p.1).sregs = p.2.sregs ∧ (t.group p.1).vregs = p.2.vregs ∧
          (t.group p.1).preds = p.2.preds ∧ (t.group p.1).pc = p.2.pc ∧ (t.group p.1).exm = p.2.exm ∧
          (t.group p.1).stack = p.2.stack ∧ (t.group p.1).laneq = p.2.laneq) ∧
        ((s.world w).present = true → (s.world w).destroying = false →
          tabGet 0 (t.world w).counters 1 = tabGet 0 (s.world w).counters 1 + 1))

/-- R116, R131, R191, R217 to R225, R232 to R236, R254, R257, R276 to R288, R294, R303, R304, R319, R384, R385, R395. The
entry that the fault service writes rests on log entry 22 (DEDUCED, UNSAFE), TVAL of the engine's trap on entry 29, the index
list read at the start on entry 44, and the take that a command under a guard asks for at its start on entry 58. -/
def Obligations.MemoryEvents : Prop :=
  (∀ (s : State) (gid : Nat) (a : Access) (l : LaneAcc) (sg : Bool), s.soleAccess gid a l → a.op = .load sg →
    l.stage = .ready →
    let tr := s.troupe (s.group gid).tid
    let e := exec (.loadReturn gid a.aid l.lane) s
    (a.space = .spad → tr.spadHurt l.addr a.part = false →
      ∃ t : State, e = .next t ∧ s.arrived t gid a l (loadWords sg (tr.spadGet l.addr a.part)) ∧
        (t.group gid).took = (s.group gid).took) ∧
    (∀ (u : State) bytes, a.space = .mem → l.pa < deviceBytes →
      (scopeRank a.scope ≤ 1 → s.l1Can (s.coreOf gid) (s.worldOf gid) l.pa = true) →
      (1 < scopeRank a.scope → s.homeBusy (s.worldOf gid) l.pa false = false ∧
        s.seenBlocks (s.coreOf gid) l.pa a.part = false) →
      tr.hold = [] → s.lsBytes (s.coreOf gid) (s.worldOf gid) l.pa a.part a.scope = (u, bytes, List.replicate a.part false) →
      ∃ t : State, e = .next t ∧ u.arrived t gid a l (loadWords sg bytes)) ∧
    (∀ (u : State) bytes, a.space = .konst → l.pa < deviceBytes → s.homeBusy (s.worldOf gid) l.pa false = false →
      s.seenBlocks (s.coreOf gid) l.pa a.part = false → tr.hold = [] →
      s.constBytes (s.coreOf gid) (s.worldOf gid) l.pa a.part l.ro = (u, bytes, false) →
      ∃ t : State, e = .next t ∧ u.arrived t gid a l (loadWords sg bytes))) ∧
  (∀ (s : State) (c w pa n : Nat) (sc : Scope), (sc = .die ∨ sc = .dev ∨ sc = .sys ∨ sc = .booth) →
    pa % 64 + n ≤ 64 → (s.slice (sliceOfPa pa)).forward = false → tabFind s.turn (sectorOf pa) = none →
    tabFind s.l2 (sectorOf pa) = none → s.portAccepts w pa = true → s.rowOk pa = true → (s.rowMeta pa).uncorr = false →
    s.homePoison = [] → s.spoiled = [] → s.treeBad = [] → (∀ k, (s.core k).wbuf = []) →
    tabFind (s.core c).l1 (sectorOf pa) = none →
    (s.lsBytes c w pa n sc).2 = ((List.range n).map (fun i => s.memByte (pa + i)), List.replicate n false)) ∧
  (∀ (s : State) (gid : Nat) (a : Access) (l : LaneAcc), s.soleAccess gid a l → a.op = .store →
    let c := s.coreOf gid
    let tid := (s.group gid).tid
    let done (g : Group) : Prop :=
      g.accs = [] ∧ ∀ q, g.count q = (s.group gid).count q - (if q = a.path ∧ a.silent = false then 1 else 0)
    let leaves : Prop := a.left = false ∧ l.stage = .ready ∧ (s.core c).wbuf = [] ∧
      s.coreHolding gid a.aid l.lane = none ∧ (s.group gid).lwait ≠ some (.trans a.aid) ∧
      (s.group gid).wait ≠ some (.trans a.aid)
    (∀ q, leaves → (tabFind s.troupes tid).isSome = true → a.space = .queue q →
      ∃ t : State, exec (.storeAck gid a.aid l.lane) s = .next t ∧ done (t.group gid) ∧
        (∀ k, tabGet [] (t.troupe tid).queues k =
          if k = q then tabGet [] (s.troupe tid).queues k ++ [l.entry] else tabGet [] (s.troupe tid).queues k) ∧
        (∀ k, k ≠ tid → t.troupe k = s.troupe k) ∧ t = { s with groups := t.groups, troupes := t.troupes }) ∧
    (leaves → (tabFind s.troupes tid).isSome = true → a.space = .spad →
      ∃ t : State, exec (.storeAck gid a.aid l.lane) s = .next t ∧ done (t.group gid) ∧
        (∀ o, (t.troupe tid).spadByte o =
          if l.addr ≤ o ∧ o < l.addr + l.data.length then l.data.getD (o - l.addr) 0
          else (s.troupe tid).spadByte o) ∧
        (∀ k, k ≠ tid → t.troupe k = s.troupe k) ∧ t = { s with groups := t.groups, troupes := t.troupes }) ∧
    (∀ v : Sector, leaves → a.space = .mem → s.takesOn gid = false → scopeRank a.scope ≤ 1 →
      tabFind (s.core c).l1 (sectorOf l.pa) = some v → l.pa % 64 + l.data.length ≤ 64 →
      let at_ (i : Nat) : Bool := inRange (l.pa % 64) l.data.length i
      ∃ (t : State) (u : Sector), exec (.storeAck gid a.aid l.lane) s = .next t ∧ done (t.group gid) ∧
        tabFind (t.core c).l1 (sectorOf l.pa) = some u ∧ (t.core c).wbuf = [] ∧
        (∀ i, i < 64 → tabGet 0 u.bytes i = (if at_ i then l.data.getD (i - l.pa % 64) 0 else tabGet 0 v.bytes i) ∧
          u.dirty.getLsbD i = (v.dirty.getLsbD i || at_ i)) ∧
        (∀ k, k ≠ sectorOf l.pa → tabFind (t.core c).l1 k = tabFind (s.core c).l1 k) ∧
        t = { s with groups := t.groups, cores := t.cores }) ∧
    (leaves → a.space = .mem → s.takesOn gid = false →
      (a.scope = .die ∨ a.scope = .dev ∨ a.scope = .sys) →
      ∃ t : State, exec (.storeAck gid a.aid l.lane) s = .next t ∧
        (t.core c).wbuf =
          [{  gid := gid
              aid := a.aid
              lane := l.lane
              world := s.worldOf gid
              pa := l.pa
              bytes := l.data
              booth := false }] ∧
        (t.group gid).accs = [{ a with left := true, lanes := [{ l with stage := .done }] }] ∧
        t = { s with groups := t.groups, cores := t.cores }) ∧
    (∀ e : WEntry, a.left = true → a.allDone = true → s.coreHolding gid a.aid l.lane = some c →
      (s.core c).wbuf = [e] → e.gid = gid → e.aid = a.aid → e.lane = l.lane → e.booth = false →
      s.seenBlocks c e.pa e.bytes.length = false → s.reachesRow e.world e.pa →
      ∃ t : State, exec (.storeAck gid a.aid l.lane) s = .next t ∧ done (t.group gid) ∧ (t.core c).wbuf = [] ∧
        (∀ x, t.memByte x =
          if e.pa ≤ x ∧ x < e.pa + e.bytes.length then e.bytes.getD (x - e.pa) 0 else s.memByte x) ∧
        (t.rowMeta e.pa).counter = (s.rowMeta e.pa).counter + 1 ∧ (∀ k, k ≠ gid → t.group k = s.group k))) ∧
  (∀ (s : State) (gid : Nat) (a : Access) (l : LaneAcc), s.soleAccess gid a l → l.stage = .untranslated →
    (∀ op w64, a.op ≠ .atom op w64) → a.dies = [] →
    let e := exec (.translationEnd gid a.aid) s
    let x := s.xlateHit (s.coreOf gid) (s.worldOf gid) l.addr (opKind a.op)
    (∀ pa w y, x = some (.ok pa w y) →
      let u (pops : List Nat) : State := s.modGroup gid (fun g =>
        { g with accs := [{ a with lanes := [{ l with pa := pa, stage := .ready, ro := !w }], pops := pops }] })
      ((s.group gid).lwait = some (.trans a.aid) → a.laneWord = true → e = .next (((u []).popAll gid a.pops).laneDone gid a.e)) ∧
      ((s.group gid).wait = some (.trans a.aid) → a.laneWord = false → e = .next ((u []).advance (.group gid))) ∧
      ((s.group gid).lwait ≠ some (.trans a.aid) → (s.group gid).wait ≠ some (.trans a.aid) → e = .next (u a.pops))) ∧
    (∀ c, x = some (.trap c) → (s.group gid).lwait = some (.trans a.aid) → a.laneWord = true →
      ∃ t : State, e = .next t ∧ (t.group gid).accs = [] ∧ (t.group gid).lwait = none ∧
        (t.group gid).deferred = (s.group gid).deferred ++
          [{ cls := 4, cause := c, tval := BitVec.ofNat 64 l.addr, laneWord := true }] ∧
        (t.group gid).vregs = (s.group gid).vregs ∧ (t.group gid).laneq = (s.group gid).laneq)) ∧
  (∀ (s : State) (w : Nat) (f : FaultRec), (s.world w).faults = [f] →
    let v := s.world w
    (v.assisted 0 = true → f.posted = false → v.fq.en = true → v.fq.err = false → v.fq.held < v.fq.size →
      s.hostFails.contains (v.fq.base + 32 * (v.fq.tail.toNat % v.fq.size)) = false →
      ∃ t : State, exec (.faultService w f.seq) s = .next t ∧ (t.world w).faults = [{ f with posted := true }] ∧
        (t.world w).fq = { v.fq with tail := v.fq.tail + 1 } ∧
        (∀ k, k < 32 → t.hostByte (v.fq.base + 32 * (v.fq.tail.toNat % v.fq.size) + k) = f.bytes.getD k 0) ∧
        t.groups = s.groups ∧ t.mem = s.mem) ∧
    (∀ y : State, v.assisted 0 = false → s.pageMapped w (65536 * f.page) = (y, some true) →
      exec (.faultService w f.seq) s = .next (y.answer w f true)) ∧
    (v.assisted 0 = false → tabGet none v.areas 4 = none →
      exec (.faultService w f.seq) s = .next (s.answer w f true)) ∧
    (∀ (root : Area) (y u x : State) (at_ : Nat), v.assisted 0 = false → tabGet none v.areas 4 = some root →
      s.pageMapped w (65536 * f.page) = (y, some false) → y.entryAt w (65536 * f.page) 3 root.base = (u, some (some at_)) →
      u.poolFrame w = (x, some none) → exec (.faultService w f.seq) s = .next (x.answer w f false)) ∧
    (∀ (root : Area) (y u x : State) (at_ frame : Nat), v.assisted 0 = false → tabGet none v.areas 4 = some root →
      s.pageMapped w (65536 * f.page) = (y, some false) →
      y.entryAt w (65536 * f.page) 3 root.base = (u, some (some at_)) → u.poolFrame w = (x, some (some frame)) →
      frame % 65536 = 0 → x.ownsRange w frame 65536 = true → x.homeBusy w at_ true = false →
      x.rangeBusy w frame 65536 = false →
      exec (.faultService w f.seq) s =
        .next ((((x.zeroFrame w frame).homeWriteAll w at_ (natBytes 8 (frame + 7 + if f.kind = 2 then 8 else 0)) false).modWorld
          w (fun v => { v with poolUsed := v.poolUsed + 1 })).answer w f true))) ∧
  (∀ (n : Nat) (old v cmp : BitVec n),
    atomValue .add old v cmp = old + v ∧ atomValue .and old v cmp = old &&& v ∧ atomValue .or old v cmp = old ||| v ∧
    atomValue .xor old v cmp = old ^^^ v ∧ atomValue .xchg old v cmp = v ∧
    (atomValue .min old v cmp).toInt = min old.toInt v.toInt ∧ (atomValue .max old v cmp).toInt = max old.toInt v.toInt ∧
    (atomValue .minn old v cmp).toNat = min old.toNat v.toNat ∧ (atomValue .maxn old v cmp).toNat = max old.toNat v.toNat ∧
    atomValue .cas old v cmp = if old = cmp then v else old) ∧
  (∀ (s : State) (gid : Nat) (a : Access) (l : LaneAcc) (op : AtomOp) (w64 : Bool), s.soleAccess gid a l →
    a.op = .atom op w64 → l.stage = .ready → a.size = (if w64 then 8 else 4) →
    let tid := (s.group gid).tid
    let tr := s.troupe tid
    (a.space = .spad → tr.spadHurt l.addr a.size = false → (tabFind s.troupes tid).isSome = true →
      let old := tr.spadGet l.addr a.size
      ∃ t : State, exec (.turnstileAtomic gid a.aid l.lane) s = .next t ∧
        ({ s with troupes := t.troupes } : State).arrived t gid a l (wordsOf old) ∧
        ∀ o, (t.troupe tid).spadByte o =
          if l.addr ≤ o ∧ o < l.addr + a.size then (atomBytes op w64 old l.data).getD (o - l.addr) 0 else tr.spadByte o) ∧
    (∀ v : Sector, a.space = .mem → (s.slice (sliceOfPa l.pa)).forward = false →
      tabFind s.turn (sectorOf l.pa) = some v → v.hurt (l.pa % 64) a.size = false → l.pa % 64 + a.size ≤ 64 →
      (s.world (s.worldOf gid)).tshare ≠ 0 → v.world = s.worldOf gid → s.spoiled = [] →
      s.seenBlocks (s.coreOf gid) l.pa a.size = false → s.behindRequest gid a l = false →
      (s.turnStops (s.worldOf gid) l.pa && !s.queuedRequest gid a.aid l.lane) = false →
      let off := l.pa % 64
      let old := v.slice off a.size
      ∃ (t : State) (v' : Sector), exec (.turnstileAtomic gid a.aid l.lane) s = .next t ∧
        ({ s with turn := t.turn, turnUse := s.turnUse + 1, worlds := t.worlds } : State).arrived t gid a l (wordsOf old) ∧
        (∀ x, t.world x = { s.world x with flows := (t.world x).flows }) ∧
        tabFind t.turn (sectorOf l.pa) = some v' ∧
        (∀ i, i < 64 → tabGet 0 v'.bytes i =
          if off ≤ i ∧ i < off + a.size then (atomBytes op w64 old l.data).getD (i - off) 0 else tabGet 0 v.bytes i) ∧
        ∀ k, k ≠ sectorOf l.pa → tabFind t.turn k = tabFind s.turn k)) ∧
  (∀ (s : State) (w pa : Nat), pa < deviceBytes → (s.slice (sliceOfPa pa)).forward = false →
    (tabFind s.turn (sectorOf pa) = none → tabFind s.l2 (sectorOf pa) = none → s.cachedInL2 w pa = true →
      s.homeBusy w pa false = false → (s.l2Held w pa).length < s.l2Cap w pa → s.portAccepts w pa = true → s.rowOk (pa / 64 * 64) = true →
      (s.rowMeta pa).uncorr = false → s.homePoison = [] →
      ∃ (t : State) (v : Sector), exec (.slicePortRead w pa) s = .next t ∧ tabFind t.l2 (sectorOf pa) = some v ∧
        v.world = w ∧ v.dirty = 0 ∧ v.poison = 0 ∧
        (∀ i, i < 64 → tabGet 0 v.bytes i = s.memByte (pa / 64 * 64 + i)) ∧
        (∀ x, t.world x = { s.world x with flows := (t.world x).flows }) ∧
        t = { s.holdWalk (pa / 64 * 64) with l2 := t.l2, worlds := t.worlds }) ∧
    (∀ v : Sector, tabFind s.l2 (sectorOf pa) = some v → v.world = w → v.dirty ≠ 0 → v.poison = 0 →
      s.portBusy pa true = false → s.portAccepts w pa = true → s.rowOk (pa / 64 * 64) = true →
      s.rowCounter pa ≠ 2 ^ 56 - 1 → s.homePoison = [] →
      ∃ t : State, exec (.slicePortWrite w pa) s = .next t ∧ tabFind t.l2 (sectorOf pa) = some { v with dirty := 0 } ∧
        ∀ x, t.memByte x =
          if x / 64 = pa / 64 ∧ v.dirty.getLsbD (x % 64) = true then tabGet 0 v.bytes (x % 64) else s.memByte x)) ∧
  (∀ (s : State) (gid : Nat) (p : Path) (c : Cmd), (s.group gid).engq = [c] → c.path = p → c.past = false →
    c.started = false → c.delay = 0 → c.outside = false → s.mayIssue gid = true → (s.group gid).converged = false →
    let start (u : State) (idx : List Nat) : Out := .next (u.modGroup gid (fun g =>
      { g with engq := [{ c with started := true, guard := none, idx := idx, tie := if c.begun then c.tie else s.free }] }))
    let idx := if c.begun then c.idx else if c.op = .gth ∨ c.op = .sct then s.readIndexes gid c else []
    let now : Prop := c.op.leavesTroupe = false ∨ s.takesOn gid = false
    let asks : Prop := c.op.leavesTroupe = true ∧ gid ∉ (s.troupe (s.group gid).tid).secondTakes ∧ s.needsTake gid = true
    (c.guard = none → now → exec (.engineCommandStart gid p) s = start s.bumpFree idx) ∧
    ((c.guard = none ∨ ∃ k, c.guard = some k ∧ (s.guard gid k).st = .resolvedTrue) → asks →
      exec (.engineCommandStart gid p) s = .next (s.askTake gid)) ∧
    (∀ k, c.guard = some k →
      ((s.guard gid k).st = .pending → exec (.engineCommandStart gid p) s = .next s) ∧
      ((s.guard gid k).st = .resolvedTrue → now →
        exec (.engineCommandStart gid p) s = start (s.bumpFree.dropGuard gid (some k)) idx) ∧
      ((s.guard gid k).st = .resolvedFalse →
        ∃ t : State, exec (.engineCommandStart gid p) s = .next t ∧ (t.group gid).engq = [] ∧
          (t.guard gid k).count = (s.guard gid k).count - 1 ∧ t.mem = s.mem ∧ t.troupes = s.troupes))) ∧
  (∀ (s : State) (gid : Nat) (c : Cmd),
    let tid := (s.group gid).tid
    let tr := s.troupe tid
    (s.group gid).engq = [c] → (s.group gid).accs = [] → s.live gid = true → c.path = .copy → c.op = .cpy .ss →
    c.past = false → c.started = true → c.detached = false → c.parked = none → c.moved = [] → c.flagged = false →
    s.engineWaits gid c = false →
    (tabFind s.troupes tid).isSome = true → tr.spadPoison = [] →
    (∀ x, (c.plan.srcOf x).isSome = true → c.plan.clash x = false) →
    ∃ t : State, exec (.engineCommandComplete gid .copy) s = .next t ∧ (t.group gid).engq = [] ∧
      (t.group gid).count .copy = (s.group gid).count .copy - 1 ∧
      (∀ o, (t.troupe tid).spadByte o =
        match c.plan.srcOf (swz o (spadSpan c.d)) with
        | some y => tr.spadByte (swz y (spadSpan c.a))
        | none => tr.spadByte o) ∧
      (∀ k, k ≠ tid → t.troupe k = s.troupe k) ∧ t.mem = s.mem) ∧
  ∀ (s : State) (gid : Nat) (c : Cmd) (fin : Bool),
    let w := s.worldOf gid
    let sl := c.f.toNat
    (s.group gid).engq = [c] → (s.group gid).accs = [] → s.live gid = true → c.path = .bank → c.op = .bnk fin →
    c.past = false → c.started = true → c.accepted = false → c.detached = false → sl < 256 →
    (s.slice sl).forward = false →
    ((s.slice sl).owner = some w → (s.ownerKey sl).isSome = true → (s.bdc sl).mbx.length < 16 →
      s.coreOf gid < 1024 → (s.troupe (s.group gid).tid).z < 4 →
      ∃ (t : State) (m : Msg), exec (.mailboxAccept gid) s = .next t ∧ (t.bdc sl).mbx = (s.bdc sl).mbx ++ [m] ∧
        m.w0 = c.d ∧ m.w1 = c.b ∧ m.isDone = fin ∧
        (t.group gid).engq = (if fin then [{ c with accepted := true }] else []) ∧
        (t.group gid).count .bank = (s.group gid).count .bank - (if fin then 0 else 1) ∧ t.mem = s.mem) ∧
    ((s.slice sl).owner = some w → (s.ownerKey sl).isSome = true → 16 ≤ (s.bdc sl).mbx.length →
      exec (.mailboxAccept gid) s = .next s) ∧
    ((s.slice sl).owner ≠ some w → s.ctxOf gid = gid →
      ∃ t : State, exec (.mailboxAccept gid) s = .next t ∧ (t.group gid).engq = [] ∧ (t.bdc sl).mbx = (s.bdc sl).mbx ∧
        (t.group gid).deferred = (s.group gid).deferred ++
          [{ cls := 4, cause := 8, tval := c.a, engine := true, path := 6, seq := c.seq }])

/-- R226, R306, R309, R311, R321, R389 to R392, R399, R404, R405, R408 to R419. The order of the checks is log entry 10's, ERR 1
for world 0 and above 63 and RESUME leaving a heartbeat's freeze entry 33's, ERR 3 of ZEROISE for an identifier that nobody
holds entry 46's: the model's choices. -/
def Obligations.WorldAndKeyCommands : Prop :=
  (∀ (s : State) (w : Nat) (i : Instr),
    let guest : List Instr := [.destroy w, .rectadd w, .rectrem w, .sliceadd w, .slicerem w, .migrate w, .migdone w,
      .l2set w, .share w, .param w, .handle w, .area w, .tlbinv w, .ifinv w, .preempt w, .resume w, .endlaunch w,
      .expose w, .aperture w, .commset w, .walk w]
    let refused (e : Nat) : Out :=
      .next { s.withArgs with cmdif := { s.withArgs.cmdif with wok := false, werr := e } }
    (i ∈ .create w :: guest → s.cmdif.wbusy = true → exec i s = .next s) ∧
    (i ∈ .create w :: guest → s.cmdif.wbusy = false → (w = 0 ∨ 63 < w) → exec i s = refused 1) ∧
    (i ∈ guest → s.cmdif.wbusy = false → 1 ≤ w → w ≤ 63 → (s.world w).present = false → exec i s = refused 4) ∧
    (s.cmdif.wbusy = false → 1 ≤ w → w ≤ 63 → (s.world w).present = true → exec (.create w) s = refused 4)) ∧
  (∀ (s : State) (w : Nat), s.cmdFree w false →
    ∃ t : State, exec (.create w) s = .next t ∧ s.cmdDone t w { present := true, handles := resetHandles }) ∧
  (∀ (s : State) (w : Nat), s.cmdFree w true →
    let v := s.world w
    let n := s.cmdif.warg0.toNat
    let m := s.cmdif.warg1.toNat
    let z := s.cmdif.warg2.toNat
    let b (x hi lo : Nat) : Nat := x / 2 ^ lo % 2 ^ (hi + 1 - lo)
    (s.ringsOf w = [] →
      let h := tabSet 0 v.handles (n % 32) (BitVec.ofNat 16 (512 * b n 31 25))
      (s.openLayout w → ∃ t : State, exec (.handle w) s = .next t ∧ s.cmdDone t w { v with handles := h }) ∧
      (¬s.openLayout w → ∃ t : State, exec (.handle w) s = .next t ∧
        s.cmdDone t w { v with handles := h, tdisp := .error, lockgen := (v.lockgen + 1) % 2 ^ 32 })) ∧
    (4 ≤ b n 9 0 → b n 9 0 ≤ 1000 → (b m 7 0 = v.modes.toNat ∨ (s.ringsOf w = [] ∧ s.openLayout w)) →
      ∃ t : State, exec (.param w) s = .next t ∧ s.cmdDone t w
        { v with
          quantum := b n 9 0
          policy := n.testBit 10
          modes := BitVec.ofNat 8 m
          route := BitVec.ofNat 16 (b m 31 16) }) ∧
    ((b n 9 0 < 4 ∨ 1000 < b n 9 0) → ∃ t : State, exec (.param w) s = .next t ∧ t.cmdif.wok = false ∧
      t.cmdif.werr = 1 ∧ t.worlds = s.worlds) ∧
    (s.withArgs.areaErr w = 0 →
      let a : Area := { base := m, bytes := if n = 4 then 4096 else z, cores := if n ≤ 1 then worldCores v else [] }
      ∃ t : State, exec (.area w) s = .next t ∧ s.cmdDone t w
        { v with
          areas := tabSet none v.areas n (if n = 2 ∧ z = 0 then none else some a)
          poolUsed := if n = 3 then 0 else v.poolUsed }) ∧
    (s.openLayout w → s.withArgs.l2setErr w = 0 → tabGet 0 v.l2gran (b n 1 0) ≤ b n 9 2 →
      ∃ t : State, exec (.l2set w) s = .next t ∧
        s.cmdDone t w { v with l2gran := tabSet 0 v.l2gran (b n 1 0) (b n 9 2) }) ∧
    (s.openLayout w → s.withArgs.shareErr w = 0 → s.turn = [] →
      ∃ t : State, exec (.share w) s = .next t ∧ s.cmdDone t w
        { v with fshare := b n 6 0, lending := n.testBit 7, tshare := b n 14 8 }) ∧
    (s.openLayout w → s.withArgs.apertureErr w = 0 →
      let here (a : Aperture) : Option Aperture := if z = 0 then none else some a
      (n.testBit 8 = false → ∃ t : State, exec (.aperture w) s = .next t ∧ s.cmdDone t w
        { v with
          apOut := tabSet none v.apOut (n % 16) (here { port := b n 7 4, a := m, b := z, remote := b n 15 12 }) }) ∧
      (n.testBit 8 = true → ∃ t : State, exec (.aperture w) s = .next t ∧ s.cmdDone t w
        { v with
          apIn := tabSet none v.apIn (16 * b n 7 4 + n % 16)
            (here { port := b n 7 4, a := b m 7 0, b := b m 15 8, remote := 0 }) })) ∧
    (∀ c, m % 16 = 0 → s.ringsOf w = [] → s.commImage m = some c → ∃ t : State, exec (.commset w) s = .next t ∧
      s.cmdDone t w { v with comms := tabSet none v.comms (n % 64) (some c) }) ∧
    (∀ sl, s.openLayout w → v.slices[n % 256]? = some sl → exec (.expose w) s =
      .next (((s.taken (.expose w)).modSlice sl (fun x => { x with exposed := n.testBit 8 })).cmdOk)) ∧
    (let r := rectOf n
     s.openLayout w → s.coresClean (rectCores r) →
      (s.withArgs.rectaddErr w = 0 → ∃ t : State, exec (.rectadd w) s = .next t ∧
        t.world w = { v with rects := v.rects ++ [r] } ∧ t.cmdif.wok = true ∧ t.mem = s.mem ∧
        ∀ c, t.core c = if c ∈ rectCores r then
            { owner := some w, clockBase := s.now, lastExpiry := s.now, period := some (1200 * v.quantum) }
          else s.core c) ∧
      (s.withArgs.rectremErr w = 0 → ∃ t : State, exec (.rectrem w) s = .next t ∧
        t.world w =
          { v with
            rects := v.rects.erase r
            areas := v.areas.map (fun p => (p.1, p.2.map (fun a => a.without r))) } ∧ t.cmdif.wok = true ∧ t.mem = s.mem ∧
        ∀ c, t.core c = if c ∈ rectCores r then { clockBase := s.now, lastExpiry := s.now } else s.core c)) ∧
    (let sl := n % 256
     s.openLayout w → s.withArgs.sliceaddErr w = 0 → ∃ t : State, exec (.sliceadd w) s = .next t ∧
      t.world w = { v with slices := v.slices ++ [sl] } ∧ (t.slice sl).owner = some w ∧ (t.slice sl).exposed = false ∧
      (t.slice sl).scrubbed = false ∧ (t.slice sl).core = { clockBase := s.now } ∧ (t.slice sl).metaKey = some s.free ∧
      (t.slice sl).nodes = [] ∧ (∀ p ∈ t.treeBad, p.1 ≠ sl) ∧ t.cmdif.wok = true ∧
      (∀ k, k ≠ sl → t.slice k = s.slice k) ∧
      ∀ pa, t.memByte pa = (if sliceOfPa pa = sl then 0 else s.memByte pa) ∧
        (sliceOfPa pa = sl → t.rowCounter pa = 1)) ∧
    (∀ sl, s.openLayout w → v.slices.getLast? = some sl → (s.bdc sl).brun = none →
      (∀ p ∈ s.launches, p.2.micro = false) → ∃ t : State, exec (.slicerem w) s = .next t ∧
      (t.world w).slices = v.slices.dropLast ∧ (t.slice sl).owner = none ∧ (t.slice sl).scrubbed = false ∧
      (t.bdc sl).lid = none ∧ (t.bdc sl).mbx = [] ∧ t.cmdif.wbusy = true ∧ t.cmdif.wslice = some sl ∧
      (∀ k, k ≠ sl → t.slice k = s.slice k) ∧ t.mem = s.mem) ∧
    (∀ src, s.withArgs.sourceOf w (n % 256) = some src → ∃ t : State, exec (.migdone w) s = .next t ∧
      (t.slice src).owner = none ∧ (t.slice src).forward = false ∧ (t.slice src).scrubbed = false ∧
      t.cmdif.wbusy = true ∧ t.cmdif.wslice = some src ∧ (∀ k, k ≠ src → t.slice k = s.slice k) ∧ t.mem = s.mem) ∧
    (∀ src, s.openLayout w → s.withArgs.migrateErr w = 0 → v.slices[b n 7 0]? = some src → (s.bdc src).brun = none →
      (s.slice src).owner = some w → s.memOk → s.l2 = [] → s.turn = [] →
      let dst := b n 15 8
      ∃ t : State, exec (.migrate w) s = .next t ∧ (t.world w).slices = v.slices.map (fun k => if k = src then dst else k) ∧
        (t.slice dst).owner = some w ∧ (t.slice src).forward = true ∧ (t.slice src).dest = some dst ∧
        t.bdc dst = s.bdc src ∧ t.cmdif.wok = true ∧
        ∀ off, off < sliceBytes →
          t.memByte (dst * sliceBytes + off) = s.memByte (src * sliceBytes + off) ∧
          t.memByte (src * sliceBytes + off) = s.memByte (src * sliceBytes + off) ∧
          t.rowCounter (dst * sliceBytes + off) = s.rowCounter (src * sliceBytes + off) + 1) ∧
    ((∀ k ∈ s.worldGroups w, (s.group k).accs = []) → s.holders w = [] → s.storesOut w = [] →
      s.runningCmds w = [] → (∀ e ∈ s.engineOut, e.world ≠ w) → v.faults = [] → s.coresClean (worldCores v) →
      (n % 65536 = 0 → m % 65536 = 0 → ∃ t : State, exec (.tlbinv w) s = .next t ∧ t.cmdif.wok = true ∧
        (∀ c, (∀ q ∈ (t.core c).ccache, q.2.world ≠ w) ∧
          ∀ e, e ∈ (t.core c).tlb ↔ e ∈ (s.core c).tlb ∧
            ¬(e.world = w ∧ (m = 0 ∨ (n ≤ 65536 * e.vpn ∧ 65536 * e.vpn < n + m)))) ∧
        (∀ d, ∀ e ∈ tabGet [] t.dieTlb d, ¬(e.world = w ∧ (m = 0 ∨ (n ≤ 65536 * e.vpn ∧ 65536 * e.vpn < n + m)))) ∧
        t.groups = s.groups ∧ t.mem = s.mem) ∧
      (∃ t : State, exec (.ifinv w) s = .next t ∧ t.cmdif.wok = true ∧
        (∀ c, (∀ q ∈ (t.core c).icache, q.2.world ≠ w) ∧ ∀ q ∈ (t.core c).ccache, q.2.world ≠ w) ∧
        t.groups = s.groups ∧ t.mem = s.mem)) ∧
    (∃ t : State, exec (.preempt w) s = .next t ∧ (∀ l ∈ s.ringsOf w, (t.launch l).frozen = true) ∧
      (∀ l ∈ s.ringsOf w, ∀ k ∈ s.troupesOf l, (s.troupe k).resident = true → (s.troupe k).retired = false →
        (s.troupe k).halting = none → (t.troupe k).halting = some .freeze) ∧
      (t.cmdif.wbusy = true ↔ ∃ l ∈ s.ringsOf w, ∃ k ∈ s.troupesOf l, (s.troupe k).resident = true) ∧
      t.groups = s.groups ∧ t.mem = s.mem) ∧
    (∃ t : State, exec (.resume w) s = .next t ∧ t.cmdif.wok = true ∧
      (∀ l, (t.launch l).frozen = if (s.launch l).world = w then false else (s.launch l).frozen) ∧
      (∀ l, (t.launch l).beat = (s.launch l).beat) ∧ t.groups = s.groups ∧ t.troupes = s.troupes ∧ t.mem = s.mem) ∧
    (s.openLaunch w (n % 2 ^ 32) = none → ∃ t : State, exec (.endlaunch w) s = .next t ∧ t.cmdif.wok = false ∧
      t.cmdif.werr = 1 ∧ t.launches = s.launches) ∧
    (∀ l, s.openLaunch w (n % 2 ^ 32) = some l → s.microSlice l = none → (s.launch l).micro = false →
      (s.launch l).ended = false → ∃ t : State, exec (.endlaunch w) s = .next t ∧ t.cmdif.wok = true ∧
      (t.launch l).failed = true ∧ (t.launch l).endc = 4 ∧
      ((s.launch l).placed = true → ∀ k ∈ s.launchGroups l,
        if (s.group k).adrift = [] then t.live k = false
        else (t.group k).ended = true ∧ (t.group k).laneq = [] ∧ (t.group k).engq = (s.group k).adrift) ∧
      ((s.launch l).placed = false → (t.launch l).ended = true) ∧ ∀ pa, t.memByte pa = s.memByte pa) ∧
    exec (.walk w) s = .next (((s.ringsOf w).foldl State.walkRing (s.taken (.walk w))).cmdOk) ∧
    (s.openLayout w → (∀ p ∈ s.launches, p.2.world ≠ w) → v.rects = [] → s.slicesOf w = [] →
      ∃ t : State, exec (.destroy w) s = .next t ∧ t.world w = {} ∧ t.cmdif.wok = true ∧
        (∀ k st, v.keyid = some k → st < 8 → tabFind t.keys (512 * st + k) = none) ∧
        (∀ q ∈ t.l2 ++ t.turn, q.2.world ≠ w) ∧ t.mem = s.mem)) ∧
  (∀ (s : State) (sl : Nat), sl < 256 → (s.slice sl).owner = none → (s.slice sl).scrubbed = false →
    (s.slice sl).hostScrub = false →
    (s.cmdif.wpend = none → ∃ t : State, exec (.scrub sl) s = .next t ∧ t.slice sl = {} ∧
      (∀ k, k ≠ sl → t.slice k = s.slice k) ∧
      ∀ pa, t.memByte pa = (if sliceOfPa pa = sl then 0 else s.memByte pa)) ∧
    (∀ w, s.cmdif.wpend = some (.slicerem w) → s.cmdif.wslice = some sl → s.openLayout w →
      ∃ t : State, exec (.scrub sl) s = .next t ∧ t.slice sl = {} ∧ t.cmdif.wok = true ∧ t.cmdif.wbusy = false ∧
        ∀ pa, t.memByte pa = (if sliceOfPa pa = sl then 0 else s.memByte pa))) ∧
  ∀ (s : State) (stks : BitVec 8) (w : Nat) (key : BitVec 9), s.cmdif.kbusy = false →
    let k := key.toNat
    let bound (t : State) (sk mk ts : Nat) : Prop :=
      (∀ st, st < 8 → tabFind t.keys (512 * st + k) =
        if stks.getLsbD st = true then some { world := w, gen := s.keyGen + 1, skey := sk, mkey := mk, tsec := ts }
        else tabFind s.keys (512 * st + k)) ∧
      (t.world w).keyid = some k ∧ t.cmdif.kok = true ∧ t.mem = s.mem
    ((s.world w).present = false → ∃ t : State, exec (.generate stks w key) s = .next t ∧ t.cmdif.kok = false ∧
      t.cmdif.kerr = 3 ∧ t.keys = s.keys) ∧
    (s.bindErr stks w k false = 0 → ∃ t : State, exec (.generate stks w key) s = .next t ∧
      bound t (drawn s.free) (drawn (s.free + 1)) (drawn (s.free + 2))) ∧
    (s.bindErr stks w k true = 0 → ∃ t : State, exec (.loadwrap stks w key) s = .next t ∧
      match s.unwrapBlob w k with
      | some (sk, mk, ts) => bound t sk mk ts
      | none => t.cmdif.kok = false ∧ t.cmdif.kerr = 5 ∧ t.keys = s.keys) ∧
    (s.holderOf k = none → ∃ t : State, exec (.zeroise stks w key) s = .next t ∧ t.cmdif.kok = false ∧
      t.cmdif.kerr = 3 ∧ t.keys = s.keys) ∧
    (∀ x, s.holderOf k = some x → s.openLayout x → ∃ t : State, exec (.zeroise stks w key) s = .next t ∧
      t.cmdif.kok = true ∧ t.mem = s.mem ∧
      ∀ st j, st < 8 → j < 512 → tabFind t.keys (512 * st + j) =
        if stks.getLsbD st = true ∧ j = k then none else tabFind s.keys (512 * st + j)) ∧
    ∀ x, s.holderOf k = some x → s.l2Of x = [] → ∃ t : State, exec (.tepoch stks w key) s = .next t ∧
      t.cmdif.kok = true ∧ t.world x = { s.world x with epoch := (s.world x).epoch + 1, flows := [], resent := [] } ∧
      t.keys = s.keys ∧ t.mem = s.mem

/-- R393, R400 to R406. The order of the negotiation and the answers in `bus` are the model's choice (log entry 9); what the numbers of a digest are as bytes is an open function of Config (entry 13). -/
def Obligations.TrustExchange : Prop :=
  (∀ (s : State) (w : Nat), (s.world w).present = false →
    ∀ i ∈ ([.getVersion w, .getCapabilities w, .negotiateAlgorithms w, .getDigests w, .getCertificate w, .challenge w 0,
      .getMeasurements w 1, .keyExchange w 0 0, .finish w, .heartbeat w, .keyUpdate w, .endSession w,
      .lockInterfaceRequest w, .startInterfaceRequest w, .stopInterfaceRequest w, .secretRelease w 0] : List Instr),
      exec i s = .next { s with bus := 0 }) ∧
  (∀ (s : State) (w : Nat), (s.world w).present = true →
    let v := s.world w
    let x := v.session
    let error (i : Instr) : Prop := exec i s = .next { s with bus := 0 }
    let told (i : Instr) (n : Nat) (f : Session → Session) : Prop :=
      exec i s = .next { (s.modWorld w (fun v => { v with session := f v.session })) with bus := n }
    let signature (n : Nat) (l : List Nat) : Nat := pairBits (ecdsaSign s.aliasKey (digestOf l) (drawn n))
    let quiet (y : Session) : Session := if y.opened = true ∧ y.grace = none then { y with lastBeat := s.now } else y
    told (.getVersion w) 0x13
      (fun y => { y with version := true, capabilities := false, algorithms := false, handshake := false }) ∧
    (if x.version then told (.getCapabilities w) 1 (fun y => { y with capabilities := true }) else error (.getCapabilities w)) ∧
    (if x.capabilities then told (.negotiateAlgorithms w) algorithmSuite (fun y => { y with algorithms := true })
     else error (.negotiateAlgorithms w)) ∧
    (∀ nonce, if x.algorithms then
      told (.getDigests w) (digestOf [s.chain]) quiet ∧ told (.getCertificate w) s.chain quiet ∧
        exec (.challenge w nonce) s = .next { s with free := s.free + 1, bus := signature s.free [nonce, s.chain] }
     else error (.getDigests w) ∧ error (.getCertificate w) ∧ error (.challenge w nonce)) ∧
    (∀ k, (x.algorithms = true → ∀ m, s.measurement w k = some m → exec (.getMeasurements w k) s =
        .next { (s.modWorld w (fun v => { v with session := quiet v.session })) with
          free := s.free + 1
          bus := signature s.free [k, m] + m * 2 ^ 512 }) ∧
      ((x.algorithms = false ∨ s.measurement w k = none) → error (.getMeasurements w k))) ∧
    (s.measurement w 5 = some (v.tdisp.code + 4 * v.lockgen) ∧ s.measurement w 6 = none) ∧
    (∀ period share, (x.algorithms = true → x.opened = false → period ≤ 255 → onP256 (sharePoint share) = true →
        let d := privateKey (drawn s.free)
        let q := pairBits (p256Public d)
        exec (.keyExchange w period share) s = .next
          { (s.modWorld w (fun v => { v with session :=
              { v.session with
                handshake := true
                period := if period = 0 then 10 else period
                share := (ecdhP256 d (sharePoint share)).getD 0 } })) with
            free := s.free + 2
            bus := signature (s.free + 1) [share, q] + q * 2 ^ 512 }) ∧
      ((x.algorithms = false ∨ x.opened = true ∨ 255 < period ∨ onP256 (sharePoint share) = false) → error (.keyExchange w period share))) ∧
    (if x.handshake then told (.finish w) 1 (fun y =>
        { y with handshake := false, opened := true, keyGen := y.keyGen + 1, bound := none, lastBeat := s.now })
     else error (.finish w)) ∧
    (if x.opened then
      told (.keyUpdate w) 1 (fun y => { quiet y with keyGen := y.keyGen + 1 }) ∧
        told (.endSession w) 1 (fun y => { y with opened := false, bound := none, share := 0 }) ∧
        (x.grace = none → told (.heartbeat w) 1 (fun y => { y with lastBeat := s.now }))
     else error (.keyUpdate w) ∧ error (.endSession w) ∧ error (.heartbeat w)) ∧
    (∀ g, x.opened = true → x.grace = some g →
      (v.tdisp = .run → s.now < g + 2400000000 →
        ∃ t : State, exec (.heartbeat w) s = .next t ∧ t.bus = 1 ∧
          t.world w = { v with session := { x with lastBeat := s.now, grace := none } } ∧
          (∀ l, (t.launch l).beat = if (s.launch l).world = w then false else (s.launch l).beat) ∧
          (∀ l, (t.launch l).frozen = (s.launch l).frozen) ∧ t.groups = s.groups ∧ t.mem = s.mem) ∧
      ((v.tdisp ≠ .run ∨ g + 2400000000 ≤ s.now) → error (.heartbeat w))) ∧
    (let moved (i : Instr) (f : World → World) : Prop :=
       exec i s = .next { (s.modWorld w (fun v => f { v with session := quiet v.session })) with bus := 1 }
     (if v.tdisp = .unlocked then
        moved (.lockInterfaceRequest w) (fun v =>
          { v with
            tdisp := .locked
            lockgen := (v.lockgen + 1) % 2 ^ 32
            record := some ((s.modWorld w (fun v => { v with lockgen := (v.lockgen + 1) % 2 ^ 32 })).layoutRecord w) })
      else error (.lockInterfaceRequest w)) ∧
     (if v.tdisp = .locked then
        moved (.startInterfaceRequest w) (fun v =>
          { v with
            tdisp := .run
            session := { v.session with bound := if v.session.opened then some v.lockgen else none } })
      else error (.startInterfaceRequest w)) ∧
     (if v.tdisp ≠ .unlocked then moved (.stopInterfaceRequest w) (fun v => { v with tdisp := .unlocked, record := none })
      else error (.stopInterfaceRequest w)) ∧
     ∀ gen, if v.tdisp = .run ∧ x.opened = true ∧ x.bound = some v.lockgen ∧ x.grace = none ∧ v.lockgen = gen then
         moved (.secretRelease w gen) id
       else error (.secretRelease w gen)) ∧
    ((v.tdisp = .run ∧ x.opened = true ∧ x.grace = none ∧ x.lastBeat + x.period * 1200000000 ≤ s.now) →
      ∃ t : State, exec (.heartbeatExpiry w) s = .next t ∧ t.world w = { v with session := { x with grace := some s.now } } ∧
        (∀ l ∈ s.ringsOf w, (t.launch l).beat = true) ∧
        (∀ l ∈ s.ringsOf w, ∀ k ∈ s.troupesOf l, (s.troupe k).resident = true → (s.troupe k).retired = false →
          (s.troupe k).halting = none → (t.troupe k).halting = some .freeze) ∧ t.groups = s.groups ∧ t.mem = s.mem) ∧
    (¬(v.tdisp = .run ∧ x.opened = true ∧ x.grace = none ∧ x.lastBeat + x.period * 1200000000 ≤ s.now) →
      exec (.heartbeatExpiry w) s = .next s)) ∧
  (∀ (s : State) (mem : Bool) (key : Nat), (s.world 0).present = true →
    ((s.world 0).session.opened = true → ∃ t : State, exec (.ideKm mem key) s = .next t ∧ t.bus = 1 ∧
      t.ideMem = (if mem then some key else s.ideMem) ∧ t.ideIo = (if mem then s.ideIo else some key) ∧
      t.groups = s.groups ∧ t.mem = s.mem) ∧
    ((s.world 0).session.opened = false → exec (.ideKm mem key) s = .next { s with bus := 0 })) ∧
  (∀ (ki : Nat) (label : String) (context : List Byte), kdf ki label context =
    bytesNatBe (hmacSha256 ki ([0, 0, 0, 1] ++ labelBytes label ++ [0] ++ context ++ [0, 0, 1, 0]))) ∧
  ∀ (s : State) (w : Nat),
    let v := s.world w
    (v.session.grace = none → exec (.gracePeriodEnd w) s = .next s) ∧
    ∀ g, v.session.grace = some g →
      (s.now < g + 2400000000 → exec (.gracePeriodEnd w) s = .next s) ∧
      (g + 2400000000 ≤ s.now → (∀ p ∈ s.launches, p.2.world ≠ w) →
        ∃ t : State, exec (.gracePeriodEnd w) s = .next t ∧ (t.world w).session.grace = none ∧
          (t.world w).tdisp = .error ∧
          (∀ k st, v.keyid = some k → st < 8 → tabFind t.keys (512 * st + k) = none) ∧
          (∀ q ∈ t.l2 ++ t.turn, q.2.world ≠ w) ∧
          (v.assisted 2 = false → ∀ sl ∈ v.slices, (t.bdc sl).lid = none ∧
            (∀ pa, sliceOfPa pa = sl → t.memByte pa = 0) ∧ (t.slice sl).exposed = (s.slice sl).exposed) ∧
          (v.assisted 2 = true → t.slices = s.slices ∧ t.mem = s.mem))

/-- R308, R377, R388, R398, R399, R404, R414, R418, R421 to R425, R428, R429, R431, R434 to R437. The model's readings: ERR 2 of
RESUME and STEP of a launch that is not stopped is log entry 35's, a write to RHCTL while a rehearsal runs entry 37's, what a
reset keeps and leaves unowned and unscrubbed, and THERMAL_CRITICAL as a reset, entry 38's (DEDUCED, UNSAFE), and where a
packet is numbered and a failed one arrives entry 45's. -/
def Obligations.FabricDebugFleet : Prop :=
  (∀ (s : State) (w flow pa : Nat),
    let v := s.world w
    let packet : Nat × Nat := (flow, sectorOf pa)
    let moved : World := { v with resent := v.resent.filter (fun f => f != packet) }
    let e (ok : Bool) : Out := exec (.transportPacketReceive w flow ok pa) s
    ((v.present = false ∨ s.flowOk w flow pa = false) → ∀ ok, e ok = .next s) ∧
    (v.present = true → s.flowOk w flow pa = true →
      e true = .next (s.setWorld w moved) ∧
      (packet ∉ v.resent →
        e false = .next ((s.setWorld w { v with resent := packet :: v.resent }).countShared 0)) ∧
      (v.destroying = false → packet ∈ v.resent → ∃ t : State, e false = .next t ∧
        (t.world w).resent = moved.resent ∧ (t.world w).flows = v.flows ∧
        tabGet 0 (t.world w).counters 6 = tabGet 0 v.counters 6 + 1 ∧
        t.spoiled = s.spoiled ++ [(flow, sectorOf (s.forwardPa pa))] ∧
        (t.slice (flow / 256 % 256)).err.cause = 6 ∧ (t.slice (flow / 256 % 256)).err.world = w ∧ t.mem = s.mem))) ∧
  (∀ (s : State) (w pa n c : Nat), (s.slice (sliceOfPa pa)).forward = false → tabFind s.turn (sectorOf pa) = none →
    tabFind s.l2 (sectorOf pa) = none → s.cachedInL2 w pa = false → s.portAccepts w (pa / 64 * 64) = true →
    s.rowOk (pa / 64 * 64) = true → (s.rowMeta pa).uncorr = false →
    ∀ f, tabGet 0 ((s.homeRead w pa n (some c)).1.world w).flows f =
      tabGet 0 (s.world w).flows f + (if f = 256 * sliceOfPa pa + c then 1 else 0)) ∧
  (∀ (s : State) (w : Nat),
    ((s.world w).flows = [] → exec (.epochAdvance w) s = .next s) ∧
    ((∃ p ∈ (s.world w).flows, 2 ^ 40 ≤ p.2) → s.l2Of w = [] → exec (.epochAdvance w) s =
      .next (s.modWorld w (fun v => { v with epoch := v.epoch + 1, flows := [], resent := [] })))) ∧
  (∀ (s : State) (port gid : Nat) (a : Access) (l : LaneAcc), s.soleAccess gid a l → deviceBytes ≤ l.pa →
    s.leavesBy (s.worldOf gid) port l.pa = true →
    (∀ m, exec (.peerFlitReceive port false m) s = .next (s.countShared 1)) ∧
    (∀ c e, a.op = .store → a.left = true → a.allDone = true → s.coreHolding gid a.aid l.lane = some c →
      (s.core c).wbuf = [e] → e.gid = gid → e.aid = a.aid → e.lane = l.lane → deviceBytes ≤ e.pa →
      s.leavesBy e.world port e.pa = true →
      ∃ t : State, exec (.peerFlitReceive port true (.ack gid a.aid l.lane)) s = .next t ∧ (t.group gid).accs = [] ∧
        (t.core c).wbuf = [] ∧ (∀ k, k ≠ gid → t.group k = s.group k) ∧ t.mem = s.mem) ∧
    ∀ sg bytes, a.op = .load sg → l.stage = .ready → bytes.length = a.part →
      (a.space = .konst ∨ (a.space = .mem ∧ 1 < scopeRank a.scope)) → (s.troupe (s.group gid).tid).hold = [] →
      tabFind (s.core (s.coreOf gid)).l1 (sectorOf l.pa) = none → (∀ k, (s.core k).wbuf = []) →
      ∃ t : State, exec (.peerFlitReceive port true (.data gid a.aid l.lane bytes)) s = .next t ∧
        s.arrived t gid a l (loadWords sg bytes)) ∧
  (∀ (s : State) (port num off : Nat), 16 ≤ num → s.inbound port num off = none) ∧
  (∀ (s : State) (port num off w pa : Nat) (bytes : List Byte), bytes ≠ [] →
    (s.inbound port num off = none → ∀ write,
      exec (.inboundApertureAccess port num off write bytes) s = .next (s.countShared 4)) ∧
    (s.inbound port num off = some (w, pa) → off % 64 + bytes.length ≤ 64 →
      (s.reachesRow w pa →
        ∃ t : State, exec (.inboundApertureAccess port num off true bytes) s = .next t ∧
          ∀ x, t.memByte x =
            if pa ≤ x ∧ x < pa + bytes.length then bytes.getD (x - pa) 0 else s.memByte x) ∧
      (s.homeBusy w pa true = true → exec (.inboundApertureAccess port num off true bytes) s = .next s))) ∧
  (∀ (s : State) (fn pa : Nat) (trusted : Bool) (bytes : List Byte), (s.world fn).present = true →
    pa + bytes.length ≤ deviceBytes → pa % 64 + bytes.length ≤ 64 → bytes ≠ [] →
    let v := s.slice (sliceOfPa pa)
    let e (write : Bool) : Out := exec (.hostCxlMemAccess fn pa write trusted bytes) s
    let written (t : State) : Prop :=
      ∀ x, t.memByte x = if pa ≤ x ∧ x < pa + bytes.length then bytes.getD (x - pa) 0 else s.memByte x
    (v.owner = some fn → v.exposed = true → s.tdispAllows fn trusted = true → s.reachesRow fn pa →
      ∃ t : State, e true = .next t ∧ written t) ∧
    (v.owner = some fn → v.exposed = true → s.tdispAllows fn trusted = true → s.homeBusy fn pa false = false →
      e false = .next
        { (s.homeReadAll fn pa bytes.length).1 with bus := bytesNat (s.homeReadAll fn pa bytes.length).2.1 }) ∧
    (fn = 0 → v.owner = none → v.scrubbed = false → v.hostScrub = true → ∃ t : State, e true = .next t ∧ written t) ∧
    ((v.owner = some fn ∧ (v.exposed = false ∨ s.tdispAllows fn trusted = false)) ∨ (v.owner ≠ some fn ∧ fn ≠ 0) ∨
        (v.owner = none ∧ (v.hostScrub = false ∨ v.scrubbed = true)) →
      ∀ write, ∃ t : State, e write = .next t ∧ (t.slice (sliceOfPa pa)).err.cause = 1 ∧
        (t.slice (sliceOfPa pa)).err.world = fn ∧ (t.slice (sliceOfPa pa)).err.count = v.err.count + 1 ∧ t.mem = s.mem) ∧
    (s.tdispAllows fn true = true ↔
      (s.world fn).tdisp = .run ∧ (s.world fn).session.opened = true ∧
        (s.world fn).session.bound = some (s.world fn).lockgen ∧ (s.world fn).session.grace = none) ∧
    (s.tdispAllows fn false = true ↔ (s.world fn).tdisp ≠ .locked ∧ (s.world fn).tdisp ≠ .run)) ∧
  (∀ s : State,
    ((∀ m ∈ s.qmark, m ∉ s.inFlight) → s.invalidating = false →
      exec .qcountRise s = .next { s with qcount := (s.qcount + 1) % 2 ^ 64, qmark := s.inFlight }) ∧
    ((∃ m ∈ s.qmark, m ∈ s.inFlight) → exec .qcountRise s = .next s) ∧
    exec .phyLaneError s = .next { s with shared := tabSet 0 s.shared 3 (tabGet 0 s.shared 3 + 1) } ∧
    exec .cxlLinkError s = .next { s with shared := tabSet 0 s.shared 2 (tabGet 0 s.shared 2 + 1) } ∧
    (∀ (sensor : Nat) (temp : BitVec 16), sensor < 16 → exec (.thermalWarning sensor temp) s = .next
      { s with
        shared := tabSet 0 s.shared 5 (tabGet 0 s.shared 5 + 1)
        logPend := s.logPend ++ [(0, natBytes 64
          (0x16 + 2 ^ 64 * (s.now % 2 ^ 64) + 2 ^ 128 * sensor + 2 ^ 132 * temp.toNat))] })) ∧
  (∀ (s : State) (w l : Nat), (s.world w).present = true → s.debugBusy w = false → s.debugLaunch w = some l →
    (s.launch l).world = w → (tabFind s.launches l).isSome = true →
    (s.debugStopped w = false → ∃ t : State, exec (.debugStop w) s = .next t ∧ (t.launch l).stopped = true ∧
      (t.world w).dbg.err = 0 ∧ (t.world w).dbg.stopAt = s.now ∧
      (∀ k ∈ s.troupesOf l, (s.troupe k).retired = false → (t.troupe k).held = true ∧
        ((s.troupe k).resident = true → (s.troupe k).halting = none → (t.troupe k).halting = some .debug)) ∧
      t.groups = s.groups ∧ t.mem = s.mem) ∧
    (s.debugStopped w = false → ∀ h : BitVec 5,
      exec (.debugResume w) s = .next (s.modDbg w (fun d => { d with err := 2 })) ∧
        exec (.debugStep w h) s = .next (s.modDbg w (fun d => { d with err := 2 }))) ∧
    (s.debugStopped w = true → ∃ t : State, exec (.debugResume w) s = .next t ∧ (t.launch l).stopped = false ∧
      (∀ k ∈ s.troupesOf l, (t.troupe k).held = false ∧
        ∀ g ∈ s.groupsOf k, (t.group g).halted = false ∧ (t.group g).sregs = (s.group g).sregs ∧
          (t.group g).vregs = (s.group g).vregs ∧ (t.group g).pc = (s.group g).pc)) ∧
    (∀ (h : BitVec 5) (level num : Nat), s.debugStopped w = true → s.stepBarrier w l h.toNat = some (level, num) →
      ∃ t : State, exec (.debugStep w h) s = .next t ∧ (t.launch l).stopped = false ∧
        (t.world w).dbg.step = some (l, level, num) ∧ (∀ k ∈ s.troupesOf l, (t.troupe k).held = false)) ∧
    (∀ h : BitVec 5, s.debugStopped w = true → s.stepBarrier w l h.toNat = none →
      exec (.debugStep w h) s = .next (s.modDbg w (fun d => { d with err := 3 })))) ∧
  (∀ (s : State) (w : Nat) (v : Word64), (s.world w).present = true →
    (s.debugStopped w = false →
      exec (.debugSelect w v) s = .next (s.modDbg w (fun d => { d with err := 4 }))) ∧
    (∀ l k, s.debugStopped w = true → s.debugLaunch w = some l → s.selectGroup w l v.toNat = some k →
      let n := v.toNat
      let file := n / 2 ^ 17 % 8
      let num := n / 2 ^ 20 % 512
      let lane := n / 2 ^ 29 % 64
      let g := s.group k
      let read (x : Word64) : Prop :=
        exec (.debugSelect w v) s = .next (s.modDbg w (fun d => { d with err := 0, data := x }))
      (g.selects file num lane = false →
        exec (.debugSelect w v) s = .next (s.modDbg w (fun d => { d with err := 4 }))) ∧
      (n.testBit 35 = false → file = 0 → num < g.r → lane < g.w → read ((g.vr num lane).setWidth 64)) ∧
      (n.testBit 35 = false → file = 1 → num < 64 → read (s.sreg (.group k) num)) ∧
      (n.testBit 35 = false → file = 2 → num < g.p → lane < g.w →
        read (if (g.pr num).getLsbD lane then 1 else 0)) ∧
      (n.testBit 35 = true → file = 0 → num < g.r → lane < g.w → s.live k = true →
        ∃ t : State, exec (.debugSelect w v) s = .next t ∧ (t.group k).vr num lane = (s.world w).dbg.data.setWidth 32 ∧
          (∀ r x, x < 64 → (r ≠ num ∨ x ≠ lane) → (t.group k).vr r x = g.vr r x) ∧ (t.group k).sregs = g.sregs ∧
          (t.group k).preds = g.preds ∧ (t.group k).pc = g.pc ∧ (∀ j, j ≠ k → t.group j = s.group j) ∧ t.mem = s.mem))) ∧
  (∀ (s : State) (w : Nat) (v : Word64), (s.world w).present = true →
    let d := (s.world w).dbg
    let dbg (d : Debug) : Out := .next (s.modWorld w (fun x => { x with dbg := d }))
    let e := exec (.rhctl w v) s
    (d.rhEn = true → v.getLsbD 0 = true → e = .next s) ∧
    (d.rhEn = true → v.getLsbD 0 = false → e = dbg { d with rhEn := false }) ∧
    (d.rhEn = false → v.getLsbD 0 = true → e = dbg
      { d with
        rhEn := true
        rhD := v.toNat / 2 % 256
        rhStart := s.now
        hits := []
        cycs := []
        inserted := 0 }) ∧
    (d.rhEn = false → v.getLsbD 0 = false → e = dbg { d with rhD := v.toNat / 2 % 256 })) ∧
  ∀ s : State,
    let n := s.cmdif.fwlen.toNat
    let image := s.hostBytes s.cmdif.fwaddr.toNat n
    let refused (e : Nat) : Prop := exec .stage s = .next { s with cmdif := { s.cmdif with fwok := false, fwerr := e } }
    ((n < 4096 ∨ 2 ^ 26 < n) → refused 3) ∧
    (4096 ≤ n → n ≤ 2 ^ 26 →
      if signedWell image = false then refused 1
      else if Config.versionIn image < s.fwRunning.version then refused 2
      else exec .stage s = .next
        { s with
          fwStaged := some { image := some image, version := Config.versionIn image }
          fwBad := false
          cmdif := { s.cmdif with fwok := true, fwerr := 0 } }) ∧
    exec .clear s = .next { s with fwStaged := none, cmdif := { s.cmdif with fwok := true, fwerr := 0 } } ∧
    (s.boots = true ↔ s.fwBad = false ∧ ∀ b, s.nextFirmware.image = some b → signedWell b = true) ∧
    ∀ i : Instr, (i = .moduleReset ∨ i = .thermalCritical) → ∃ t : State, exec i s = .next t ∧
      t.mem = s.mem ∧ t.hostMem = s.hostMem ∧ t.fwRunning = s.fwStaged.getD s.fwRunning ∧ t.fwStaged = none ∧
      (s.boots = true → t.booted = true ∧ t.worlds = State.reset.worlds) ∧
      (s.boots = false → t.booted = false ∧ ∀ w, (t.world w).present = false) ∧
      (∀ sl, (t.slice sl).owner = none ∧
        ((s.slice sl).owner.isSome = true → (t.slice sl).scrubbed = false) ∧ (t.bdc sl).lid = none) ∧
      t = { State.reset with
        worlds := t.worlds
        booted := t.booted
        fwBad := s.fwBad
        agenda := s.agenda
        free := s.free
        keyGen := s.keyGen
        mem := s.mem
        rows := s.rows
        treeBad := s.treeBad
        treeFailed := s.treeFailed
        homePoison := s.homePoison
        hostMem := s.hostMem
        slices := t.slices
        fwRunning := t.fwRunning }

/-- R81, R84 to R86, R95 to R97: the decoder and the encoder of scalar words agree in both directions; no field of a
word is dropped and none is read twice. -/
def Obligations.ScalarRoundTrip : Prop :=
  (∀ (i : Instr) (w : BitVec 32), i.wf = true → encodeScalar i = some w →
    decodeScalar w = .ok i ∧ decodeScalarBytes (bytes32 w) = .ok i ∧ decodeTableWord 32 w.toNat = some i) ∧
  ∀ (w : BitVec 32) (i : Instr), decodeScalar w = .ok i → i.wf = true ∧ encodeScalar i = some w

/-- R82, R87 to R93, R98, R99: the decoder and the encoder of lane words agree in both directions. -/
def Obligations.LaneRoundTrip : Prop :=
  (∀ (i : Instr) (w : BitVec 96), i.wf = true → encodeLane i = some w →
    decodeLane w = .ok i ∧ decodeLaneBytes (bytes96 w) = .ok i ∧ decodeTableWord 96 w.toNat = some i) ∧
  ∀ (w : BitVec 96) (i : Instr), decodeLane w = .ok i → i.wf = true ∧ encodeLane i = some w

/-- The words that the examples of R86, R93 and R124 write out, and words that R86, R95 and R102 refuse. -/
def Obligations.DecodeSamples : Prop :=
  decodeScalarBytes [0xf4#8, 0x7f#8, 0x28#8, 0x04#8] = .ok (.addi 5 3 (-12)) ∧
  decodeScalar 0x32201ffd#32 = .ok (.bne 4 0 (-3)) ∧
  decodeScalar 0x02390486#32 = .ok (.divn 7 8 9) ∧
  decodeLaneBytes (bytes32 0x00000003#32 ++ bytes32 0x00040000#32 ++ bytes32 0x7c002010#32) = .ok (.rep 1 1 0 1 3) ∧
  (∃ h : LaneHead,
    decodeLaneBytes (bytes32 0x37f20000#32 ++ bytes32 0x28280000#32 ++ bytes32 0x10c14040#32) = .ok (.ffma h .f32) ∧
      h.vd = 10 ∧ h.va = 4 ∧ h.vb = 5 ∧ h.vc = 10 ∧ h.md.rm = 6 ∧ h.pr = 127 ∧ h.e = true ∧ h.u = false) ∧
  decodeScalar 0xfe000000#32 = .unassigned ∧
  decodeScalar 0x60200000#32 = .bad true false ∧
  decodeScalar 0x00000001#32 = .bad true true

/-- R311, R389, R401, R435. That no byte of memory is listed, and what it then reads as, is the model's choice (entry
5); that world 0 holds its identifier with slots already in place is entry 4. -/
def Obligations.ResetState : Prop :=
  let s := State.reset
  (∀ w, (s.world w).present = decide (w = 0)) ∧ (s.world 0).keyid = some 0 ∧
  (∀ st, st < 8 → (tabFind s.keys (512 * st)).map KeySlot.world = some 0) ∧
  (∀ lid, tabFind s.launches lid = none) ∧ (∀ tid, tabFind s.troupes tid = none) ∧ (∀ gid, s.live gid = false) ∧
  (∀ c, (s.core c).owner = none) ∧ (∀ sl, (s.slice sl).owner = none ∧ (s.bdc sl).lid = none) ∧
  (∀ h, h < 32 → tabGet 0 (s.world 0).handles h =
    (if h < 4 then 1#1 ++ 0#2 ++ BitVec.ofNat 4 h ++ 0#9
      else if h < 20 then 1#1 ++ 1#2 ++ BitVec.ofNat 4 (h - 4) ++ 0#9
      else if h < 28 then 1#1 ++ 2#2 ++ BitVec.ofNat 4 (h - 20) ++ 0#9
      else 1#1 ++ 3#2 ++ BitVec.ofNat 4 (h - 28) ++ 0#9)) ∧
  s.booted = true ∧ s.udsLocked = true ∧ s.memOk ∧ s.mem = []

/-- R81, R82, R94, R103, R240, R246, R269, R309, R401, R404: what a step does with the bytes at the PC. The agenda and the stream that
executes are the model's own schedule (entry 2). A word that a rehearsal delays before it issues (R428) is outside. -/
def Obligations.StepRunsDecoded : Prop :=
  (∀ (s t : State) (gid : Nat) (l : List Byte) (i : Instr),
    let o := s.offered
    s.agenda = [] → o.cur = .group gid → o.curLane = false →
    let c := o.ctxOf gid
    o.mayIssue c = true → (o.group c).delay = 0 → ((o.group c).trapMode = true ∨ (o.group c).deferred = []) →
    heldBy (o.group c).wait = false → o.fetchScalar c = (t, .bytes l) → decodeScalarBytes l = .ok i →
    t.rehearse i = none → s.runsWord t i) ∧
  (∀ s : State,
    (s.agenda = [] → step s = stepStream s.offered) ∧
    ((s.curLane = true ∨ ∀ gid, s.cur ≠ .group gid) → s.offered = s) ∧
    ∀ gid, s.cur = .group gid → s.curLane = false →
      let c := s.ctxOf gid
      (s.scalarCan c = false → s.offered = s) ∧
      (s.scalarCan c = true → ∀ k, s.scalarTurn (s.coreOf c) (s.group c).quarter = some k →
        s.offered = { s.turnTaken k with cur := .group k })) ∧
  (∀ (s t : State) (gid : Nat) (r : Run) (rest : List Run) (l : List Byte) (i : Instr),
    s.agenda = [] → s.cur = .group gid → s.curLane = true →
    let h := s.laneHalf gid
    let u : State := { s with cur := .group h }
    s.laneMayIssue h = true → (s.group h).laneq = r :: rest → r.slice.isSome = true → r.leadDone = false →
    r.rep = none → u.fetchLane h r = (t, .bytes l) → decodeLaneBytes l = .ok i → t.rehearse i = none →
    s.runsWord t i) ∧
  (∀ (s : State) (sl : Nat) (i : Instr),
    s.agenda = [] → s.cur = .bdc sl → s.curLane = false →
    let c := s.bdc sl
    c.lid.isSome = true → c.halted = false → c.brun = none → c.scodeBase ≤ c.pc →
    c.pc + 4 ≤ c.scodeBase + c.scodeSize →
    decodeScalarBytes ((List.range 4).map (fun k => tabGet 0 c.scode (c.pc - c.scodeBase + k))) = .ok i →
    s.runsWord s i) ∧
  (∀ (s : State) (sl : Nat) (b : BankRun) (i : Instr),
    s.agenda = [] → s.cur = .bdc sl → s.curLane = true →
    let c := s.bdc sl
    c.brun = some b → b.ended = false → 12 * b.next + 12 ≤ c.lcodeSize →
    decodeLaneBytes ((List.range 12).map (fun k => tabGet 0 c.lcode (12 * b.next + k))) = .ok i →
    s.runsWord s i) ∧
  (∀ (s t : State) (gid pa : Nat) (x y : Bool) (v : Sector),
    let g := s.group gid
    let l := s.launchOf gid
    g.pc % 4 = 0 → l.scodeBase ≤ g.pc → g.pc + 4 ≤ l.scodeBase + (s.headerOf gid).scodeSize →
    s.xlate (s.coreOf gid) l.world g.pc .fetch = (t, .ok pa x y) →
    tabFind (t.core (s.coreOf gid)).icache (sectorOf pa) = some v → v.hurt (pa % 64) 4 = false →
    s.fetchScalar gid = (t, .bytes (v.slice (pa % 64) 4))) ∧
  (∀ (s u : State) (i : Instr) (rest : List Item),
    s.agenda = .act i :: rest →
      (s.delivers i = true → exec i { s with agenda := rest } = .next u → step s = .next (s.endStep none u)) ∧
      (s.delivers i = false → step s = .next (s.endStep none { s with agenda := rest }))) ∧
  (∀ (s u : State) (i : Instr) (rest : List Item),
    s.agenda = .trusted i :: rest →
      (s.takesTrusted i = true → exec i { s with agenda := rest } = .next u → step s = .next (s.endStep none u)) ∧
      (s.takesTrusted i = false → step s = .next (s.endStep none
        { s with
          agenda := rest
          bus := 0 }))) ∧
  (∀ (s : State) (core quarter gid : Nat) (rest : List Item),
    s.agenda = .rotate core quarter :: rest →
      (s.scalarTurn core quarter = some gid → step s = stepStream
        { s.turnTaken gid with
          agenda := rest
          cur := .group gid
          curLane := false }) ∧
      (s.scalarTurn core quarter = none → step s = .next (s.endStep none { s with agenda := rest }))) ∧
  ∀ (s : State) (a : Agent) (lane : Bool) (rest : List Item),
    s.agenda = .issue a lane :: rest →
      step s = stepStream ({ s with agenda := rest, cur := a, curLane := lane } : State).offered

/-- The basic laws of device memory at its home (R20, R395), in the form that entry 5 chooses. -/
def Obligations.MemReadAfterWrite : Prop :=
  (∀ (s : State) (pa : Nat) (l : List Byte),
    let t := s.setMemBytes pa l
    (∀ i, i < l.length → t.memByte (pa + i) = l.getD i 0) ∧
    (∀ a, (a < pa ∨ pa + l.length ≤ a) → t.memByte a = s.memByte a) ∧
    t = { s with mem := t.mem }) ∧
  (∀ m n : List Host.Cell, Memory.wf m = true → Memory.wf n = true →
    (∀ a, tabGet memDefault m a = tabGet memDefault n a) → m = n) ∧
  ∀ (s : State) (w pa : Nat), (s.slice (sliceOfPa pa)).forward = false → s.portAccepts w (pa / 64 * 64) = true →
    ∃ (t : State) (bytes : Tab Byte) (marks : Mask), s.portRead w pa = (t, some (bytes, marks)) ∧
      (∀ i, i < 64 → tabGet 0 bytes i = s.memByte (pa / 64 * 64 + i)) ∧ t.mem = s.mem

/-- The invariant of memory: addresses rise strictly and no byte is listed that equals what an unlisted one reads as
(entry 5). It holds at reset (ResetState). -/
def Obligations.MemCanonicalInvariant : Prop :=
  ∀ s t : State, s.memOk → step s = .next t → t.memOk
end

