-- ==== Sys2Proof/Laws/Codec.lean ====
section
/-! SUPPORT. Reading a field back from a word that is put together from fields, and a word back from its bytes. -/

namespace Sys2Proof

/-! ## Fields of bits set side by side -/

theorem extract_append_low {n m : Nat} (x : BitVec n) (y : BitVec m) : (x ++ y).extractLsb' 0 m = y := by
  apply BitVec.eq_of_getLsbD_eq
  intro i hi
  simp [BitVec.getLsbD_append, hi]

theorem extract_append_past {n m : Nat} (x : BitVec n) (y : BitVec m) (s l : Nat) (h : m ≤ s) :
    (x ++ y).extractLsb' s l = x.extractLsb' (s - m) l := by
  apply BitVec.eq_of_getLsbD_eq
  intro i hi
  have h1 : ¬ s + i < m := by omega
  have h2 : s + i - m = s - m + i := by omega
  simp [BitVec.getLsbD_append, hi, h1, h2]

theorem extract_all {n : Nat} (x : BitVec n) : x.extractLsb' 0 n = x := by
  apply BitVec.eq_of_getLsbD_eq
  intro i hi
  simp [hi]

theorem bit_append_past {n m : Nat} (x : BitVec n) (y : BitVec m) (s : Nat) (h : m ≤ s) :
    (x ++ y).getLsbD s = x.getLsbD (s - m) := by
  have h1 : ¬ s < m := by omega
  simp [BitVec.getLsbD_append, h1]

theorem bit_append_ofBool {n : Nat} (x : BitVec n) (b : Bool) : (x ++ BitVec.ofBool b).getLsbD 0 = b := by
  rw [BitVec.getLsbD_append]
  cases b <;> rfl

/-- Two neighbouring fields of a word are one field of it. -/
theorem extract_join {n : Nat} (x : BitVec n) (a b c : Nat) :
    x.extractLsb' (a + b) c ++ x.extractLsb' a b = x.extractLsb' a (c + b) := by
  apply BitVec.eq_of_getLsbD_eq
  intro i hi
  by_cases h : i < b
  · rw [BitVec.getLsbD_append]
    simp [h, hi]
  · have h1 : i - b < c := by omega
    have h2 : a + b + (i - b) = a + i := by omega
    rw [BitVec.getLsbD_append]
    simp [h, h1, h2, hi]

/-- A bit is a field of one bit. -/
theorem ofBool_getLsbD {n : Nat} (x : BitVec n) (a : Nat) : BitVec.ofBool (x.getLsbD a) = x.extractLsb' a 1 := by
  apply BitVec.eq_of_getLsbD_eq
  intro i hi
  have h : i = 0 := by omega
  subst h
  simp

/-! ## The lane word -/

/-- The fields of a lane word are read where they stand. -/
theorem laneFields_lanePack (op : BitVec 10) (h : LaneHead) (imm : BitVec 15) :
    laneFields (lanePack op h imm) = h := by
  obtain ⟨vd, va, vb, vc, ⟨_, _⟩, ⟨_, _⟩, ⟨_, _⟩, ⟨_, _, _⟩, pr, pn, u, e, k, alw⟩ := h
  simp -decide only [laneFields, lanePack, extract_append_past, extract_append_low, bit_append_past,
    bit_append_ofBool, Nat.reduceLeDiff, Nat.reduceSub]

theorem op_lanePack (op : BitVec 10) (h : LaneHead) (imm : BitVec 15) :
    (lanePack op h imm).extractLsb' 86 10 = op := by
  simp -decide only [lanePack, extract_append_past, extract_all, Nat.reduceLeDiff, Nat.reduceSub]

theorem imm_lanePack (op : BitVec 10) (h : LaneHead) (imm : BitVec 15) :
    (lanePack op h imm).extractLsb' 0 15 = imm := by
  simp -decide only [lanePack, extract_append_low]

/-- A lane word is put together again from its fields. -/
theorem lanePack_laneFields (w : BitVec 96) :
    lanePack (w.extractLsb' 86 10) (laneFields w) (w.extractLsb' 0 15) = w := by
  have j := extract_join w
  unfold lanePack laneFields
  simp only [ofBool_getLsbD]
  rw [j 77 9 10, j 68 9 19, j 59 9 28, j 50 9 37, j 48 2 46, j 45 3 48, j 43 2 51, j 40 3 53, j 38 2 56, j 35 3 58,
    j 33 2 61, j 30 3 63, j 27 3 66, j 20 7 69, j 19 1 76, j 18 1 77, j 17 1 78, j 16 1 79, j 15 1 80, j 0 15 81]
  exact extract_all w

/-! ## Words and their bytes (R6, R81, R82) -/

theorem leNat_bytes32 (w : BitVec 32) (l : List Byte) : leNat (bytes32 w ++ l) = w.toNat + 2 ^ 32 * leNat l := by
  have h := w.isLt
  simp only [bytes32, List.cons_append, List.nil_append, leNat, BitVec.extractLsb'_toNat, Nat.shiftRight_eq_div_pow]
  omega

theorem decodeScalarBytes_bytes32 (w : BitVec 32) : decodeScalarBytes (bytes32 w) = decodeScalar w := by
  have h : leNat ((bytes32 w).take 4) = w.toNat := by
    have := leNat_bytes32 w []
    simpa [bytes32, leNat] using this
  rw [decodeScalarBytes, h, BitVec.ofNat_toNat, BitVec.setWidth_eq]

theorem decodeLaneBytes_bytes96 (w : BitVec 96) : decodeLaneBytes (bytes96 w) = decodeLane w := by
  have h : leNat ((bytes96 w).take 12) = w.toNat := by
    have e : (bytes96 w).take 12 = bytes32 (w.extractLsb' 0 32) ++ (bytes32 (w.extractLsb' 32 32) ++
      (bytes32 (w.extractLsb' 64 32) ++ [])) := rfl
    have hw := w.isLt
    rw [e, leNat_bytes32, leNat_bytes32, leNat_bytes32]
    simp only [leNat, BitVec.extractLsb'_toNat, Nat.shiftRight_eq_div_pow]
    omega
  rw [decodeLaneBytes, h, BitVec.ofNat_toNat, BitVec.setWidth_eq]

theorem decodeTableWord_scalar (w : BitVec 32) : decodeTableWord 32 w.toNat = (decodeScalar w).toOption := by
  simp only [decodeTableWord, if_true, BitVec.ofNat_toNat, BitVec.setWidth_eq, decodeScalarBytes_bytes32]

theorem decodeTableWord_lane (w : BitVec 96) : decodeTableWord 96 w.toNat = (decodeLane w).toOption := by
  rw [decodeTableWord, if_neg (by omega), if_pos rfl]
  simp only [BitVec.ofNat_toNat, BitVec.setWidth_eq, decodeLaneBytes_bytes96]

end Sys2Proof
end

