-- ==== Sys2Proof/Laws/Exec.lean ====
section
/-! SUPPORT. `exec` on each instruction is its meaning: one lemma per constructor, so that no proof unfolds the dispatch. -/

namespace Sys2Proof.Machine

variable (s : State)

@[simp] theorem exec_nop : exec .nop s = execNop s := rfl
@[simp] theorem exec_add (d : SReg) (a : SReg) (b : SReg) : exec (.add d a b) s = execAdd d a b s := rfl
@[simp] theorem exec_sub (d : SReg) (a : SReg) (b : SReg) : exec (.sub d a b) s = execSub d a b s := rfl
@[simp] theorem exec_mul (d : SReg) (a : SReg) (b : SReg) : exec (.mul d a b) s = execMul d a b s := rfl
@[simp] theorem exec_mulh (d : SReg) (a : SReg) (b : SReg) : exec (.mulh d a b) s = execMulh d a b s := rfl
@[simp] theorem exec_mulhn (d : SReg) (a : SReg) (b : SReg) : exec (.mulhn d a b) s = execMulhn d a b s := rfl
@[simp] theorem exec_div (d : SReg) (a : SReg) (b : SReg) : exec (.div d a b) s = execDiv d a b s := rfl
@[simp] theorem exec_divn (d : SReg) (a : SReg) (b : SReg) : exec (.divn d a b) s = execDivn d a b s := rfl
@[simp] theorem exec_rem (d : SReg) (a : SReg) (b : SReg) : exec (.rem d a b) s = execRem d a b s := rfl
@[simp] theorem exec_remn (d : SReg) (a : SReg) (b : SReg) : exec (.remn d a b) s = execRemn d a b s := rfl
@[simp] theorem exec_and (d : SReg) (a : SReg) (b : SReg) : exec (.and d a b) s = execAnd d a b s := rfl
@[simp] theorem exec_or (d : SReg) (a : SReg) (b : SReg) : exec (.or d a b) s = execOr d a b s := rfl
@[simp] theorem exec_xor (d : SReg) (a : SReg) (b : SReg) : exec (.xor d a b) s = execXor d a b s := rfl
@[simp] theorem exec_andn (d : SReg) (a : SReg) (b : SReg) : exec (.andn d a b) s = execAndn d a b s := rfl
@[simp] theorem exec_shl (d : SReg) (a : SReg) (b : SReg) : exec (.shl d a b) s = execShl d a b s := rfl
@[simp] theorem exec_shr (d : SReg) (a : SReg) (b : SReg) : exec (.shr d a b) s = execShr d a b s := rfl
@[simp] theorem exec_sar (d : SReg) (a : SReg) (b : SReg) : exec (.sar d a b) s = execSar d a b s := rfl
@[simp] theorem exec_min (d : SReg) (a : SReg) (b : SReg) : exec (.min d a b) s = execMin d a b s := rfl
@[simp] theorem exec_max (d : SReg) (a : SReg) (b : SReg) : exec (.max d a b) s = execMax d a b s := rfl
@[simp] theorem exec_minn (d : SReg) (a : SReg) (b : SReg) : exec (.minn d a b) s = execMinn d a b s := rfl
@[simp] theorem exec_maxn (d : SReg) (a : SReg) (b : SReg) : exec (.maxn d a b) s = execMaxn d a b s := rfl
@[simp] theorem exec_slt (d : SReg) (a : SReg) (b : SReg) : exec (.slt d a b) s = execSlt d a b s := rfl
@[simp] theorem exec_sltn (d : SReg) (a : SReg) (b : SReg) : exec (.sltn d a b) s = execSltn d a b s := rfl
@[simp] theorem exec_seq (d : SReg) (a : SReg) (b : SReg) : exec (.seq d a b) s = execSeq d a b s := rfl
@[simp] theorem exec_addi (d : SReg) (a : SReg) (imm : BitVec 13) : exec (.addi d a imm) s = execAddi d a imm s := rfl
@[simp] theorem exec_andi (d : SReg) (a : SReg) (imm : BitVec 13) : exec (.andi d a imm) s = execAndi d a imm s := rfl
@[simp] theorem exec_ori (d : SReg) (a : SReg) (imm : BitVec 13) : exec (.ori d a imm) s = execOri d a imm s := rfl
@[simp] theorem exec_xori (d : SReg) (a : SReg) (imm : BitVec 13) : exec (.xori d a imm) s = execXori d a imm s := rfl
@[simp] theorem exec_shli (d : SReg) (a : SReg) (sh : BitVec 6) : exec (.shli d a sh) s = execShli d a sh s := rfl
@[simp] theorem exec_shri (d : SReg) (a : SReg) (sh : BitVec 6) : exec (.shri d a sh) s = execShri d a sh s := rfl
@[simp] theorem exec_sari (d : SReg) (a : SReg) (sh : BitVec 6) : exec (.sari d a sh) s = execSari d a sh s := rfl
@[simp] theorem exec_slti (d : SReg) (a : SReg) (imm : BitVec 13) : exec (.slti d a imm) s = execSlti d a imm s := rfl
@[simp] theorem exec_lui (d : SReg) (imm : BitVec 19) : exec (.lui d imm) s = execLui d imm s := rfl
@[simp] theorem exec_lpc (d : SReg) (imm : BitVec 19) : exec (.lpc d imm) s = execLpc d imm s := rfl
@[simp] theorem exec_lea (d : SReg) (a : SReg) (b : SReg) (sh : BitVec 3) : exec (.lea d a b sh) s = execLea d a b sh s := rfl
@[simp] theorem exec_sld (d : SReg) (a : SReg) (disp : BitVec 13) : exec (.sld d a disp) s = execSld d a disp s := rfl
@[simp] theorem exec_sst (a : SReg) (b : SReg) (disp : BitVec 13) : exec (.sst a b disp) s = execSst a b disp s := rfl
@[simp] theorem exec_sldk (d : SReg) (a : SReg) (disp : BitVec 13) : exec (.sldk d a disp) s = execSldk d a disp s := rfl
@[simp] theorem exec_beq (a : SReg) (b : SReg) (off : BitVec 13) : exec (.beq a b off) s = execBeq a b off s := rfl
@[simp] theorem exec_bne (a : SReg) (b : SReg) (off : BitVec 13) : exec (.bne a b off) s = execBne a b off s := rfl
@[simp] theorem exec_blt (a : SReg) (b : SReg) (off : BitVec 13) : exec (.blt a b off) s = execBlt a b off s := rfl
@[simp] theorem exec_bge (a : SReg) (b : SReg) (off : BitVec 13) : exec (.bge a b off) s = execBge a b off s := rfl
@[simp] theorem exec_bltn (a : SReg) (b : SReg) (off : BitVec 13) : exec (.bltn a b off) s = execBltn a b off s := rfl
@[simp] theorem exec_bgen (a : SReg) (b : SReg) (off : BitVec 13) : exec (.bgen a b off) s = execBgen a b off s := rfl
@[simp] theorem exec_jmp (off : BitVec 21) : exec (.jmp off) s = execJmp off s := rfl
@[simp] theorem exec_call (off : BitVec 21) : exec (.call off) s = execCall off s := rfl
@[simp] theorem exec_ret (a : SReg) : exec (.ret a) s = execRet a s := rfl
@[simp] theorem exec_exit : exec .exit s = execExit s := rfl
@[simp] theorem exec_setjoin (off : BitVec 21) : exec (.setjoin off) s = execSetjoin off s := rfl
@[simp] theorem exec_divergence (p : BitVec 7) (neg : Bool) (off : BitVec 17) : exec (.divergence p neg off) s = execDivergence p neg off s := rfl
@[simp] theorem exec_join : exec .join s = execJoin s := rfl
@[simp] theorem exec_bany (p : BitVec 7) (neg : Bool) (off : BitVec 17) : exec (.bany p neg off) s = execBany p neg off s := rfl
@[simp] theorem exec_ball (p : BitVec 7) (neg : Bool) (off : BitVec 17) : exec (.ball p neg off) s = execBall p neg off s := rfl
@[simp] theorem exec_bnone (p : BitVec 7) (neg : Bool) (off : BitVec 17) : exec (.bnone p neg off) s = execBnone p neg off s := rfl
@[simp] theorem exec_setexm (a : SReg) (sel : BitVec 2) : exec (.setexm a sel) s = execSetexm a sel s := rfl
@[simp] theorem exec_getexm (d : SReg) (hsel : Bool) : exec (.getexm d hsel) s = execGetexm d hsel s := rfl
@[simp] theorem exec_twjoin : exec .twjoin s = execTwjoin s := rfl
@[simp] theorem exec_run (g : Option (BitVec 3)) (idx : BitVec 21) : exec (.run g idx) s = execRun g idx s := rfl
@[simp] theorem exec_gclr (k : BitVec 3) : exec (.gclr k) s = execGclr k s := rfl
@[simp] theorem exec_grd (k : BitVec 3) : exec (.grd k) s = execGrd k s := rfl
@[simp] theorem exec_bg (k : BitVec 3) (off : BitVec 21) : exec (.bg k off) s = execBg k off s := rfl
@[simp] theorem exec_setfmt (v : BitVec 14) : exec (.setfmt v) s = execSetfmt v s := rfl
@[simp] theorem exec_setfmtr (a : SReg) (sel : BitVec 2) : exec (.setfmtr a sel) s = execSetfmtr a sel s := rfl
@[simp] theorem exec_getfmt (d : SReg) (hsel : Bool) : exec (.getfmt d hsel) s = execGetfmt d hsel s := rfl
@[simp] theorem exec_cpy (g : Option (BitVec 3)) (mode : CpyMode) (d : SReg) (a : SReg) (b : SReg) : exec (.cpy g mode d a b) s = execCpy g mode d a b s := rfl
@[simp] theorem exec_cpyw (g : Option (BitVec 3)) (mode : CpyMode) (d : SReg) (a : SReg) (b : SReg) : exec (.cpyw g mode d a b) s = execCpyw g mode d a b s := rfl
@[simp] theorem exec_gth (g : Option (BitVec 3)) (d : SReg) (a : SReg) (b : SReg) : exec (.gth g d a b) s = execGth g d a b s := rfl
@[simp] theorem exec_sct (g : Option (BitVec 3)) (d : SReg) (a : SReg) (b : SReg) : exec (.sct g d a b) s = execSct g d a b s := rfl
@[simp] theorem exec_coll (g : Option (BitVec 3)) (mode : CollMode) (d : SReg) (a : SReg) (b : SReg) : exec (.coll g mode d a b) s = execColl g mode d a b s := rfl
@[simp] theorem exec_bnk (g : Option (BitVec 3)) (done : Bool) (d : SReg) (a : SReg) (b : SReg) : exec (.bnk g done d a b) s = execBnk g done d a b s := rfl
@[simp] theorem exec_bar (kind : BarKind) (hr : Bool) (handle : BitVec 5) (a : SReg) (sc : Option Scope) : exec (.bar kind hr handle a sc) s = execBar kind hr handle a sc s := rfl
@[simp] theorem exec_fence (kind : FenceKind) (sc : Scope) : exec (.fence kind sc) s = execFence kind sc s := rfl
@[simp] theorem exec_pfence (a : Path) (b : Path) (sc : Scope) : exec (.pfence a b sc) s = execPfence a b sc s := rfl
@[simp] theorem exec_waitp (p : Path) (n : BitVec 6) : exec (.waitp p n) s = execWaitp p n s := rfl
@[simp] theorem exec_satom (op : AtomOp) (sc : Scope) (d : SReg) (a : SReg) (b : SReg) : exec (.satom op sc d a b) s = execSatom op sc d a b s := rfl
@[simp] theorem exec_trap (imm : BitVec 19) : exec (.trap imm) s = execTrap imm s := rfl
@[simp] theorem exec_rte : exec .rte s = execRte s := rfl
@[simp] theorem exec_sprr (d : SReg) (n : BitVec 7) (hsel : Bool) : exec (.sprr d n hsel) s = execSprr d n hsel s := rfl
@[simp] theorem exec_sprw (n : BitVec 7) (hsel : Bool) (a : SReg) : exec (.sprw n hsel a) s = execSprw n hsel a s := rfl
@[simp] theorem exec_yield : exec .yield s = execYield s := rfl
@[simp] theorem exec_brk (imm : BitVec 19) : exec (.brk imm) s = execBrk imm s := rfl
@[simp] theorem exec_brun (d : SReg) (a : SReg) (b : SReg) : exec (.brun d a b) s = execBrun d a b s := rfl
@[simp] theorem exec_mbxget (d : SReg) (nb : Bool) : exec (.mbxget d nb) s = execMbxget d nb s := rfl
@[simp] theorem exec_mbxput (a : SReg) : exec (.mbxput a) s = execMbxput a s := rfl
@[simp] theorem exec_iadd (h : LaneHead) (imm : Option (BitVec 14)) : exec (.iadd h imm) s = execIadd h imm s := rfl
@[simp] theorem exec_isub (h : LaneHead) (imm : Option (BitVec 14)) : exec (.isub h imm) s = execIsub h imm s := rfl
@[simp] theorem exec_imul (h : LaneHead) (imm : Option (BitVec 14)) : exec (.imul h imm) s = execImul h imm s := rfl
@[simp] theorem exec_imulh (h : LaneHead) (imm : Option (BitVec 14)) : exec (.imulh h imm) s = execImulh h imm s := rfl
@[simp] theorem exec_imulhn (h : LaneHead) (imm : Option (BitVec 14)) : exec (.imulhn h imm) s = execImulhn h imm s := rfl
@[simp] theorem exec_imad (h : LaneHead) (imm : Option (BitVec 14)) : exec (.imad h imm) s = execImad h imm s := rfl
@[simp] theorem exec_imin (h : LaneHead) (imm : Option (BitVec 14)) : exec (.imin h imm) s = execImin h imm s := rfl
@[simp] theorem exec_imax (h : LaneHead) (imm : Option (BitVec 14)) : exec (.imax h imm) s = execImax h imm s := rfl
@[simp] theorem exec_iminn (h : LaneHead) (imm : Option (BitVec 14)) : exec (.iminn h imm) s = execIminn h imm s := rfl
@[simp] theorem exec_imaxn (h : LaneHead) (imm : Option (BitVec 14)) : exec (.imaxn h imm) s = execImaxn h imm s := rfl
@[simp] theorem exec_iabs (h : LaneHead) : exec (.iabs h) s = execIabs h s := rfl
@[simp] theorem exec_ineg (h : LaneHead) : exec (.ineg h) s = execIneg h s := rfl
@[simp] theorem exec_laneAnd (h : LaneHead) (imm : Option (BitVec 14)) : exec (.laneAnd h imm) s = execLaneAnd h imm s := rfl
@[simp] theorem exec_laneOr (h : LaneHead) (imm : Option (BitVec 14)) : exec (.laneOr h imm) s = execLaneOr h imm s := rfl
@[simp] theorem exec_laneXor (h : LaneHead) (imm : Option (BitVec 14)) : exec (.laneXor h imm) s = execLaneXor h imm s := rfl
@[simp] theorem exec_inot (h : LaneHead) : exec (.inot h) s = execInot h s := rfl
@[simp] theorem exec_laneShl (h : LaneHead) (imm : Option (BitVec 14)) : exec (.laneShl h imm) s = execLaneShl h imm s := rfl
@[simp] theorem exec_laneShr (h : LaneHead) (imm : Option (BitVec 14)) : exec (.laneShr h imm) s = execLaneShr h imm s := rfl
@[simp] theorem exec_laneSar (h : LaneHead) (imm : Option (BitVec 14)) : exec (.laneSar h imm) s = execLaneSar h imm s := rfl
@[simp] theorem exec_rotl (h : LaneHead) (imm : Option (BitVec 14)) : exec (.rotl h imm) s = execRotl h imm s := rfl
@[simp] theorem exec_bfe (h : LaneHead) (pos : BitVec 5) (len : BitVec 6) (sgn : Bool) : exec (.bfe h pos len sgn) s = execBfe h pos len sgn s := rfl
@[simp] theorem exec_bfi (h : LaneHead) (pos : BitVec 5) (len : BitVec 6) : exec (.bfi h pos len) s = execBfi h pos len s := rfl
@[simp] theorem exec_popc (h : LaneHead) : exec (.popc h) s = execPopc h s := rfl
@[simp] theorem exec_clz (h : LaneHead) : exec (.clz h) s = execClz h s := rfl
@[simp] theorem exec_brev (h : LaneHead) : exec (.brev h) s = execBrev h s := rfl
@[simp] theorem exec_icmp (h : LaneHead) (pd : BitVec 7) (cond : ICond) : exec (.icmp h pd cond) s = execIcmp h pd cond s := rfl
@[simp] theorem exec_cadd128 (h : LaneHead) (nb : Bool) : exec (.cadd128 h nb) s = execCadd128 h nb s := rfl
@[simp] theorem exec_fadd (h : LaneHead) (ty : FTy) : exec (.fadd h ty) s = execFadd h ty s := rfl
@[simp] theorem exec_fsub (h : LaneHead) (ty : FTy) : exec (.fsub h ty) s = execFsub h ty s := rfl
@[simp] theorem exec_fmul (h : LaneHead) (ty : FTy) : exec (.fmul h ty) s = execFmul h ty s := rfl
@[simp] theorem exec_ffma (h : LaneHead) (ty : FTy) : exec (.ffma h ty) s = execFfma h ty s := rfl
@[simp] theorem exec_fmin (h : LaneHead) (ty : FTy) : exec (.fmin h ty) s = execFmin h ty s := rfl
@[simp] theorem exec_fmax (h : LaneHead) (ty : FTy) : exec (.fmax h ty) s = execFmax h ty s := rfl
@[simp] theorem exec_fcmp (h : LaneHead) (ty : FTy) (pd : BitVec 7) (cond : FCond) : exec (.fcmp h ty pd cond) s = execFcmp h ty pd cond s := rfl
@[simp] theorem exec_fclass (h : LaneHead) (ty : FTy) : exec (.fclass h ty) s = execFclass h ty s := rfl
@[simp] theorem exec_frnd (h : LaneHead) (ty : FTy) (x : Bool) : exec (.frnd h ty x) s = execFrnd h ty x s := rfl
@[simp] theorem exec_fscale (h : LaneHead) (ty : FTy) : exec (.fscale h ty) s = execFscale h ty s := rfl
@[simp] theorem exec_cvt (h : LaneHead) (src : CvtFmt) (dst : CvtFmt) : exec (.cvt h src dst) s = execCvt h src dst s := rfl
@[simp] theorem exec_bscale (h : LaneHead) (mode : BsMode) : exec (.bscale h mode) s = execBscale h mode s := rfl
@[simp] theorem exec_rcp (h : LaneHead) : exec (.rcp h) s = execRcp h s := rfl
@[simp] theorem exec_rsq (h : LaneHead) : exec (.rsq h) s = execRsq h s := rfl
@[simp] theorem exec_sqrt (h : LaneHead) : exec (.sqrt h) s = execSqrt h s := rfl
@[simp] theorem exec_exp2 (h : LaneHead) : exec (.exp2 h) s = execExp2 h s := rfl
@[simp] theorem exec_log2 (h : LaneHead) : exec (.log2 h) s = execLog2 h s := rfl
@[simp] theorem exec_sinpi (h : LaneHead) : exec (.sinpi h) s = execSinpi h s := rfl
@[simp] theorem exec_cospi (h : LaneHead) : exec (.cospi h) s = execCospi h s := rfl
@[simp] theorem exec_tanh (h : LaneHead) : exec (.tanh h) s = execTanh h s := rfl
@[simp] theorem exec_pand (h : LaneHead) (pd : BitVec 7) (pa : BitVec 7) (na : Bool) : exec (.pand h pd pa na) s = execPand h pd pa na s := rfl
@[simp] theorem exec_por (h : LaneHead) (pd : BitVec 7) (pa : BitVec 7) (na : Bool) : exec (.por h pd pa na) s = execPor h pd pa na s := rfl
@[simp] theorem exec_pxor (h : LaneHead) (pd : BitVec 7) (pa : BitVec 7) (na : Bool) : exec (.pxor h pd pa na) s = execPxor h pd pa na s := rfl
@[simp] theorem exec_pnot (h : LaneHead) (pd : BitVec 7) (pa : BitVec 7) (na : Bool) : exec (.pnot h pd pa na) s = execPnot h pd pa na s := rfl
@[simp] theorem exec_pmov (h : LaneHead) (pd : BitVec 7) (pa : BitVec 7) (na : Bool) : exec (.pmov h pd pa na) s = execPmov h pd pa na s := rfl
@[simp] theorem exec_ptoi (h : LaneHead) (pa : BitVec 7) : exec (.ptoi h pa) s = execPtoi h pa s := rfl
@[simp] theorem exec_sel (h : LaneHead) (ps : BitVec 7) (ns : Bool) : exec (.sel h ps ns) s = execSel h ps ns s := rfl
@[simp] theorem exec_mov (h : LaneHead) : exec (.mov h) s = execMov h s := rfl
@[simp] theorem exec_limm (h : LaneHead) (lo : BitVec 15) : exec (.limm h lo) s = execLimm h lo s := rfl
@[simp] theorem exec_shfl (h : LaneHead) (mode : ShflMode) (pv : BitVec 7) (imm : Option (BitVec 5)) : exec (.shfl h mode pv imm) s = execShfl h mode pv imm s := rfl
@[simp] theorem exec_vote (h : LaneHead) (pa : BitVec 7) (na : Bool) (mode : VoteMode) : exec (.vote h pa na mode) s = execVote h pa na mode s := rfl
@[simp] theorem exec_redux (h : LaneHead) (op : RedOp) : exec (.redux h op) s = execRedux h op s := rfl
@[simp] theorem exec_scan (h : LaneHead) (op : RedOp) (excl : Bool) : exec (.scan h op excl) s = execScan h op excl s := rfl
@[simp] theorem exec_regroup (h : LaneHead) (count : BitVec 9) (pd : BitVec 6) : exec (.regroup h count pd) s = execRegroup h count pd s := rfl
@[simp] theorem exec_demote (h : LaneHead) : exec (.demote h) s = execDemote h s := rfl
@[simp] theorem exec_vguard (h : LaneHead) (k : BitVec 3) (all : Bool) (pa : BitVec 7) (na : Bool) : exec (.vguard h k all pa na) s = execVguard h k all pa na s := rfl
@[simp] theorem exec_ld (h : LaneHead) (size : MSize) (osx : Bool) (sc : Scope) (disp : BitVec 8) : exec (.ld h size osx sc disp) s = execLd h size osx sc disp s := rfl
@[simp] theorem exec_st (h : LaneHead) (size : MSize) (osx : Bool) (sc : Scope) (disp : BitVec 8) : exec (.st h size osx sc disp) s = execSt h size osx sc disp s := rfl
@[simp] theorem exec_lds (h : LaneHead) (size : MSize) (osx : Bool) (disp : BitVec 8) : exec (.lds h size osx disp) s = execLds h size osx disp s := rfl
@[simp] theorem exec_sts (h : LaneHead) (size : MSize) (osx : Bool) (disp : BitVec 8) : exec (.sts h size osx disp) s = execSts h size osx disp s := rfl
@[simp] theorem exec_ldc (h : LaneHead) (size : MSize) (osx : Bool) (disp : BitVec 8) : exec (.ldc h size osx disp) s = execLdc h size osx disp s := rfl
@[simp] theorem exec_pref (h : LaneHead) (osx : Bool) (l2 : Bool) (disp : BitVec 8) : exec (.pref h osx l2 disp) s = execPref h osx l2 disp s := rfl
@[simp] theorem exec_atom (h : LaneHead) (op : AtomOp) (w64 : Bool) (sc : Scope) (nr : Bool) (osx : Bool) (disp : BitVec 5) : exec (.atom h op w64 sc nr osx disp) s = execAtom h op w64 sc nr osx disp s := rfl
@[simp] theorem exec_atoms (h : LaneHead) (op : AtomOp) (w64 : Bool) (nr : Bool) (osx : Bool) (disp : BitVec 5) : exec (.atoms h op w64 nr osx disp) s = execAtoms h op w64 nr osx disp s := rfl
@[simp] theorem exec_rngx (h : LaneHead) (unit : Bool) : exec (.rngx h unit) s = execRngx h unit s := rfl
@[simp] theorem exec_mma (h : LaneHead) (mode : MmaMode) (acls : ACls) (n32 : Bool) : exec (.mma h mode acls n32) s = execMma h mode acls n32 s := rfl
@[simp] theorem exec_mmat (h : LaneHead) (mode : MmaMode) (acls : ACls) (n32 : Bool) : exec (.mmat h mode acls n32) s = execMmat h mode acls n32 s := rfl
@[simp] theorem exec_mguide (h : LaneHead) (cnt : BitVec 5) : exec (.mguide h cnt) s = execMguide h cnt s := rfl
@[simp] theorem exec_mzero (h : LaneHead) (cnt : BitVec 5) : exec (.mzero h cnt) s = execMzero h cnt s := rfl
@[simp] theorem exec_rep (d : BitVec 9) (a : BitVec 9) (b : BitVec 9) (c : BitVec 9) (n : BitVec 6) : exec (.rep d a b c n) s = execRep d a b c n s := rfl
@[simp] theorem exec_laneNop (e : Bool) : exec (.laneNop e) s = execLaneNop e s := rfl
@[simp] theorem exec_bact (h : LaneHead) (roff : BitVec 15) : exec (.bact h roff) s = execBact h roff s := rfl
@[simp] theorem exec_bpre (h : LaneHead) : exec (.bpre h) s = execBpre h s := rfl
@[simp] theorem exec_brd (h : LaneHead) : exec (.brd h) s = execBrd h s := rfl
@[simp] theorem exec_bwr (h : LaneHead) : exec (.bwr h) s = execBwr h s := rfl
@[simp] theorem exec_bfma (h : LaneHead) (hi : Bool) (rm : BitVec 3) : exec (.bfma h hi rm) s = execBfma h hi rm s := rfl
@[simp] theorem exec_bmac (h : LaneHead) (sl : BitVec 4) : exec (.bmac h sl) s = execBmac h sl s := rfl
@[simp] theorem exec_badd (h : LaneHead) (bf : Bool) (rm : BitVec 3) : exec (.badd h bf rm) s = execBadd h bf rm s := rfl
@[simp] theorem exec_bmul (h : LaneHead) (bf : Bool) (rm : BitVec 3) : exec (.bmul h bf rm) s = execBmul h bf rm s := rfl
@[simp] theorem exec_bcvt (h : LaneHead) (hi : Bool) (tof : Bool) (rm : BitVec 3) : exec (.bcvt h hi tof rm) s = execBcvt h hi tof rm s := rfl
@[simp] theorem exec_bred (h : LaneHead) (sl : BitVec 4) : exec (.bred h sl) s = execBred h sl s := rfl
@[simp] theorem exec_bxch (h : LaneHead) (x : BitVec 4) : exec (.bxch h x) s = execBxch h x s := rfl
@[simp] theorem exec_bmov (h : LaneHead) (rl : BitVec 4) : exec (.bmov h rl) s = execBmov h rl s := rfl
@[simp] theorem exec_bst (h : LaneHead) (sz : BitVec 4) (disp : BitVec 9) (shr : Bool) (dir : Bool) : exec (.bst h sz disp shr dir) s = execBst h sz disp shr dir s := rfl
@[simp] theorem exec_bzero (h : LaneHead) : exec (.bzero h) s = execBzero h s := rfl
@[simp] theorem exec_brunComplete (slice : Nat) : exec (.brunComplete slice) s = execBrunComplete slice s := rfl
@[simp] theorem exec_doorbell (w : Nat) (q : Nat) (t : BitVec 32) : exec (.doorbell w q t) s = execDoorbell w q t s := rfl
@[simp] theorem exec_lqcfg (w : Nat) (q : Nat) (v : Word64) : exec (.lqcfg w q v) s = execLqcfg w q v s := rfl
@[simp] theorem exec_elcfg (w : Nat) (v : Word64) : exec (.elcfg w v) s = execElcfg w v s := rfl
@[simp] theorem exec_fqcfg (w : Nat) (v : Word64) : exec (.fqcfg w v) s = execFqcfg w v s := rfl
@[simp] theorem exec_freply (w : Nat) (v : Word64) : exec (.freply w v) s = execFreply w v s := rfl
@[simp] theorem exec_counterReadLow (w : Nat) (off : Nat) : exec (.counterReadLow w off) s = execCounterReadLow w off s := rfl
@[simp] theorem exec_registerWrite (w : Nat) (off : Nat) (v : Word64) : exec (.registerWrite w off v) s = execRegisterWrite w off v s := rfl
@[simp] theorem exec_launchTake (w : Nat) : exec (.launchTake w) s = execLaunchTake w s := rfl
@[simp] theorem exec_ringPlace (lid : Nat) : exec (.ringPlace lid) s = execRingPlace lid s := rfl
@[simp] theorem exec_microkernelStart (lid : Nat) : exec (.microkernelStart lid) s = execMicrokernelStart lid s := rfl
@[simp] theorem exec_troupeResident (core : Nat) : exec (.troupeResident core) s = execTroupeResident core s := rfl
@[simp] theorem exec_runStart (core : Nat) (quarter : Nat) (slice : Nat) : exec (.runStart core quarter slice) s = execRunStart core quarter slice s := rfl
@[simp] theorem exec_runPromotion (gid : Nat) : exec (.runPromotion gid) s = execRunPromotion gid s := rfl
@[simp] theorem exec_guardedEntryDiscard (gid : Nat) : exec (.guardedEntryDiscard gid) s = execGuardedEntryDiscard gid s := rfl
@[simp] theorem exec_quantumExpiry (core : Nat) : exec (.quantumExpiry core) s = execQuantumExpiry core s := rfl
@[simp] theorem exec_preemptionHalt (tid : Nat) : exec (.preemptionHalt tid) s = execPreemptionHalt tid s := rfl
@[simp] theorem exec_cueSheetWalk (lid : Nat) : exec (.cueSheetWalk lid) s = execCueSheetWalk lid s := rfl
@[simp] theorem exec_scalarWaitEnd (a : Agent) : exec (.scalarWaitEnd a) s = execScalarWaitEnd a s := rfl
@[simp] theorem exec_loadReturn (gid : Nat) (aid : Nat) (lane : Nat) : exec (.loadReturn gid aid lane) s = execLoadReturn gid aid lane s := rfl
@[simp] theorem exec_storeAck (gid : Nat) (aid : Nat) (lane : Nat) : exec (.storeAck gid aid lane) s = execStoreAck gid aid lane s := rfl
@[simp] theorem exec_translationEnd (gid : Nat) (aid : Nat) : exec (.translationEnd gid aid) s = execTranslationEnd gid aid s := rfl
@[simp] theorem exec_faultService (w : Nat) (fid : Nat) : exec (.faultService w fid) s = execFaultService w fid s := rfl
@[simp] theorem exec_deferredTrapDelivery (gid : Nat) : exec (.deferredTrapDelivery gid) s = execDeferredTrapDelivery gid s := rfl
@[simp] theorem exec_engineCommandStart (gid : Nat) (p : Path) : exec (.engineCommandStart gid p) s = execEngineCommandStart gid p s := rfl
@[simp] theorem exec_engineCommandComplete (gid : Nat) (p : Path) : exec (.engineCommandComplete gid p) s = execEngineCommandComplete gid p s := rfl
@[simp] theorem exec_groupRetire (gid : Nat) : exec (.groupRetire gid) s = execGroupRetire gid s := rfl
@[simp] theorem exec_regroupFuse (gid : Nat) : exec (.regroupFuse gid) s = execRegroupFuse gid s := rfl
@[simp] theorem exec_mguideRendezvous (gid : Nat) : exec (.mguideRendezvous gid) s = execMguideRendezvous gid s := rfl
@[simp] theorem exec_twinRejoin (gid : Nat) : exec (.twinRejoin gid) s = execTwinRejoin gid s := rfl
@[simp] theorem exec_mailboxAccept (gid : Nat) : exec (.mailboxAccept gid) s = execMailboxAccept gid s := rfl
@[simp] theorem exec_turnstileAtomic (gid : Nat) (aid : Nat) (lane : Nat) : exec (.turnstileAtomic gid aid lane) s = execTurnstileAtomic gid aid lane s := rfl
@[simp] theorem exec_slicePortRead (w : Nat) (pa : Nat) : exec (.slicePortRead w pa) s = execSlicePortRead w pa s := rfl
@[simp] theorem exec_slicePortWrite (w : Nat) (pa : Nat) : exec (.slicePortWrite w pa) s = execSlicePortWrite w pa s := rfl
@[simp] theorem exec_transportPacketReceive (w : Nat) (flow : Nat) (ok : Bool) (pa : Nat) : exec (.transportPacketReceive w flow ok pa) s = execTransportPacketReceive w flow ok pa s := rfl
@[simp] theorem exec_epochAdvance (w : Nat) : exec (.epochAdvance w) s = execEpochAdvance w s := rfl
@[simp] theorem exec_peerFlitReceive (port : Nat) (crcOk : Bool) (msg : PeerMsg) : exec (.peerFlitReceive port crcOk msg) s = execPeerFlitReceive port crcOk msg s := rfl
@[simp] theorem exec_inboundApertureAccess (port : Nat) (num : Nat) (off : Nat) (write : Bool) (bytes : List Byte) : exec (.inboundApertureAccess port num off write bytes) s = execInboundApertureAccess port num off write bytes s := rfl
@[simp] theorem exec_hostCxlMemAccess (fn : Nat) (pa : Nat) (write : Bool) (trusted : Bool) (bytes : List Byte) : exec (.hostCxlMemAccess fn pa write trusted bytes) s = execHostCxlMemAccess fn pa write trusted bytes s := rfl
@[simp] theorem exec_completionRecord (lid : Nat) : exec (.completionRecord lid) s = execCompletionRecord lid s := rfl
@[simp] theorem exec_qcountRise : exec .qcountRise s = execQcountRise s := rfl
@[simp] theorem exec_takeCapture (tid : Nat) : exec (.takeCapture tid) s = execTakeCapture tid s := rfl
@[simp] theorem exec_rollback (tid : Nat) : exec (.rollback tid) s = execRollback tid s := rfl
@[simp] theorem exec_heartbeatExpiry (w : Nat) : exec (.heartbeatExpiry w) s = execHeartbeatExpiry w s := rfl
@[simp] theorem exec_gracePeriodEnd (w : Nat) : exec (.gracePeriodEnd w) s = execGracePeriodEnd w s := rfl
@[simp] theorem exec_getVersion (w : Nat) : exec (.getVersion w) s = execGetVersion w s := rfl
@[simp] theorem exec_getCapabilities (w : Nat) : exec (.getCapabilities w) s = execGetCapabilities w s := rfl
@[simp] theorem exec_negotiateAlgorithms (w : Nat) : exec (.negotiateAlgorithms w) s = execNegotiateAlgorithms w s := rfl
@[simp] theorem exec_getDigests (w : Nat) : exec (.getDigests w) s = execGetDigests w s := rfl
@[simp] theorem exec_getCertificate (w : Nat) : exec (.getCertificate w) s = execGetCertificate w s := rfl
@[simp] theorem exec_challenge (w : Nat) (nonce : Nat) : exec (.challenge w nonce) s = execChallenge w nonce s := rfl
@[simp] theorem exec_getMeasurements (w : Nat) (index : Nat) : exec (.getMeasurements w index) s = execGetMeasurements w index s := rfl
@[simp] theorem exec_keyExchange (w : Nat) (period : Nat) (share : Nat) : exec (.keyExchange w period share) s = execKeyExchange w period share s := rfl
@[simp] theorem exec_finish (w : Nat) : exec (.finish w) s = execFinish w s := rfl
@[simp] theorem exec_heartbeat (w : Nat) : exec (.heartbeat w) s = execHeartbeat w s := rfl
@[simp] theorem exec_keyUpdate (w : Nat) : exec (.keyUpdate w) s = execKeyUpdate w s := rfl
@[simp] theorem exec_endSession (w : Nat) : exec (.endSession w) s = execEndSession w s := rfl
@[simp] theorem exec_ideKm (mem : Bool) (key : Nat) : exec (.ideKm mem key) s = execIdeKm mem key s := rfl
@[simp] theorem exec_lockInterfaceRequest (w : Nat) : exec (.lockInterfaceRequest w) s = execLockInterfaceRequest w s := rfl
@[simp] theorem exec_startInterfaceRequest (w : Nat) : exec (.startInterfaceRequest w) s = execStartInterfaceRequest w s := rfl
@[simp] theorem exec_stopInterfaceRequest (w : Nat) : exec (.stopInterfaceRequest w) s = execStopInterfaceRequest w s := rfl
@[simp] theorem exec_secretRelease (w : Nat) (gen : Nat) : exec (.secretRelease w gen) s = execSecretRelease w gen s := rfl
@[simp] theorem exec_generate (stks : BitVec 8) (w : Nat) (keyid : BitVec 9) : exec (.generate stks w keyid) s = execGenerate stks w keyid s := rfl
@[simp] theorem exec_loadwrap (stks : BitVec 8) (w : Nat) (keyid : BitVec 9) : exec (.loadwrap stks w keyid) s = execLoadwrap stks w keyid s := rfl
@[simp] theorem exec_zeroise (stks : BitVec 8) (w : Nat) (keyid : BitVec 9) : exec (.zeroise stks w keyid) s = execZeroise stks w keyid s := rfl
@[simp] theorem exec_tepoch (stks : BitVec 8) (w : Nat) (keyid : BitVec 9) : exec (.tepoch stks w keyid) s = execTepoch stks w keyid s := rfl
@[simp] theorem exec_create (w : Nat) : exec (.create w) s = execCreate w s := rfl
@[simp] theorem exec_destroy (w : Nat) : exec (.destroy w) s = execDestroy w s := rfl
@[simp] theorem exec_rectadd (w : Nat) : exec (.rectadd w) s = execRectadd w s := rfl
@[simp] theorem exec_rectrem (w : Nat) : exec (.rectrem w) s = execRectrem w s := rfl
@[simp] theorem exec_sliceadd (w : Nat) : exec (.sliceadd w) s = execSliceadd w s := rfl
@[simp] theorem exec_slicerem (w : Nat) : exec (.slicerem w) s = execSlicerem w s := rfl
@[simp] theorem exec_migrate (w : Nat) : exec (.migrate w) s = execMigrate w s := rfl
@[simp] theorem exec_migdone (w : Nat) : exec (.migdone w) s = execMigdone w s := rfl
@[simp] theorem exec_scrub (slice : Nat) : exec (.scrub slice) s = execScrub slice s := rfl
@[simp] theorem exec_l2set (w : Nat) : exec (.l2set w) s = execL2set w s := rfl
@[simp] theorem exec_share (w : Nat) : exec (.share w) s = execShare w s := rfl
@[simp] theorem exec_param (w : Nat) : exec (.param w) s = execParam w s := rfl
@[simp] theorem exec_handle (w : Nat) : exec (.handle w) s = execHandle w s := rfl
@[simp] theorem exec_area (w : Nat) : exec (.area w) s = execArea w s := rfl
@[simp] theorem exec_tlbinv (w : Nat) : exec (.tlbinv w) s = execTlbinv w s := rfl
@[simp] theorem exec_ifinv (w : Nat) : exec (.ifinv w) s = execIfinv w s := rfl
@[simp] theorem exec_preempt (w : Nat) : exec (.preempt w) s = execPreempt w s := rfl
@[simp] theorem exec_resume (w : Nat) : exec (.resume w) s = execResume w s := rfl
@[simp] theorem exec_endlaunch (w : Nat) : exec (.endlaunch w) s = execEndlaunch w s := rfl
@[simp] theorem exec_expose (w : Nat) : exec (.expose w) s = execExpose w s := rfl
@[simp] theorem exec_aperture (w : Nat) : exec (.aperture w) s = execAperture w s := rfl
@[simp] theorem exec_commset (w : Nat) : exec (.commset w) s = execCommset w s := rfl
@[simp] theorem exec_walk (w : Nat) : exec (.walk w) s = execWalk w s := rfl
@[simp] theorem exec_debugStop (w : Nat) : exec (.debugStop w) s = execDebugStop w s := rfl
@[simp] theorem exec_debugResume (w : Nat) : exec (.debugResume w) s = execDebugResume w s := rfl
@[simp] theorem exec_debugStep (w : Nat) (handle : BitVec 5) : exec (.debugStep w handle) s = execDebugStep w handle s := rfl
@[simp] theorem exec_debugSelect (w : Nat) (v : Word64) : exec (.debugSelect w v) s = execDebugSelect w v s := rfl
@[simp] theorem exec_rhctl (w : Nat) (v : Word64) : exec (.rhctl w v) s = execRhctl w v s := rfl
@[simp] theorem exec_stage : exec .stage s = execStage s := rfl
@[simp] theorem exec_clear : exec .clear s = execClear s := rfl
@[simp] theorem exec_moduleReset : exec .moduleReset s = execModuleReset s := rfl
@[simp] theorem exec_thermalWarning (sensor : Nat) (temp : BitVec 16) : exec (.thermalWarning sensor temp) s = execThermalWarning sensor temp s := rfl
@[simp] theorem exec_thermalCritical : exec .thermalCritical s = execThermalCritical s := rfl
@[simp] theorem exec_notAnInstruction (cls : Nat) (cause : Nat) (lane : Bool) (tval : Word64) : exec (.notAnInstruction cls cause lane tval) s = execNotAnInstruction cls cause lane tval s := rfl
@[simp] theorem exec_matrixFormCompletion (core : Nat) (quarter : Nat) (reads : Bool) : exec (.matrixFormCompletion core quarter reads) s = execMatrixFormCompletion core quarter reads s := rfl
@[simp] theorem exec_fqhead (w : Nat) (v : BitVec 32) : exec (.fqhead w v) s = execFqhead w v s := rfl
@[simp] theorem exec_phyLaneError : exec .phyLaneError s = execPhyLaneError s := rfl
@[simp] theorem exec_cxlLinkError : exec .cxlLinkError s = execCxlLinkError s := rfl

end Sys2Proof.Machine
end

