-- ==== Sys2Proof/Laws/State.lean ====
section
/-! SUPPORT. What each named update of the device leaves unchanged: one lemma per field of `State` and update, each true
by unfolding the update once. -/

namespace Sys2Proof.Machine

variable (s : State)

/-! ## `setWorld` changes `worlds` only -/

@[simp] theorem setWorld_now (w : Nat) (v : World) : (s.setWorld w v).now = s.now := rfl
@[simp] theorem setWorld_agenda (w : Nat) (v : World) : (s.setWorld w v).agenda = s.agenda := rfl
@[simp] theorem setWorld_cur (w : Nat) (v : World) : (s.setWorld w v).cur = s.cur := rfl
@[simp] theorem setWorld_curLane (w : Nat) (v : World) : (s.setWorld w v).curLane = s.curLane := rfl
@[simp] theorem setWorld_free (w : Nat) (v : World) : (s.setWorld w v).free = s.free := rfl
@[simp] theorem setWorld_launches (w : Nat) (v : World) : (s.setWorld w v).launches = s.launches := rfl
@[simp] theorem setWorld_nextLid (w : Nat) (v : World) : (s.setWorld w v).nextLid = s.nextLid := rfl
@[simp] theorem setWorld_rrWorld (w : Nat) (v : World) : (s.setWorld w v).rrWorld = s.rrWorld := rfl
@[simp] theorem setWorld_troupes (w : Nat) (v : World) : (s.setWorld w v).troupes = s.troupes := rfl
@[simp] theorem setWorld_nextTid (w : Nat) (v : World) : (s.setWorld w v).nextTid = s.nextTid := rfl
@[simp] theorem setWorld_groups (w : Nat) (v : World) : (s.setWorld w v).groups = s.groups := rfl
@[simp] theorem setWorld_cores (w : Nat) (v : World) : (s.setWorld w v).cores = s.cores := rfl
@[simp] theorem setWorld_slices (w : Nat) (v : World) : (s.setWorld w v).slices = s.slices := rfl
@[simp] theorem setWorld_keys (w : Nat) (v : World) : (s.setWorld w v).keys = s.keys := rfl
@[simp] theorem setWorld_keyGen (w : Nat) (v : World) : (s.setWorld w v).keyGen = s.keyGen := rfl
@[simp] theorem setWorld_mem (w : Nat) (v : World) : (s.setWorld w v).mem = s.mem := rfl
@[simp] theorem setWorld_rows (w : Nat) (v : World) : (s.setWorld w v).rows = s.rows := rfl
@[simp] theorem setWorld_treeBad (w : Nat) (v : World) : (s.setWorld w v).treeBad = s.treeBad := rfl
@[simp] theorem setWorld_treeFailed (w : Nat) (v : World) : (s.setWorld w v).treeFailed = s.treeFailed := rfl
@[simp] theorem setWorld_metaCache (w : Nat) (v : World) : (s.setWorld w v).metaCache = s.metaCache := rfl
@[simp] theorem setWorld_engineOut (w : Nat) (v : World) : (s.setWorld w v).engineOut = s.engineOut := rfl
@[simp] theorem setWorld_spoiled (w : Nat) (v : World) : (s.setWorld w v).spoiled = s.spoiled := rfl
@[simp] theorem setWorld_l2 (w : Nat) (v : World) : (s.setWorld w v).l2 = s.l2 := rfl
@[simp] theorem setWorld_turn (w : Nat) (v : World) : (s.setWorld w v).turn = s.turn := rfl
@[simp] theorem setWorld_turnUse (w : Nat) (v : World) : (s.setWorld w v).turnUse = s.turnUse := rfl
@[simp] theorem setWorld_turnq (w : Nat) (v : World) : (s.setWorld w v).turnq = s.turnq := rfl
@[simp] theorem setWorld_barriers (w : Nat) (v : World) : (s.setWorld w v).barriers = s.barriers := rfl
@[simp] theorem setWorld_dieTlb (w : Nat) (v : World) : (s.setWorld w v).dieTlb = s.dieTlb := rfl
@[simp] theorem setWorld_homePoison (w : Nat) (v : World) : (s.setWorld w v).homePoison = s.homePoison := rfl
@[simp] theorem setWorld_hostMem (w : Nat) (v : World) : (s.setWorld w v).hostMem = s.hostMem := rfl
@[simp] theorem setWorld_hostFails (w : Nat) (v : World) : (s.setWorld w v).hostFails = s.hostFails := rfl
@[simp] theorem setWorld_bus (w : Nat) (v : World) : (s.setWorld w v).bus = s.bus := rfl
@[simp] theorem setWorld_logPend (w : Nat) (v : World) : (s.setWorld w v).logPend = s.logPend := rfl
@[simp] theorem setWorld_qcount (w : Nat) (v : World) : (s.setWorld w v).qcount = s.qcount := rfl
@[simp] theorem setWorld_qmark (w : Nat) (v : World) : (s.setWorld w v).qmark = s.qmark := rfl
@[simp] theorem setWorld_cmdif (w : Nat) (v : World) : (s.setWorld w v).cmdif = s.cmdif := rfl
@[simp] theorem setWorld_fwStaged (w : Nat) (v : World) : (s.setWorld w v).fwStaged = s.fwStaged := rfl
@[simp] theorem setWorld_fwRunning (w : Nat) (v : World) : (s.setWorld w v).fwRunning = s.fwRunning := rfl
@[simp] theorem setWorld_fwBad (w : Nat) (v : World) : (s.setWorld w v).fwBad = s.fwBad := rfl
@[simp] theorem setWorld_booted (w : Nat) (v : World) : (s.setWorld w v).booted = s.booted := rfl
@[simp] theorem setWorld_udsLocked (w : Nat) (v : World) : (s.setWorld w v).udsLocked = s.udsLocked := rfl
@[simp] theorem setWorld_shared (w : Nat) (v : World) : (s.setWorld w v).shared = s.shared := rfl
@[simp] theorem setWorld_ideIo (w : Nat) (v : World) : (s.setWorld w v).ideIo = s.ideIo := rfl
@[simp] theorem setWorld_ideMem (w : Nat) (v : World) : (s.setWorld w v).ideMem = s.ideMem := rfl

/-! ## `modWorld` changes `worlds` only -/

@[simp] theorem modWorld_now (w : Nat) (f : World → World) : (s.modWorld w f).now = s.now := rfl
@[simp] theorem modWorld_agenda (w : Nat) (f : World → World) : (s.modWorld w f).agenda = s.agenda := rfl
@[simp] theorem modWorld_cur (w : Nat) (f : World → World) : (s.modWorld w f).cur = s.cur := rfl
@[simp] theorem modWorld_curLane (w : Nat) (f : World → World) : (s.modWorld w f).curLane = s.curLane := rfl
@[simp] theorem modWorld_free (w : Nat) (f : World → World) : (s.modWorld w f).free = s.free := rfl
@[simp] theorem modWorld_launches (w : Nat) (f : World → World) : (s.modWorld w f).launches = s.launches := rfl
@[simp] theorem modWorld_nextLid (w : Nat) (f : World → World) : (s.modWorld w f).nextLid = s.nextLid := rfl
@[simp] theorem modWorld_rrWorld (w : Nat) (f : World → World) : (s.modWorld w f).rrWorld = s.rrWorld := rfl
@[simp] theorem modWorld_troupes (w : Nat) (f : World → World) : (s.modWorld w f).troupes = s.troupes := rfl
@[simp] theorem modWorld_nextTid (w : Nat) (f : World → World) : (s.modWorld w f).nextTid = s.nextTid := rfl
@[simp] theorem modWorld_groups (w : Nat) (f : World → World) : (s.modWorld w f).groups = s.groups := rfl
@[simp] theorem modWorld_cores (w : Nat) (f : World → World) : (s.modWorld w f).cores = s.cores := rfl
@[simp] theorem modWorld_slices (w : Nat) (f : World → World) : (s.modWorld w f).slices = s.slices := rfl
@[simp] theorem modWorld_keys (w : Nat) (f : World → World) : (s.modWorld w f).keys = s.keys := rfl
@[simp] theorem modWorld_keyGen (w : Nat) (f : World → World) : (s.modWorld w f).keyGen = s.keyGen := rfl
@[simp] theorem modWorld_mem (w : Nat) (f : World → World) : (s.modWorld w f).mem = s.mem := rfl
@[simp] theorem modWorld_rows (w : Nat) (f : World → World) : (s.modWorld w f).rows = s.rows := rfl
@[simp] theorem modWorld_treeBad (w : Nat) (f : World → World) : (s.modWorld w f).treeBad = s.treeBad := rfl
@[simp] theorem modWorld_treeFailed (w : Nat) (f : World → World) : (s.modWorld w f).treeFailed = s.treeFailed := rfl
@[simp] theorem modWorld_metaCache (w : Nat) (f : World → World) : (s.modWorld w f).metaCache = s.metaCache := rfl
@[simp] theorem modWorld_engineOut (w : Nat) (f : World → World) : (s.modWorld w f).engineOut = s.engineOut := rfl
@[simp] theorem modWorld_spoiled (w : Nat) (f : World → World) : (s.modWorld w f).spoiled = s.spoiled := rfl
@[simp] theorem modWorld_l2 (w : Nat) (f : World → World) : (s.modWorld w f).l2 = s.l2 := rfl
@[simp] theorem modWorld_turn (w : Nat) (f : World → World) : (s.modWorld w f).turn = s.turn := rfl
@[simp] theorem modWorld_turnUse (w : Nat) (f : World → World) : (s.modWorld w f).turnUse = s.turnUse := rfl
@[simp] theorem modWorld_turnq (w : Nat) (f : World → World) : (s.modWorld w f).turnq = s.turnq := rfl
@[simp] theorem modWorld_barriers (w : Nat) (f : World → World) : (s.modWorld w f).barriers = s.barriers := rfl
@[simp] theorem modWorld_dieTlb (w : Nat) (f : World → World) : (s.modWorld w f).dieTlb = s.dieTlb := rfl
@[simp] theorem modWorld_homePoison (w : Nat) (f : World → World) : (s.modWorld w f).homePoison = s.homePoison := rfl
@[simp] theorem modWorld_hostMem (w : Nat) (f : World → World) : (s.modWorld w f).hostMem = s.hostMem := rfl
@[simp] theorem modWorld_hostFails (w : Nat) (f : World → World) : (s.modWorld w f).hostFails = s.hostFails := rfl
@[simp] theorem modWorld_bus (w : Nat) (f : World → World) : (s.modWorld w f).bus = s.bus := rfl
@[simp] theorem modWorld_logPend (w : Nat) (f : World → World) : (s.modWorld w f).logPend = s.logPend := rfl
@[simp] theorem modWorld_qcount (w : Nat) (f : World → World) : (s.modWorld w f).qcount = s.qcount := rfl
@[simp] theorem modWorld_qmark (w : Nat) (f : World → World) : (s.modWorld w f).qmark = s.qmark := rfl
@[simp] theorem modWorld_cmdif (w : Nat) (f : World → World) : (s.modWorld w f).cmdif = s.cmdif := rfl
@[simp] theorem modWorld_fwStaged (w : Nat) (f : World → World) : (s.modWorld w f).fwStaged = s.fwStaged := rfl
@[simp] theorem modWorld_fwRunning (w : Nat) (f : World → World) : (s.modWorld w f).fwRunning = s.fwRunning := rfl
@[simp] theorem modWorld_fwBad (w : Nat) (f : World → World) : (s.modWorld w f).fwBad = s.fwBad := rfl
@[simp] theorem modWorld_booted (w : Nat) (f : World → World) : (s.modWorld w f).booted = s.booted := rfl
@[simp] theorem modWorld_udsLocked (w : Nat) (f : World → World) : (s.modWorld w f).udsLocked = s.udsLocked := rfl
@[simp] theorem modWorld_shared (w : Nat) (f : World → World) : (s.modWorld w f).shared = s.shared := rfl
@[simp] theorem modWorld_ideIo (w : Nat) (f : World → World) : (s.modWorld w f).ideIo = s.ideIo := rfl
@[simp] theorem modWorld_ideMem (w : Nat) (f : World → World) : (s.modWorld w f).ideMem = s.ideMem := rfl

/-! ## `modLaunch` changes `launches` only -/

@[simp] theorem modLaunch_now (k : Nat) (f : Launch → Launch) : (s.modLaunch k f).now = s.now := rfl
@[simp] theorem modLaunch_agenda (k : Nat) (f : Launch → Launch) : (s.modLaunch k f).agenda = s.agenda := rfl
@[simp] theorem modLaunch_cur (k : Nat) (f : Launch → Launch) : (s.modLaunch k f).cur = s.cur := rfl
@[simp] theorem modLaunch_curLane (k : Nat) (f : Launch → Launch) : (s.modLaunch k f).curLane = s.curLane := rfl
@[simp] theorem modLaunch_free (k : Nat) (f : Launch → Launch) : (s.modLaunch k f).free = s.free := rfl
@[simp] theorem modLaunch_worlds (k : Nat) (f : Launch → Launch) : (s.modLaunch k f).worlds = s.worlds := rfl
@[simp] theorem modLaunch_nextLid (k : Nat) (f : Launch → Launch) : (s.modLaunch k f).nextLid = s.nextLid := rfl
@[simp] theorem modLaunch_rrWorld (k : Nat) (f : Launch → Launch) : (s.modLaunch k f).rrWorld = s.rrWorld := rfl
@[simp] theorem modLaunch_troupes (k : Nat) (f : Launch → Launch) : (s.modLaunch k f).troupes = s.troupes := rfl
@[simp] theorem modLaunch_nextTid (k : Nat) (f : Launch → Launch) : (s.modLaunch k f).nextTid = s.nextTid := rfl
@[simp] theorem modLaunch_groups (k : Nat) (f : Launch → Launch) : (s.modLaunch k f).groups = s.groups := rfl
@[simp] theorem modLaunch_cores (k : Nat) (f : Launch → Launch) : (s.modLaunch k f).cores = s.cores := rfl
@[simp] theorem modLaunch_slices (k : Nat) (f : Launch → Launch) : (s.modLaunch k f).slices = s.slices := rfl
@[simp] theorem modLaunch_keys (k : Nat) (f : Launch → Launch) : (s.modLaunch k f).keys = s.keys := rfl
@[simp] theorem modLaunch_keyGen (k : Nat) (f : Launch → Launch) : (s.modLaunch k f).keyGen = s.keyGen := rfl
@[simp] theorem modLaunch_mem (k : Nat) (f : Launch → Launch) : (s.modLaunch k f).mem = s.mem := rfl
@[simp] theorem modLaunch_rows (k : Nat) (f : Launch → Launch) : (s.modLaunch k f).rows = s.rows := rfl
@[simp] theorem modLaunch_treeBad (k : Nat) (f : Launch → Launch) : (s.modLaunch k f).treeBad = s.treeBad := rfl
@[simp] theorem modLaunch_treeFailed (k : Nat) (f : Launch → Launch) : (s.modLaunch k f).treeFailed = s.treeFailed := rfl
@[simp] theorem modLaunch_metaCache (k : Nat) (f : Launch → Launch) : (s.modLaunch k f).metaCache = s.metaCache := rfl
@[simp] theorem modLaunch_engineOut (k : Nat) (f : Launch → Launch) : (s.modLaunch k f).engineOut = s.engineOut := rfl
@[simp] theorem modLaunch_spoiled (k : Nat) (f : Launch → Launch) : (s.modLaunch k f).spoiled = s.spoiled := rfl
@[simp] theorem modLaunch_l2 (k : Nat) (f : Launch → Launch) : (s.modLaunch k f).l2 = s.l2 := rfl
@[simp] theorem modLaunch_turn (k : Nat) (f : Launch → Launch) : (s.modLaunch k f).turn = s.turn := rfl
@[simp] theorem modLaunch_turnUse (k : Nat) (f : Launch → Launch) : (s.modLaunch k f).turnUse = s.turnUse := rfl
@[simp] theorem modLaunch_turnq (k : Nat) (f : Launch → Launch) : (s.modLaunch k f).turnq = s.turnq := rfl
@[simp] theorem modLaunch_barriers (k : Nat) (f : Launch → Launch) : (s.modLaunch k f).barriers = s.barriers := rfl
@[simp] theorem modLaunch_dieTlb (k : Nat) (f : Launch → Launch) : (s.modLaunch k f).dieTlb = s.dieTlb := rfl
@[simp] theorem modLaunch_homePoison (k : Nat) (f : Launch → Launch) : (s.modLaunch k f).homePoison = s.homePoison := rfl
@[simp] theorem modLaunch_hostMem (k : Nat) (f : Launch → Launch) : (s.modLaunch k f).hostMem = s.hostMem := rfl
@[simp] theorem modLaunch_hostFails (k : Nat) (f : Launch → Launch) : (s.modLaunch k f).hostFails = s.hostFails := rfl
@[simp] theorem modLaunch_bus (k : Nat) (f : Launch → Launch) : (s.modLaunch k f).bus = s.bus := rfl
@[simp] theorem modLaunch_logPend (k : Nat) (f : Launch → Launch) : (s.modLaunch k f).logPend = s.logPend := rfl
@[simp] theorem modLaunch_qcount (k : Nat) (f : Launch → Launch) : (s.modLaunch k f).qcount = s.qcount := rfl
@[simp] theorem modLaunch_qmark (k : Nat) (f : Launch → Launch) : (s.modLaunch k f).qmark = s.qmark := rfl
@[simp] theorem modLaunch_cmdif (k : Nat) (f : Launch → Launch) : (s.modLaunch k f).cmdif = s.cmdif := rfl
@[simp] theorem modLaunch_fwStaged (k : Nat) (f : Launch → Launch) : (s.modLaunch k f).fwStaged = s.fwStaged := rfl
@[simp] theorem modLaunch_fwRunning (k : Nat) (f : Launch → Launch) : (s.modLaunch k f).fwRunning = s.fwRunning := rfl
@[simp] theorem modLaunch_fwBad (k : Nat) (f : Launch → Launch) : (s.modLaunch k f).fwBad = s.fwBad := rfl
@[simp] theorem modLaunch_booted (k : Nat) (f : Launch → Launch) : (s.modLaunch k f).booted = s.booted := rfl
@[simp] theorem modLaunch_udsLocked (k : Nat) (f : Launch → Launch) : (s.modLaunch k f).udsLocked = s.udsLocked := rfl
@[simp] theorem modLaunch_shared (k : Nat) (f : Launch → Launch) : (s.modLaunch k f).shared = s.shared := rfl
@[simp] theorem modLaunch_ideIo (k : Nat) (f : Launch → Launch) : (s.modLaunch k f).ideIo = s.ideIo := rfl
@[simp] theorem modLaunch_ideMem (k : Nat) (f : Launch → Launch) : (s.modLaunch k f).ideMem = s.ideMem := rfl

/-! ## `modTroupe` changes `troupes` only -/

@[simp] theorem modTroupe_now (k : Nat) (f : Troupe → Troupe) : (s.modTroupe k f).now = s.now := rfl
@[simp] theorem modTroupe_agenda (k : Nat) (f : Troupe → Troupe) : (s.modTroupe k f).agenda = s.agenda := rfl
@[simp] theorem modTroupe_cur (k : Nat) (f : Troupe → Troupe) : (s.modTroupe k f).cur = s.cur := rfl
@[simp] theorem modTroupe_curLane (k : Nat) (f : Troupe → Troupe) : (s.modTroupe k f).curLane = s.curLane := rfl
@[simp] theorem modTroupe_free (k : Nat) (f : Troupe → Troupe) : (s.modTroupe k f).free = s.free := rfl
@[simp] theorem modTroupe_worlds (k : Nat) (f : Troupe → Troupe) : (s.modTroupe k f).worlds = s.worlds := rfl
@[simp] theorem modTroupe_launches (k : Nat) (f : Troupe → Troupe) : (s.modTroupe k f).launches = s.launches := rfl
@[simp] theorem modTroupe_nextLid (k : Nat) (f : Troupe → Troupe) : (s.modTroupe k f).nextLid = s.nextLid := rfl
@[simp] theorem modTroupe_rrWorld (k : Nat) (f : Troupe → Troupe) : (s.modTroupe k f).rrWorld = s.rrWorld := rfl
@[simp] theorem modTroupe_nextTid (k : Nat) (f : Troupe → Troupe) : (s.modTroupe k f).nextTid = s.nextTid := rfl
@[simp] theorem modTroupe_groups (k : Nat) (f : Troupe → Troupe) : (s.modTroupe k f).groups = s.groups := rfl
@[simp] theorem modTroupe_cores (k : Nat) (f : Troupe → Troupe) : (s.modTroupe k f).cores = s.cores := rfl
@[simp] theorem modTroupe_slices (k : Nat) (f : Troupe → Troupe) : (s.modTroupe k f).slices = s.slices := rfl
@[simp] theorem modTroupe_keys (k : Nat) (f : Troupe → Troupe) : (s.modTroupe k f).keys = s.keys := rfl
@[simp] theorem modTroupe_keyGen (k : Nat) (f : Troupe → Troupe) : (s.modTroupe k f).keyGen = s.keyGen := rfl
@[simp] theorem modTroupe_mem (k : Nat) (f : Troupe → Troupe) : (s.modTroupe k f).mem = s.mem := rfl
@[simp] theorem modTroupe_rows (k : Nat) (f : Troupe → Troupe) : (s.modTroupe k f).rows = s.rows := rfl
@[simp] theorem modTroupe_treeBad (k : Nat) (f : Troupe → Troupe) : (s.modTroupe k f).treeBad = s.treeBad := rfl
@[simp] theorem modTroupe_treeFailed (k : Nat) (f : Troupe → Troupe) : (s.modTroupe k f).treeFailed = s.treeFailed := rfl
@[simp] theorem modTroupe_metaCache (k : Nat) (f : Troupe → Troupe) : (s.modTroupe k f).metaCache = s.metaCache := rfl
@[simp] theorem modTroupe_engineOut (k : Nat) (f : Troupe → Troupe) : (s.modTroupe k f).engineOut = s.engineOut := rfl
@[simp] theorem modTroupe_spoiled (k : Nat) (f : Troupe → Troupe) : (s.modTroupe k f).spoiled = s.spoiled := rfl
@[simp] theorem modTroupe_l2 (k : Nat) (f : Troupe → Troupe) : (s.modTroupe k f).l2 = s.l2 := rfl
@[simp] theorem modTroupe_turn (k : Nat) (f : Troupe → Troupe) : (s.modTroupe k f).turn = s.turn := rfl
@[simp] theorem modTroupe_turnUse (k : Nat) (f : Troupe → Troupe) : (s.modTroupe k f).turnUse = s.turnUse := rfl
@[simp] theorem modTroupe_turnq (k : Nat) (f : Troupe → Troupe) : (s.modTroupe k f).turnq = s.turnq := rfl
@[simp] theorem modTroupe_barriers (k : Nat) (f : Troupe → Troupe) : (s.modTroupe k f).barriers = s.barriers := rfl
@[simp] theorem modTroupe_dieTlb (k : Nat) (f : Troupe → Troupe) : (s.modTroupe k f).dieTlb = s.dieTlb := rfl
@[simp] theorem modTroupe_homePoison (k : Nat) (f : Troupe → Troupe) : (s.modTroupe k f).homePoison = s.homePoison := rfl
@[simp] theorem modTroupe_hostMem (k : Nat) (f : Troupe → Troupe) : (s.modTroupe k f).hostMem = s.hostMem := rfl
@[simp] theorem modTroupe_hostFails (k : Nat) (f : Troupe → Troupe) : (s.modTroupe k f).hostFails = s.hostFails := rfl
@[simp] theorem modTroupe_bus (k : Nat) (f : Troupe → Troupe) : (s.modTroupe k f).bus = s.bus := rfl
@[simp] theorem modTroupe_logPend (k : Nat) (f : Troupe → Troupe) : (s.modTroupe k f).logPend = s.logPend := rfl
@[simp] theorem modTroupe_qcount (k : Nat) (f : Troupe → Troupe) : (s.modTroupe k f).qcount = s.qcount := rfl
@[simp] theorem modTroupe_qmark (k : Nat) (f : Troupe → Troupe) : (s.modTroupe k f).qmark = s.qmark := rfl
@[simp] theorem modTroupe_cmdif (k : Nat) (f : Troupe → Troupe) : (s.modTroupe k f).cmdif = s.cmdif := rfl
@[simp] theorem modTroupe_fwStaged (k : Nat) (f : Troupe → Troupe) : (s.modTroupe k f).fwStaged = s.fwStaged := rfl
@[simp] theorem modTroupe_fwRunning (k : Nat) (f : Troupe → Troupe) : (s.modTroupe k f).fwRunning = s.fwRunning := rfl
@[simp] theorem modTroupe_fwBad (k : Nat) (f : Troupe → Troupe) : (s.modTroupe k f).fwBad = s.fwBad := rfl
@[simp] theorem modTroupe_booted (k : Nat) (f : Troupe → Troupe) : (s.modTroupe k f).booted = s.booted := rfl
@[simp] theorem modTroupe_udsLocked (k : Nat) (f : Troupe → Troupe) : (s.modTroupe k f).udsLocked = s.udsLocked := rfl
@[simp] theorem modTroupe_shared (k : Nat) (f : Troupe → Troupe) : (s.modTroupe k f).shared = s.shared := rfl
@[simp] theorem modTroupe_ideIo (k : Nat) (f : Troupe → Troupe) : (s.modTroupe k f).ideIo = s.ideIo := rfl
@[simp] theorem modTroupe_ideMem (k : Nat) (f : Troupe → Troupe) : (s.modTroupe k f).ideMem = s.ideMem := rfl

/-! ## `modGroup` changes `groups` only -/

@[simp] theorem modGroup_now (k : Nat) (f : Group → Group) : (s.modGroup k f).now = s.now := rfl
@[simp] theorem modGroup_agenda (k : Nat) (f : Group → Group) : (s.modGroup k f).agenda = s.agenda := rfl
@[simp] theorem modGroup_cur (k : Nat) (f : Group → Group) : (s.modGroup k f).cur = s.cur := rfl
@[simp] theorem modGroup_curLane (k : Nat) (f : Group → Group) : (s.modGroup k f).curLane = s.curLane := rfl
@[simp] theorem modGroup_free (k : Nat) (f : Group → Group) : (s.modGroup k f).free = s.free := rfl
@[simp] theorem modGroup_worlds (k : Nat) (f : Group → Group) : (s.modGroup k f).worlds = s.worlds := rfl
@[simp] theorem modGroup_launches (k : Nat) (f : Group → Group) : (s.modGroup k f).launches = s.launches := rfl
@[simp] theorem modGroup_nextLid (k : Nat) (f : Group → Group) : (s.modGroup k f).nextLid = s.nextLid := rfl
@[simp] theorem modGroup_rrWorld (k : Nat) (f : Group → Group) : (s.modGroup k f).rrWorld = s.rrWorld := rfl
@[simp] theorem modGroup_troupes (k : Nat) (f : Group → Group) : (s.modGroup k f).troupes = s.troupes := rfl
@[simp] theorem modGroup_nextTid (k : Nat) (f : Group → Group) : (s.modGroup k f).nextTid = s.nextTid := rfl
@[simp] theorem modGroup_cores (k : Nat) (f : Group → Group) : (s.modGroup k f).cores = s.cores := rfl
@[simp] theorem modGroup_slices (k : Nat) (f : Group → Group) : (s.modGroup k f).slices = s.slices := rfl
@[simp] theorem modGroup_keys (k : Nat) (f : Group → Group) : (s.modGroup k f).keys = s.keys := rfl
@[simp] theorem modGroup_keyGen (k : Nat) (f : Group → Group) : (s.modGroup k f).keyGen = s.keyGen := rfl
@[simp] theorem modGroup_mem (k : Nat) (f : Group → Group) : (s.modGroup k f).mem = s.mem := rfl
@[simp] theorem modGroup_rows (k : Nat) (f : Group → Group) : (s.modGroup k f).rows = s.rows := rfl
@[simp] theorem modGroup_treeBad (k : Nat) (f : Group → Group) : (s.modGroup k f).treeBad = s.treeBad := rfl
@[simp] theorem modGroup_treeFailed (k : Nat) (f : Group → Group) : (s.modGroup k f).treeFailed = s.treeFailed := rfl
@[simp] theorem modGroup_metaCache (k : Nat) (f : Group → Group) : (s.modGroup k f).metaCache = s.metaCache := rfl
@[simp] theorem modGroup_engineOut (k : Nat) (f : Group → Group) : (s.modGroup k f).engineOut = s.engineOut := rfl
@[simp] theorem modGroup_spoiled (k : Nat) (f : Group → Group) : (s.modGroup k f).spoiled = s.spoiled := rfl
@[simp] theorem modGroup_l2 (k : Nat) (f : Group → Group) : (s.modGroup k f).l2 = s.l2 := rfl
@[simp] theorem modGroup_turn (k : Nat) (f : Group → Group) : (s.modGroup k f).turn = s.turn := rfl
@[simp] theorem modGroup_turnUse (k : Nat) (f : Group → Group) : (s.modGroup k f).turnUse = s.turnUse := rfl
@[simp] theorem modGroup_turnq (k : Nat) (f : Group → Group) : (s.modGroup k f).turnq = s.turnq := rfl
@[simp] theorem modGroup_barriers (k : Nat) (f : Group → Group) : (s.modGroup k f).barriers = s.barriers := rfl
@[simp] theorem modGroup_dieTlb (k : Nat) (f : Group → Group) : (s.modGroup k f).dieTlb = s.dieTlb := rfl
@[simp] theorem modGroup_homePoison (k : Nat) (f : Group → Group) : (s.modGroup k f).homePoison = s.homePoison := rfl
@[simp] theorem modGroup_hostMem (k : Nat) (f : Group → Group) : (s.modGroup k f).hostMem = s.hostMem := rfl
@[simp] theorem modGroup_hostFails (k : Nat) (f : Group → Group) : (s.modGroup k f).hostFails = s.hostFails := rfl
@[simp] theorem modGroup_bus (k : Nat) (f : Group → Group) : (s.modGroup k f).bus = s.bus := rfl
@[simp] theorem modGroup_logPend (k : Nat) (f : Group → Group) : (s.modGroup k f).logPend = s.logPend := rfl
@[simp] theorem modGroup_qcount (k : Nat) (f : Group → Group) : (s.modGroup k f).qcount = s.qcount := rfl
@[simp] theorem modGroup_qmark (k : Nat) (f : Group → Group) : (s.modGroup k f).qmark = s.qmark := rfl
@[simp] theorem modGroup_cmdif (k : Nat) (f : Group → Group) : (s.modGroup k f).cmdif = s.cmdif := rfl
@[simp] theorem modGroup_fwStaged (k : Nat) (f : Group → Group) : (s.modGroup k f).fwStaged = s.fwStaged := rfl
@[simp] theorem modGroup_fwRunning (k : Nat) (f : Group → Group) : (s.modGroup k f).fwRunning = s.fwRunning := rfl
@[simp] theorem modGroup_fwBad (k : Nat) (f : Group → Group) : (s.modGroup k f).fwBad = s.fwBad := rfl
@[simp] theorem modGroup_booted (k : Nat) (f : Group → Group) : (s.modGroup k f).booted = s.booted := rfl
@[simp] theorem modGroup_udsLocked (k : Nat) (f : Group → Group) : (s.modGroup k f).udsLocked = s.udsLocked := rfl
@[simp] theorem modGroup_shared (k : Nat) (f : Group → Group) : (s.modGroup k f).shared = s.shared := rfl
@[simp] theorem modGroup_ideIo (k : Nat) (f : Group → Group) : (s.modGroup k f).ideIo = s.ideIo := rfl
@[simp] theorem modGroup_ideMem (k : Nat) (f : Group → Group) : (s.modGroup k f).ideMem = s.ideMem := rfl

/-! ## `modCore` changes `cores` only -/

@[simp] theorem modCore_now (k : Nat) (f : Core → Core) : (s.modCore k f).now = s.now := rfl
@[simp] theorem modCore_agenda (k : Nat) (f : Core → Core) : (s.modCore k f).agenda = s.agenda := rfl
@[simp] theorem modCore_cur (k : Nat) (f : Core → Core) : (s.modCore k f).cur = s.cur := rfl
@[simp] theorem modCore_curLane (k : Nat) (f : Core → Core) : (s.modCore k f).curLane = s.curLane := rfl
@[simp] theorem modCore_free (k : Nat) (f : Core → Core) : (s.modCore k f).free = s.free := rfl
@[simp] theorem modCore_worlds (k : Nat) (f : Core → Core) : (s.modCore k f).worlds = s.worlds := rfl
@[simp] theorem modCore_launches (k : Nat) (f : Core → Core) : (s.modCore k f).launches = s.launches := rfl
@[simp] theorem modCore_nextLid (k : Nat) (f : Core → Core) : (s.modCore k f).nextLid = s.nextLid := rfl
@[simp] theorem modCore_rrWorld (k : Nat) (f : Core → Core) : (s.modCore k f).rrWorld = s.rrWorld := rfl
@[simp] theorem modCore_troupes (k : Nat) (f : Core → Core) : (s.modCore k f).troupes = s.troupes := rfl
@[simp] theorem modCore_nextTid (k : Nat) (f : Core → Core) : (s.modCore k f).nextTid = s.nextTid := rfl
@[simp] theorem modCore_groups (k : Nat) (f : Core → Core) : (s.modCore k f).groups = s.groups := rfl
@[simp] theorem modCore_slices (k : Nat) (f : Core → Core) : (s.modCore k f).slices = s.slices := rfl
@[simp] theorem modCore_keys (k : Nat) (f : Core → Core) : (s.modCore k f).keys = s.keys := rfl
@[simp] theorem modCore_keyGen (k : Nat) (f : Core → Core) : (s.modCore k f).keyGen = s.keyGen := rfl
@[simp] theorem modCore_mem (k : Nat) (f : Core → Core) : (s.modCore k f).mem = s.mem := rfl
@[simp] theorem modCore_rows (k : Nat) (f : Core → Core) : (s.modCore k f).rows = s.rows := rfl
@[simp] theorem modCore_treeBad (k : Nat) (f : Core → Core) : (s.modCore k f).treeBad = s.treeBad := rfl
@[simp] theorem modCore_treeFailed (k : Nat) (f : Core → Core) : (s.modCore k f).treeFailed = s.treeFailed := rfl
@[simp] theorem modCore_metaCache (k : Nat) (f : Core → Core) : (s.modCore k f).metaCache = s.metaCache := rfl
@[simp] theorem modCore_engineOut (k : Nat) (f : Core → Core) : (s.modCore k f).engineOut = s.engineOut := rfl
@[simp] theorem modCore_spoiled (k : Nat) (f : Core → Core) : (s.modCore k f).spoiled = s.spoiled := rfl
@[simp] theorem modCore_l2 (k : Nat) (f : Core → Core) : (s.modCore k f).l2 = s.l2 := rfl
@[simp] theorem modCore_turn (k : Nat) (f : Core → Core) : (s.modCore k f).turn = s.turn := rfl
@[simp] theorem modCore_turnUse (k : Nat) (f : Core → Core) : (s.modCore k f).turnUse = s.turnUse := rfl
@[simp] theorem modCore_turnq (k : Nat) (f : Core → Core) : (s.modCore k f).turnq = s.turnq := rfl
@[simp] theorem modCore_barriers (k : Nat) (f : Core → Core) : (s.modCore k f).barriers = s.barriers := rfl
@[simp] theorem modCore_dieTlb (k : Nat) (f : Core → Core) : (s.modCore k f).dieTlb = s.dieTlb := rfl
@[simp] theorem modCore_homePoison (k : Nat) (f : Core → Core) : (s.modCore k f).homePoison = s.homePoison := rfl
@[simp] theorem modCore_hostMem (k : Nat) (f : Core → Core) : (s.modCore k f).hostMem = s.hostMem := rfl
@[simp] theorem modCore_hostFails (k : Nat) (f : Core → Core) : (s.modCore k f).hostFails = s.hostFails := rfl
@[simp] theorem modCore_bus (k : Nat) (f : Core → Core) : (s.modCore k f).bus = s.bus := rfl
@[simp] theorem modCore_logPend (k : Nat) (f : Core → Core) : (s.modCore k f).logPend = s.logPend := rfl
@[simp] theorem modCore_qcount (k : Nat) (f : Core → Core) : (s.modCore k f).qcount = s.qcount := rfl
@[simp] theorem modCore_qmark (k : Nat) (f : Core → Core) : (s.modCore k f).qmark = s.qmark := rfl
@[simp] theorem modCore_cmdif (k : Nat) (f : Core → Core) : (s.modCore k f).cmdif = s.cmdif := rfl
@[simp] theorem modCore_fwStaged (k : Nat) (f : Core → Core) : (s.modCore k f).fwStaged = s.fwStaged := rfl
@[simp] theorem modCore_fwRunning (k : Nat) (f : Core → Core) : (s.modCore k f).fwRunning = s.fwRunning := rfl
@[simp] theorem modCore_fwBad (k : Nat) (f : Core → Core) : (s.modCore k f).fwBad = s.fwBad := rfl
@[simp] theorem modCore_booted (k : Nat) (f : Core → Core) : (s.modCore k f).booted = s.booted := rfl
@[simp] theorem modCore_udsLocked (k : Nat) (f : Core → Core) : (s.modCore k f).udsLocked = s.udsLocked := rfl
@[simp] theorem modCore_shared (k : Nat) (f : Core → Core) : (s.modCore k f).shared = s.shared := rfl
@[simp] theorem modCore_ideIo (k : Nat) (f : Core → Core) : (s.modCore k f).ideIo = s.ideIo := rfl
@[simp] theorem modCore_ideMem (k : Nat) (f : Core → Core) : (s.modCore k f).ideMem = s.ideMem := rfl

/-! ## `modSlice` changes `slices` only -/

@[simp] theorem modSlice_now (k : Nat) (f : Slice → Slice) : (s.modSlice k f).now = s.now := rfl
@[simp] theorem modSlice_agenda (k : Nat) (f : Slice → Slice) : (s.modSlice k f).agenda = s.agenda := rfl
@[simp] theorem modSlice_cur (k : Nat) (f : Slice → Slice) : (s.modSlice k f).cur = s.cur := rfl
@[simp] theorem modSlice_curLane (k : Nat) (f : Slice → Slice) : (s.modSlice k f).curLane = s.curLane := rfl
@[simp] theorem modSlice_free (k : Nat) (f : Slice → Slice) : (s.modSlice k f).free = s.free := rfl
@[simp] theorem modSlice_worlds (k : Nat) (f : Slice → Slice) : (s.modSlice k f).worlds = s.worlds := rfl
@[simp] theorem modSlice_launches (k : Nat) (f : Slice → Slice) : (s.modSlice k f).launches = s.launches := rfl
@[simp] theorem modSlice_nextLid (k : Nat) (f : Slice → Slice) : (s.modSlice k f).nextLid = s.nextLid := rfl
@[simp] theorem modSlice_rrWorld (k : Nat) (f : Slice → Slice) : (s.modSlice k f).rrWorld = s.rrWorld := rfl
@[simp] theorem modSlice_troupes (k : Nat) (f : Slice → Slice) : (s.modSlice k f).troupes = s.troupes := rfl
@[simp] theorem modSlice_nextTid (k : Nat) (f : Slice → Slice) : (s.modSlice k f).nextTid = s.nextTid := rfl
@[simp] theorem modSlice_groups (k : Nat) (f : Slice → Slice) : (s.modSlice k f).groups = s.groups := rfl
@[simp] theorem modSlice_cores (k : Nat) (f : Slice → Slice) : (s.modSlice k f).cores = s.cores := rfl
@[simp] theorem modSlice_keys (k : Nat) (f : Slice → Slice) : (s.modSlice k f).keys = s.keys := rfl
@[simp] theorem modSlice_keyGen (k : Nat) (f : Slice → Slice) : (s.modSlice k f).keyGen = s.keyGen := rfl
@[simp] theorem modSlice_mem (k : Nat) (f : Slice → Slice) : (s.modSlice k f).mem = s.mem := rfl
@[simp] theorem modSlice_rows (k : Nat) (f : Slice → Slice) : (s.modSlice k f).rows = s.rows := rfl
@[simp] theorem modSlice_treeBad (k : Nat) (f : Slice → Slice) : (s.modSlice k f).treeBad = s.treeBad := rfl
@[simp] theorem modSlice_treeFailed (k : Nat) (f : Slice → Slice) : (s.modSlice k f).treeFailed = s.treeFailed := rfl
@[simp] theorem modSlice_metaCache (k : Nat) (f : Slice → Slice) : (s.modSlice k f).metaCache = s.metaCache := rfl
@[simp] theorem modSlice_engineOut (k : Nat) (f : Slice → Slice) : (s.modSlice k f).engineOut = s.engineOut := rfl
@[simp] theorem modSlice_spoiled (k : Nat) (f : Slice → Slice) : (s.modSlice k f).spoiled = s.spoiled := rfl
@[simp] theorem modSlice_l2 (k : Nat) (f : Slice → Slice) : (s.modSlice k f).l2 = s.l2 := rfl
@[simp] theorem modSlice_turn (k : Nat) (f : Slice → Slice) : (s.modSlice k f).turn = s.turn := rfl
@[simp] theorem modSlice_turnUse (k : Nat) (f : Slice → Slice) : (s.modSlice k f).turnUse = s.turnUse := rfl
@[simp] theorem modSlice_turnq (k : Nat) (f : Slice → Slice) : (s.modSlice k f).turnq = s.turnq := rfl
@[simp] theorem modSlice_barriers (k : Nat) (f : Slice → Slice) : (s.modSlice k f).barriers = s.barriers := rfl
@[simp] theorem modSlice_dieTlb (k : Nat) (f : Slice → Slice) : (s.modSlice k f).dieTlb = s.dieTlb := rfl
@[simp] theorem modSlice_homePoison (k : Nat) (f : Slice → Slice) : (s.modSlice k f).homePoison = s.homePoison := rfl
@[simp] theorem modSlice_hostMem (k : Nat) (f : Slice → Slice) : (s.modSlice k f).hostMem = s.hostMem := rfl
@[simp] theorem modSlice_hostFails (k : Nat) (f : Slice → Slice) : (s.modSlice k f).hostFails = s.hostFails := rfl
@[simp] theorem modSlice_bus (k : Nat) (f : Slice → Slice) : (s.modSlice k f).bus = s.bus := rfl
@[simp] theorem modSlice_logPend (k : Nat) (f : Slice → Slice) : (s.modSlice k f).logPend = s.logPend := rfl
@[simp] theorem modSlice_qcount (k : Nat) (f : Slice → Slice) : (s.modSlice k f).qcount = s.qcount := rfl
@[simp] theorem modSlice_qmark (k : Nat) (f : Slice → Slice) : (s.modSlice k f).qmark = s.qmark := rfl
@[simp] theorem modSlice_cmdif (k : Nat) (f : Slice → Slice) : (s.modSlice k f).cmdif = s.cmdif := rfl
@[simp] theorem modSlice_fwStaged (k : Nat) (f : Slice → Slice) : (s.modSlice k f).fwStaged = s.fwStaged := rfl
@[simp] theorem modSlice_fwRunning (k : Nat) (f : Slice → Slice) : (s.modSlice k f).fwRunning = s.fwRunning := rfl
@[simp] theorem modSlice_fwBad (k : Nat) (f : Slice → Slice) : (s.modSlice k f).fwBad = s.fwBad := rfl
@[simp] theorem modSlice_booted (k : Nat) (f : Slice → Slice) : (s.modSlice k f).booted = s.booted := rfl
@[simp] theorem modSlice_udsLocked (k : Nat) (f : Slice → Slice) : (s.modSlice k f).udsLocked = s.udsLocked := rfl
@[simp] theorem modSlice_shared (k : Nat) (f : Slice → Slice) : (s.modSlice k f).shared = s.shared := rfl
@[simp] theorem modSlice_ideIo (k : Nat) (f : Slice → Slice) : (s.modSlice k f).ideIo = s.ideIo := rfl
@[simp] theorem modSlice_ideMem (k : Nat) (f : Slice → Slice) : (s.modSlice k f).ideMem = s.ideMem := rfl

/-! ## `modBdc` changes `slices` only -/

@[simp] theorem modBdc_now (k : Nat) (f : Bdc → Bdc) : (s.modBdc k f).now = s.now := rfl
@[simp] theorem modBdc_agenda (k : Nat) (f : Bdc → Bdc) : (s.modBdc k f).agenda = s.agenda := rfl
@[simp] theorem modBdc_cur (k : Nat) (f : Bdc → Bdc) : (s.modBdc k f).cur = s.cur := rfl
@[simp] theorem modBdc_curLane (k : Nat) (f : Bdc → Bdc) : (s.modBdc k f).curLane = s.curLane := rfl
@[simp] theorem modBdc_free (k : Nat) (f : Bdc → Bdc) : (s.modBdc k f).free = s.free := rfl
@[simp] theorem modBdc_worlds (k : Nat) (f : Bdc → Bdc) : (s.modBdc k f).worlds = s.worlds := rfl
@[simp] theorem modBdc_launches (k : Nat) (f : Bdc → Bdc) : (s.modBdc k f).launches = s.launches := rfl
@[simp] theorem modBdc_nextLid (k : Nat) (f : Bdc → Bdc) : (s.modBdc k f).nextLid = s.nextLid := rfl
@[simp] theorem modBdc_rrWorld (k : Nat) (f : Bdc → Bdc) : (s.modBdc k f).rrWorld = s.rrWorld := rfl
@[simp] theorem modBdc_troupes (k : Nat) (f : Bdc → Bdc) : (s.modBdc k f).troupes = s.troupes := rfl
@[simp] theorem modBdc_nextTid (k : Nat) (f : Bdc → Bdc) : (s.modBdc k f).nextTid = s.nextTid := rfl
@[simp] theorem modBdc_groups (k : Nat) (f : Bdc → Bdc) : (s.modBdc k f).groups = s.groups := rfl
@[simp] theorem modBdc_cores (k : Nat) (f : Bdc → Bdc) : (s.modBdc k f).cores = s.cores := rfl
@[simp] theorem modBdc_keys (k : Nat) (f : Bdc → Bdc) : (s.modBdc k f).keys = s.keys := rfl
@[simp] theorem modBdc_keyGen (k : Nat) (f : Bdc → Bdc) : (s.modBdc k f).keyGen = s.keyGen := rfl
@[simp] theorem modBdc_mem (k : Nat) (f : Bdc → Bdc) : (s.modBdc k f).mem = s.mem := rfl
@[simp] theorem modBdc_rows (k : Nat) (f : Bdc → Bdc) : (s.modBdc k f).rows = s.rows := rfl
@[simp] theorem modBdc_treeBad (k : Nat) (f : Bdc → Bdc) : (s.modBdc k f).treeBad = s.treeBad := rfl
@[simp] theorem modBdc_treeFailed (k : Nat) (f : Bdc → Bdc) : (s.modBdc k f).treeFailed = s.treeFailed := rfl
@[simp] theorem modBdc_metaCache (k : Nat) (f : Bdc → Bdc) : (s.modBdc k f).metaCache = s.metaCache := rfl
@[simp] theorem modBdc_engineOut (k : Nat) (f : Bdc → Bdc) : (s.modBdc k f).engineOut = s.engineOut := rfl
@[simp] theorem modBdc_spoiled (k : Nat) (f : Bdc → Bdc) : (s.modBdc k f).spoiled = s.spoiled := rfl
@[simp] theorem modBdc_l2 (k : Nat) (f : Bdc → Bdc) : (s.modBdc k f).l2 = s.l2 := rfl
@[simp] theorem modBdc_turn (k : Nat) (f : Bdc → Bdc) : (s.modBdc k f).turn = s.turn := rfl
@[simp] theorem modBdc_turnUse (k : Nat) (f : Bdc → Bdc) : (s.modBdc k f).turnUse = s.turnUse := rfl
@[simp] theorem modBdc_turnq (k : Nat) (f : Bdc → Bdc) : (s.modBdc k f).turnq = s.turnq := rfl
@[simp] theorem modBdc_barriers (k : Nat) (f : Bdc → Bdc) : (s.modBdc k f).barriers = s.barriers := rfl
@[simp] theorem modBdc_dieTlb (k : Nat) (f : Bdc → Bdc) : (s.modBdc k f).dieTlb = s.dieTlb := rfl
@[simp] theorem modBdc_homePoison (k : Nat) (f : Bdc → Bdc) : (s.modBdc k f).homePoison = s.homePoison := rfl
@[simp] theorem modBdc_hostMem (k : Nat) (f : Bdc → Bdc) : (s.modBdc k f).hostMem = s.hostMem := rfl
@[simp] theorem modBdc_hostFails (k : Nat) (f : Bdc → Bdc) : (s.modBdc k f).hostFails = s.hostFails := rfl
@[simp] theorem modBdc_bus (k : Nat) (f : Bdc → Bdc) : (s.modBdc k f).bus = s.bus := rfl
@[simp] theorem modBdc_logPend (k : Nat) (f : Bdc → Bdc) : (s.modBdc k f).logPend = s.logPend := rfl
@[simp] theorem modBdc_qcount (k : Nat) (f : Bdc → Bdc) : (s.modBdc k f).qcount = s.qcount := rfl
@[simp] theorem modBdc_qmark (k : Nat) (f : Bdc → Bdc) : (s.modBdc k f).qmark = s.qmark := rfl
@[simp] theorem modBdc_cmdif (k : Nat) (f : Bdc → Bdc) : (s.modBdc k f).cmdif = s.cmdif := rfl
@[simp] theorem modBdc_fwStaged (k : Nat) (f : Bdc → Bdc) : (s.modBdc k f).fwStaged = s.fwStaged := rfl
@[simp] theorem modBdc_fwRunning (k : Nat) (f : Bdc → Bdc) : (s.modBdc k f).fwRunning = s.fwRunning := rfl
@[simp] theorem modBdc_fwBad (k : Nat) (f : Bdc → Bdc) : (s.modBdc k f).fwBad = s.fwBad := rfl
@[simp] theorem modBdc_booted (k : Nat) (f : Bdc → Bdc) : (s.modBdc k f).booted = s.booted := rfl
@[simp] theorem modBdc_udsLocked (k : Nat) (f : Bdc → Bdc) : (s.modBdc k f).udsLocked = s.udsLocked := rfl
@[simp] theorem modBdc_shared (k : Nat) (f : Bdc → Bdc) : (s.modBdc k f).shared = s.shared := rfl
@[simp] theorem modBdc_ideIo (k : Nat) (f : Bdc → Bdc) : (s.modBdc k f).ideIo = s.ideIo := rfl
@[simp] theorem modBdc_ideMem (k : Nat) (f : Bdc → Bdc) : (s.modBdc k f).ideMem = s.ideMem := rfl

/-! ## `log` changes `logPend` only -/

@[simp] theorem log_now (w e : Nat) : (s.log w e).now = s.now := rfl
@[simp] theorem log_agenda (w e : Nat) : (s.log w e).agenda = s.agenda := rfl
@[simp] theorem log_cur (w e : Nat) : (s.log w e).cur = s.cur := rfl
@[simp] theorem log_curLane (w e : Nat) : (s.log w e).curLane = s.curLane := rfl
@[simp] theorem log_free (w e : Nat) : (s.log w e).free = s.free := rfl
@[simp] theorem log_worlds (w e : Nat) : (s.log w e).worlds = s.worlds := rfl
@[simp] theorem log_launches (w e : Nat) : (s.log w e).launches = s.launches := rfl
@[simp] theorem log_nextLid (w e : Nat) : (s.log w e).nextLid = s.nextLid := rfl
@[simp] theorem log_rrWorld (w e : Nat) : (s.log w e).rrWorld = s.rrWorld := rfl
@[simp] theorem log_troupes (w e : Nat) : (s.log w e).troupes = s.troupes := rfl
@[simp] theorem log_nextTid (w e : Nat) : (s.log w e).nextTid = s.nextTid := rfl
@[simp] theorem log_groups (w e : Nat) : (s.log w e).groups = s.groups := rfl
@[simp] theorem log_cores (w e : Nat) : (s.log w e).cores = s.cores := rfl
@[simp] theorem log_slices (w e : Nat) : (s.log w e).slices = s.slices := rfl
@[simp] theorem log_keys (w e : Nat) : (s.log w e).keys = s.keys := rfl
@[simp] theorem log_keyGen (w e : Nat) : (s.log w e).keyGen = s.keyGen := rfl
@[simp] theorem log_mem (w e : Nat) : (s.log w e).mem = s.mem := rfl
@[simp] theorem log_rows (w e : Nat) : (s.log w e).rows = s.rows := rfl
@[simp] theorem log_treeBad (w e : Nat) : (s.log w e).treeBad = s.treeBad := rfl
@[simp] theorem log_treeFailed (w e : Nat) : (s.log w e).treeFailed = s.treeFailed := rfl
@[simp] theorem log_metaCache (w e : Nat) : (s.log w e).metaCache = s.metaCache := rfl
@[simp] theorem log_engineOut (w e : Nat) : (s.log w e).engineOut = s.engineOut := rfl
@[simp] theorem log_spoiled (w e : Nat) : (s.log w e).spoiled = s.spoiled := rfl
@[simp] theorem log_l2 (w e : Nat) : (s.log w e).l2 = s.l2 := rfl
@[simp] theorem log_turn (w e : Nat) : (s.log w e).turn = s.turn := rfl
@[simp] theorem log_turnUse (w e : Nat) : (s.log w e).turnUse = s.turnUse := rfl
@[simp] theorem log_turnq (w e : Nat) : (s.log w e).turnq = s.turnq := rfl
@[simp] theorem log_barriers (w e : Nat) : (s.log w e).barriers = s.barriers := rfl
@[simp] theorem log_dieTlb (w e : Nat) : (s.log w e).dieTlb = s.dieTlb := rfl
@[simp] theorem log_homePoison (w e : Nat) : (s.log w e).homePoison = s.homePoison := rfl
@[simp] theorem log_hostMem (w e : Nat) : (s.log w e).hostMem = s.hostMem := rfl
@[simp] theorem log_hostFails (w e : Nat) : (s.log w e).hostFails = s.hostFails := rfl
@[simp] theorem log_bus (w e : Nat) : (s.log w e).bus = s.bus := rfl
@[simp] theorem log_qcount (w e : Nat) : (s.log w e).qcount = s.qcount := rfl
@[simp] theorem log_qmark (w e : Nat) : (s.log w e).qmark = s.qmark := rfl
@[simp] theorem log_cmdif (w e : Nat) : (s.log w e).cmdif = s.cmdif := rfl
@[simp] theorem log_fwStaged (w e : Nat) : (s.log w e).fwStaged = s.fwStaged := rfl
@[simp] theorem log_fwRunning (w e : Nat) : (s.log w e).fwRunning = s.fwRunning := rfl
@[simp] theorem log_fwBad (w e : Nat) : (s.log w e).fwBad = s.fwBad := rfl
@[simp] theorem log_booted (w e : Nat) : (s.log w e).booted = s.booted := rfl
@[simp] theorem log_udsLocked (w e : Nat) : (s.log w e).udsLocked = s.udsLocked := rfl
@[simp] theorem log_shared (w e : Nat) : (s.log w e).shared = s.shared := rfl
@[simp] theorem log_ideIo (w e : Nat) : (s.log w e).ideIo = s.ideIo := rfl
@[simp] theorem log_ideMem (w e : Nat) : (s.log w e).ideMem = s.ideMem := rfl

/-! ## `bumpFree` changes `free` only -/

@[simp] theorem bumpFree_now : (s.bumpFree).now = s.now := rfl
@[simp] theorem bumpFree_agenda : (s.bumpFree).agenda = s.agenda := rfl
@[simp] theorem bumpFree_cur : (s.bumpFree).cur = s.cur := rfl
@[simp] theorem bumpFree_curLane : (s.bumpFree).curLane = s.curLane := rfl
@[simp] theorem bumpFree_worlds : (s.bumpFree).worlds = s.worlds := rfl
@[simp] theorem bumpFree_launches : (s.bumpFree).launches = s.launches := rfl
@[simp] theorem bumpFree_nextLid : (s.bumpFree).nextLid = s.nextLid := rfl
@[simp] theorem bumpFree_rrWorld : (s.bumpFree).rrWorld = s.rrWorld := rfl
@[simp] theorem bumpFree_troupes : (s.bumpFree).troupes = s.troupes := rfl
@[simp] theorem bumpFree_nextTid : (s.bumpFree).nextTid = s.nextTid := rfl
@[simp] theorem bumpFree_groups : (s.bumpFree).groups = s.groups := rfl
@[simp] theorem bumpFree_cores : (s.bumpFree).cores = s.cores := rfl
@[simp] theorem bumpFree_slices : (s.bumpFree).slices = s.slices := rfl
@[simp] theorem bumpFree_keys : (s.bumpFree).keys = s.keys := rfl
@[simp] theorem bumpFree_keyGen : (s.bumpFree).keyGen = s.keyGen := rfl
@[simp] theorem bumpFree_mem : (s.bumpFree).mem = s.mem := rfl
@[simp] theorem bumpFree_rows : (s.bumpFree).rows = s.rows := rfl
@[simp] theorem bumpFree_treeBad : (s.bumpFree).treeBad = s.treeBad := rfl
@[simp] theorem bumpFree_treeFailed : (s.bumpFree).treeFailed = s.treeFailed := rfl
@[simp] theorem bumpFree_metaCache : (s.bumpFree).metaCache = s.metaCache := rfl
@[simp] theorem bumpFree_engineOut : (s.bumpFree).engineOut = s.engineOut := rfl
@[simp] theorem bumpFree_spoiled : (s.bumpFree).spoiled = s.spoiled := rfl
@[simp] theorem bumpFree_l2 : (s.bumpFree).l2 = s.l2 := rfl
@[simp] theorem bumpFree_turn : (s.bumpFree).turn = s.turn := rfl
@[simp] theorem bumpFree_turnUse : (s.bumpFree).turnUse = s.turnUse := rfl
@[simp] theorem bumpFree_turnq : (s.bumpFree).turnq = s.turnq := rfl
@[simp] theorem bumpFree_barriers : (s.bumpFree).barriers = s.barriers := rfl
@[simp] theorem bumpFree_dieTlb : (s.bumpFree).dieTlb = s.dieTlb := rfl
@[simp] theorem bumpFree_homePoison : (s.bumpFree).homePoison = s.homePoison := rfl
@[simp] theorem bumpFree_hostMem : (s.bumpFree).hostMem = s.hostMem := rfl
@[simp] theorem bumpFree_hostFails : (s.bumpFree).hostFails = s.hostFails := rfl
@[simp] theorem bumpFree_bus : (s.bumpFree).bus = s.bus := rfl
@[simp] theorem bumpFree_logPend : (s.bumpFree).logPend = s.logPend := rfl
@[simp] theorem bumpFree_qcount : (s.bumpFree).qcount = s.qcount := rfl
@[simp] theorem bumpFree_qmark : (s.bumpFree).qmark = s.qmark := rfl
@[simp] theorem bumpFree_cmdif : (s.bumpFree).cmdif = s.cmdif := rfl
@[simp] theorem bumpFree_fwStaged : (s.bumpFree).fwStaged = s.fwStaged := rfl
@[simp] theorem bumpFree_fwRunning : (s.bumpFree).fwRunning = s.fwRunning := rfl
@[simp] theorem bumpFree_fwBad : (s.bumpFree).fwBad = s.fwBad := rfl
@[simp] theorem bumpFree_booted : (s.bumpFree).booted = s.booted := rfl
@[simp] theorem bumpFree_udsLocked : (s.bumpFree).udsLocked = s.udsLocked := rfl
@[simp] theorem bumpFree_shared : (s.bumpFree).shared = s.shared := rfl
@[simp] theorem bumpFree_ideIo : (s.bumpFree).ideIo = s.ideIo := rfl
@[simp] theorem bumpFree_ideMem : (s.bumpFree).ideMem = s.ideMem := rfl

/-! ## `setSreg` changes a group or a base-die core only -/

@[simp] theorem setSreg_now (a : Agent) (r : Nat) (v : Word64) : (s.setSreg a r v).now = s.now := by by_cases h : r = 0 <;> cases a <;> simp [State.setSreg, h]
@[simp] theorem setSreg_agenda (a : Agent) (r : Nat) (v : Word64) : (s.setSreg a r v).agenda = s.agenda := by by_cases h : r = 0 <;> cases a <;> simp [State.setSreg, h]
@[simp] theorem setSreg_cur (a : Agent) (r : Nat) (v : Word64) : (s.setSreg a r v).cur = s.cur := by by_cases h : r = 0 <;> cases a <;> simp [State.setSreg, h]
@[simp] theorem setSreg_curLane (a : Agent) (r : Nat) (v : Word64) : (s.setSreg a r v).curLane = s.curLane := by by_cases h : r = 0 <;> cases a <;> simp [State.setSreg, h]
@[simp] theorem setSreg_free (a : Agent) (r : Nat) (v : Word64) : (s.setSreg a r v).free = s.free := by by_cases h : r = 0 <;> cases a <;> simp [State.setSreg, h]
@[simp] theorem setSreg_worlds (a : Agent) (r : Nat) (v : Word64) : (s.setSreg a r v).worlds = s.worlds := by by_cases h : r = 0 <;> cases a <;> simp [State.setSreg, h]
@[simp] theorem setSreg_launches (a : Agent) (r : Nat) (v : Word64) : (s.setSreg a r v).launches = s.launches := by by_cases h : r = 0 <;> cases a <;> simp [State.setSreg, h]
@[simp] theorem setSreg_nextLid (a : Agent) (r : Nat) (v : Word64) : (s.setSreg a r v).nextLid = s.nextLid := by by_cases h : r = 0 <;> cases a <;> simp [State.setSreg, h]
@[simp] theorem setSreg_rrWorld (a : Agent) (r : Nat) (v : Word64) : (s.setSreg a r v).rrWorld = s.rrWorld := by by_cases h : r = 0 <;> cases a <;> simp [State.setSreg, h]
@[simp] theorem setSreg_troupes (a : Agent) (r : Nat) (v : Word64) : (s.setSreg a r v).troupes = s.troupes := by by_cases h : r = 0 <;> cases a <;> simp [State.setSreg, h]
@[simp] theorem setSreg_nextTid (a : Agent) (r : Nat) (v : Word64) : (s.setSreg a r v).nextTid = s.nextTid := by by_cases h : r = 0 <;> cases a <;> simp [State.setSreg, h]
@[simp] theorem setSreg_cores (a : Agent) (r : Nat) (v : Word64) : (s.setSreg a r v).cores = s.cores := by by_cases h : r = 0 <;> cases a <;> simp [State.setSreg, h]
@[simp] theorem setSreg_keys (a : Agent) (r : Nat) (v : Word64) : (s.setSreg a r v).keys = s.keys := by by_cases h : r = 0 <;> cases a <;> simp [State.setSreg, h]
@[simp] theorem setSreg_keyGen (a : Agent) (r : Nat) (v : Word64) : (s.setSreg a r v).keyGen = s.keyGen := by by_cases h : r = 0 <;> cases a <;> simp [State.setSreg, h]
@[simp] theorem setSreg_mem (a : Agent) (r : Nat) (v : Word64) : (s.setSreg a r v).mem = s.mem := by by_cases h : r = 0 <;> cases a <;> simp [State.setSreg, h]
@[simp] theorem setSreg_rows (a : Agent) (r : Nat) (v : Word64) : (s.setSreg a r v).rows = s.rows := by by_cases h : r = 0 <;> cases a <;> simp [State.setSreg, h]
@[simp] theorem setSreg_treeBad (a : Agent) (r : Nat) (v : Word64) : (s.setSreg a r v).treeBad = s.treeBad := by by_cases h : r = 0 <;> cases a <;> simp [State.setSreg, h]
@[simp] theorem setSreg_treeFailed (a : Agent) (r : Nat) (v : Word64) : (s.setSreg a r v).treeFailed = s.treeFailed := by by_cases h : r = 0 <;> cases a <;> simp [State.setSreg, h]
@[simp] theorem setSreg_metaCache (a : Agent) (r : Nat) (v : Word64) : (s.setSreg a r v).metaCache = s.metaCache := by by_cases h : r = 0 <;> cases a <;> simp [State.setSreg, h]
@[simp] theorem setSreg_engineOut (a : Agent) (r : Nat) (v : Word64) : (s.setSreg a r v).engineOut = s.engineOut := by by_cases h : r = 0 <;> cases a <;> simp [State.setSreg, h]
@[simp] theorem setSreg_spoiled (a : Agent) (r : Nat) (v : Word64) : (s.setSreg a r v).spoiled = s.spoiled := by by_cases h : r = 0 <;> cases a <;> simp [State.setSreg, h]
@[simp] theorem setSreg_l2 (a : Agent) (r : Nat) (v : Word64) : (s.setSreg a r v).l2 = s.l2 := by by_cases h : r = 0 <;> cases a <;> simp [State.setSreg, h]
@[simp] theorem setSreg_turn (a : Agent) (r : Nat) (v : Word64) : (s.setSreg a r v).turn = s.turn := by by_cases h : r = 0 <;> cases a <;> simp [State.setSreg, h]
@[simp] theorem setSreg_turnUse (a : Agent) (r : Nat) (v : Word64) : (s.setSreg a r v).turnUse = s.turnUse := by by_cases h : r = 0 <;> cases a <;> simp [State.setSreg, h]
@[simp] theorem setSreg_turnq (a : Agent) (r : Nat) (v : Word64) : (s.setSreg a r v).turnq = s.turnq := by by_cases h : r = 0 <;> cases a <;> simp [State.setSreg, h]
@[simp] theorem setSreg_barriers (a : Agent) (r : Nat) (v : Word64) : (s.setSreg a r v).barriers = s.barriers := by by_cases h : r = 0 <;> cases a <;> simp [State.setSreg, h]
@[simp] theorem setSreg_dieTlb (a : Agent) (r : Nat) (v : Word64) : (s.setSreg a r v).dieTlb = s.dieTlb := by by_cases h : r = 0 <;> cases a <;> simp [State.setSreg, h]
@[simp] theorem setSreg_homePoison (a : Agent) (r : Nat) (v : Word64) : (s.setSreg a r v).homePoison = s.homePoison := by by_cases h : r = 0 <;> cases a <;> simp [State.setSreg, h]
@[simp] theorem setSreg_hostMem (a : Agent) (r : Nat) (v : Word64) : (s.setSreg a r v).hostMem = s.hostMem := by by_cases h : r = 0 <;> cases a <;> simp [State.setSreg, h]
@[simp] theorem setSreg_hostFails (a : Agent) (r : Nat) (v : Word64) : (s.setSreg a r v).hostFails = s.hostFails := by by_cases h : r = 0 <;> cases a <;> simp [State.setSreg, h]
@[simp] theorem setSreg_bus (a : Agent) (r : Nat) (v : Word64) : (s.setSreg a r v).bus = s.bus := by by_cases h : r = 0 <;> cases a <;> simp [State.setSreg, h]
@[simp] theorem setSreg_logPend (a : Agent) (r : Nat) (v : Word64) : (s.setSreg a r v).logPend = s.logPend := by by_cases h : r = 0 <;> cases a <;> simp [State.setSreg, h]
@[simp] theorem setSreg_qcount (a : Agent) (r : Nat) (v : Word64) : (s.setSreg a r v).qcount = s.qcount := by by_cases h : r = 0 <;> cases a <;> simp [State.setSreg, h]
@[simp] theorem setSreg_qmark (a : Agent) (r : Nat) (v : Word64) : (s.setSreg a r v).qmark = s.qmark := by by_cases h : r = 0 <;> cases a <;> simp [State.setSreg, h]
@[simp] theorem setSreg_cmdif (a : Agent) (r : Nat) (v : Word64) : (s.setSreg a r v).cmdif = s.cmdif := by by_cases h : r = 0 <;> cases a <;> simp [State.setSreg, h]
@[simp] theorem setSreg_fwStaged (a : Agent) (r : Nat) (v : Word64) : (s.setSreg a r v).fwStaged = s.fwStaged := by by_cases h : r = 0 <;> cases a <;> simp [State.setSreg, h]
@[simp] theorem setSreg_fwRunning (a : Agent) (r : Nat) (v : Word64) : (s.setSreg a r v).fwRunning = s.fwRunning := by by_cases h : r = 0 <;> cases a <;> simp [State.setSreg, h]
@[simp] theorem setSreg_fwBad (a : Agent) (r : Nat) (v : Word64) : (s.setSreg a r v).fwBad = s.fwBad := by by_cases h : r = 0 <;> cases a <;> simp [State.setSreg, h]
@[simp] theorem setSreg_booted (a : Agent) (r : Nat) (v : Word64) : (s.setSreg a r v).booted = s.booted := by by_cases h : r = 0 <;> cases a <;> simp [State.setSreg, h]
@[simp] theorem setSreg_udsLocked (a : Agent) (r : Nat) (v : Word64) : (s.setSreg a r v).udsLocked = s.udsLocked := by by_cases h : r = 0 <;> cases a <;> simp [State.setSreg, h]
@[simp] theorem setSreg_shared (a : Agent) (r : Nat) (v : Word64) : (s.setSreg a r v).shared = s.shared := by by_cases h : r = 0 <;> cases a <;> simp [State.setSreg, h]
@[simp] theorem setSreg_ideIo (a : Agent) (r : Nat) (v : Word64) : (s.setSreg a r v).ideIo = s.ideIo := by by_cases h : r = 0 <;> cases a <;> simp [State.setSreg, h]
@[simp] theorem setSreg_ideMem (a : Agent) (r : Nat) (v : Word64) : (s.setSreg a r v).ideMem = s.ideMem := by by_cases h : r = 0 <;> cases a <;> simp [State.setSreg, h]

/-! ## `setPc` changes a group or a base-die core only -/

@[simp] theorem setPc_now (a : Agent) (n : Nat) : (s.setPc a n).now = s.now := by cases a <;> rfl
@[simp] theorem setPc_agenda (a : Agent) (n : Nat) : (s.setPc a n).agenda = s.agenda := by cases a <;> rfl
@[simp] theorem setPc_cur (a : Agent) (n : Nat) : (s.setPc a n).cur = s.cur := by cases a <;> rfl
@[simp] theorem setPc_curLane (a : Agent) (n : Nat) : (s.setPc a n).curLane = s.curLane := by cases a <;> rfl
@[simp] theorem setPc_free (a : Agent) (n : Nat) : (s.setPc a n).free = s.free := by cases a <;> rfl
@[simp] theorem setPc_worlds (a : Agent) (n : Nat) : (s.setPc a n).worlds = s.worlds := by cases a <;> rfl
@[simp] theorem setPc_launches (a : Agent) (n : Nat) : (s.setPc a n).launches = s.launches := by cases a <;> rfl
@[simp] theorem setPc_nextLid (a : Agent) (n : Nat) : (s.setPc a n).nextLid = s.nextLid := by cases a <;> rfl
@[simp] theorem setPc_rrWorld (a : Agent) (n : Nat) : (s.setPc a n).rrWorld = s.rrWorld := by cases a <;> rfl
@[simp] theorem setPc_troupes (a : Agent) (n : Nat) : (s.setPc a n).troupes = s.troupes := by cases a <;> rfl
@[simp] theorem setPc_nextTid (a : Agent) (n : Nat) : (s.setPc a n).nextTid = s.nextTid := by cases a <;> rfl
@[simp] theorem setPc_cores (a : Agent) (n : Nat) : (s.setPc a n).cores = s.cores := by cases a <;> rfl
@[simp] theorem setPc_keys (a : Agent) (n : Nat) : (s.setPc a n).keys = s.keys := by cases a <;> rfl
@[simp] theorem setPc_keyGen (a : Agent) (n : Nat) : (s.setPc a n).keyGen = s.keyGen := by cases a <;> rfl
@[simp] theorem setPc_mem (a : Agent) (n : Nat) : (s.setPc a n).mem = s.mem := by cases a <;> rfl
@[simp] theorem setPc_rows (a : Agent) (n : Nat) : (s.setPc a n).rows = s.rows := by cases a <;> rfl
@[simp] theorem setPc_treeBad (a : Agent) (n : Nat) : (s.setPc a n).treeBad = s.treeBad := by cases a <;> rfl
@[simp] theorem setPc_treeFailed (a : Agent) (n : Nat) : (s.setPc a n).treeFailed = s.treeFailed := by cases a <;> rfl
@[simp] theorem setPc_metaCache (a : Agent) (n : Nat) : (s.setPc a n).metaCache = s.metaCache := by cases a <;> rfl
@[simp] theorem setPc_engineOut (a : Agent) (n : Nat) : (s.setPc a n).engineOut = s.engineOut := by cases a <;> rfl
@[simp] theorem setPc_spoiled (a : Agent) (n : Nat) : (s.setPc a n).spoiled = s.spoiled := by cases a <;> rfl
@[simp] theorem setPc_l2 (a : Agent) (n : Nat) : (s.setPc a n).l2 = s.l2 := by cases a <;> rfl
@[simp] theorem setPc_turn (a : Agent) (n : Nat) : (s.setPc a n).turn = s.turn := by cases a <;> rfl
@[simp] theorem setPc_turnUse (a : Agent) (n : Nat) : (s.setPc a n).turnUse = s.turnUse := by cases a <;> rfl
@[simp] theorem setPc_turnq (a : Agent) (n : Nat) : (s.setPc a n).turnq = s.turnq := by cases a <;> rfl
@[simp] theorem setPc_barriers (a : Agent) (n : Nat) : (s.setPc a n).barriers = s.barriers := by cases a <;> rfl
@[simp] theorem setPc_dieTlb (a : Agent) (n : Nat) : (s.setPc a n).dieTlb = s.dieTlb := by cases a <;> rfl
@[simp] theorem setPc_homePoison (a : Agent) (n : Nat) : (s.setPc a n).homePoison = s.homePoison := by cases a <;> rfl
@[simp] theorem setPc_hostMem (a : Agent) (n : Nat) : (s.setPc a n).hostMem = s.hostMem := by cases a <;> rfl
@[simp] theorem setPc_hostFails (a : Agent) (n : Nat) : (s.setPc a n).hostFails = s.hostFails := by cases a <;> rfl
@[simp] theorem setPc_bus (a : Agent) (n : Nat) : (s.setPc a n).bus = s.bus := by cases a <;> rfl
@[simp] theorem setPc_logPend (a : Agent) (n : Nat) : (s.setPc a n).logPend = s.logPend := by cases a <;> rfl
@[simp] theorem setPc_qcount (a : Agent) (n : Nat) : (s.setPc a n).qcount = s.qcount := by cases a <;> rfl
@[simp] theorem setPc_qmark (a : Agent) (n : Nat) : (s.setPc a n).qmark = s.qmark := by cases a <;> rfl
@[simp] theorem setPc_cmdif (a : Agent) (n : Nat) : (s.setPc a n).cmdif = s.cmdif := by cases a <;> rfl
@[simp] theorem setPc_fwStaged (a : Agent) (n : Nat) : (s.setPc a n).fwStaged = s.fwStaged := by cases a <;> rfl
@[simp] theorem setPc_fwRunning (a : Agent) (n : Nat) : (s.setPc a n).fwRunning = s.fwRunning := by cases a <;> rfl
@[simp] theorem setPc_fwBad (a : Agent) (n : Nat) : (s.setPc a n).fwBad = s.fwBad := by cases a <;> rfl
@[simp] theorem setPc_booted (a : Agent) (n : Nat) : (s.setPc a n).booted = s.booted := by cases a <;> rfl
@[simp] theorem setPc_udsLocked (a : Agent) (n : Nat) : (s.setPc a n).udsLocked = s.udsLocked := by cases a <;> rfl
@[simp] theorem setPc_shared (a : Agent) (n : Nat) : (s.setPc a n).shared = s.shared := by cases a <;> rfl
@[simp] theorem setPc_ideIo (a : Agent) (n : Nat) : (s.setPc a n).ideIo = s.ideIo := by cases a <;> rfl
@[simp] theorem setPc_ideMem (a : Agent) (n : Nat) : (s.setPc a n).ideMem = s.ideMem := by cases a <;> rfl

/-! ## `advance` changes a group or a base-die core only -/

@[simp] theorem advance_now (a : Agent) : (s.advance a).now = s.now := by cases a <;> rfl
@[simp] theorem advance_agenda (a : Agent) : (s.advance a).agenda = s.agenda := by cases a <;> rfl
@[simp] theorem advance_cur (a : Agent) : (s.advance a).cur = s.cur := by cases a <;> rfl
@[simp] theorem advance_curLane (a : Agent) : (s.advance a).curLane = s.curLane := by cases a <;> rfl
@[simp] theorem advance_free (a : Agent) : (s.advance a).free = s.free := by cases a <;> rfl
@[simp] theorem advance_worlds (a : Agent) : (s.advance a).worlds = s.worlds := by cases a <;> rfl
@[simp] theorem advance_launches (a : Agent) : (s.advance a).launches = s.launches := by cases a <;> rfl
@[simp] theorem advance_nextLid (a : Agent) : (s.advance a).nextLid = s.nextLid := by cases a <;> rfl
@[simp] theorem advance_rrWorld (a : Agent) : (s.advance a).rrWorld = s.rrWorld := by cases a <;> rfl
@[simp] theorem advance_troupes (a : Agent) : (s.advance a).troupes = s.troupes := by cases a <;> rfl
@[simp] theorem advance_nextTid (a : Agent) : (s.advance a).nextTid = s.nextTid := by cases a <;> rfl
@[simp] theorem advance_cores (a : Agent) : (s.advance a).cores = s.cores := by cases a <;> rfl
@[simp] theorem advance_keys (a : Agent) : (s.advance a).keys = s.keys := by cases a <;> rfl
@[simp] theorem advance_keyGen (a : Agent) : (s.advance a).keyGen = s.keyGen := by cases a <;> rfl
@[simp] theorem advance_mem (a : Agent) : (s.advance a).mem = s.mem := by cases a <;> rfl
@[simp] theorem advance_rows (a : Agent) : (s.advance a).rows = s.rows := by cases a <;> rfl
@[simp] theorem advance_treeBad (a : Agent) : (s.advance a).treeBad = s.treeBad := by cases a <;> rfl
@[simp] theorem advance_treeFailed (a : Agent) : (s.advance a).treeFailed = s.treeFailed := by cases a <;> rfl
@[simp] theorem advance_metaCache (a : Agent) : (s.advance a).metaCache = s.metaCache := by cases a <;> rfl
@[simp] theorem advance_engineOut (a : Agent) : (s.advance a).engineOut = s.engineOut := by cases a <;> rfl
@[simp] theorem advance_spoiled (a : Agent) : (s.advance a).spoiled = s.spoiled := by cases a <;> rfl
@[simp] theorem advance_l2 (a : Agent) : (s.advance a).l2 = s.l2 := by cases a <;> rfl
@[simp] theorem advance_turn (a : Agent) : (s.advance a).turn = s.turn := by cases a <;> rfl
@[simp] theorem advance_turnUse (a : Agent) : (s.advance a).turnUse = s.turnUse := by cases a <;> rfl
@[simp] theorem advance_turnq (a : Agent) : (s.advance a).turnq = s.turnq := by cases a <;> rfl
@[simp] theorem advance_barriers (a : Agent) : (s.advance a).barriers = s.barriers := by cases a <;> rfl
@[simp] theorem advance_dieTlb (a : Agent) : (s.advance a).dieTlb = s.dieTlb := by cases a <;> rfl
@[simp] theorem advance_homePoison (a : Agent) : (s.advance a).homePoison = s.homePoison := by cases a <;> rfl
@[simp] theorem advance_hostMem (a : Agent) : (s.advance a).hostMem = s.hostMem := by cases a <;> rfl
@[simp] theorem advance_hostFails (a : Agent) : (s.advance a).hostFails = s.hostFails := by cases a <;> rfl
@[simp] theorem advance_bus (a : Agent) : (s.advance a).bus = s.bus := by cases a <;> rfl
@[simp] theorem advance_logPend (a : Agent) : (s.advance a).logPend = s.logPend := by cases a <;> rfl
@[simp] theorem advance_qcount (a : Agent) : (s.advance a).qcount = s.qcount := by cases a <;> rfl
@[simp] theorem advance_qmark (a : Agent) : (s.advance a).qmark = s.qmark := by cases a <;> rfl
@[simp] theorem advance_cmdif (a : Agent) : (s.advance a).cmdif = s.cmdif := by cases a <;> rfl
@[simp] theorem advance_fwStaged (a : Agent) : (s.advance a).fwStaged = s.fwStaged := by cases a <;> rfl
@[simp] theorem advance_fwRunning (a : Agent) : (s.advance a).fwRunning = s.fwRunning := by cases a <;> rfl
@[simp] theorem advance_fwBad (a : Agent) : (s.advance a).fwBad = s.fwBad := by cases a <;> rfl
@[simp] theorem advance_booted (a : Agent) : (s.advance a).booted = s.booted := by cases a <;> rfl
@[simp] theorem advance_udsLocked (a : Agent) : (s.advance a).udsLocked = s.udsLocked := by cases a <;> rfl
@[simp] theorem advance_shared (a : Agent) : (s.advance a).shared = s.shared := by cases a <;> rfl
@[simp] theorem advance_ideIo (a : Agent) : (s.advance a).ideIo = s.ideIo := by cases a <;> rfl
@[simp] theorem advance_ideMem (a : Agent) : (s.advance a).ideMem = s.ideMem := by cases a <;> rfl

/-! ## `waits` changes a group or a base-die core only -/

@[simp] theorem waits_now (a : Agent) (w : WaitOn) : (s.waits a w).now = s.now := by cases a <;> rfl
@[simp] theorem waits_agenda (a : Agent) (w : WaitOn) : (s.waits a w).agenda = s.agenda := by cases a <;> rfl
@[simp] theorem waits_cur (a : Agent) (w : WaitOn) : (s.waits a w).cur = s.cur := by cases a <;> rfl
@[simp] theorem waits_curLane (a : Agent) (w : WaitOn) : (s.waits a w).curLane = s.curLane := by cases a <;> rfl
@[simp] theorem waits_free (a : Agent) (w : WaitOn) : (s.waits a w).free = s.free := by cases a <;> rfl
@[simp] theorem waits_worlds (a : Agent) (w : WaitOn) : (s.waits a w).worlds = s.worlds := by cases a <;> rfl
@[simp] theorem waits_launches (a : Agent) (w : WaitOn) : (s.waits a w).launches = s.launches := by cases a <;> rfl
@[simp] theorem waits_nextLid (a : Agent) (w : WaitOn) : (s.waits a w).nextLid = s.nextLid := by cases a <;> rfl
@[simp] theorem waits_rrWorld (a : Agent) (w : WaitOn) : (s.waits a w).rrWorld = s.rrWorld := by cases a <;> rfl
@[simp] theorem waits_troupes (a : Agent) (w : WaitOn) : (s.waits a w).troupes = s.troupes := by cases a <;> rfl
@[simp] theorem waits_nextTid (a : Agent) (w : WaitOn) : (s.waits a w).nextTid = s.nextTid := by cases a <;> rfl
@[simp] theorem waits_cores (a : Agent) (w : WaitOn) : (s.waits a w).cores = s.cores := by cases a <;> rfl
@[simp] theorem waits_keys (a : Agent) (w : WaitOn) : (s.waits a w).keys = s.keys := by cases a <;> rfl
@[simp] theorem waits_keyGen (a : Agent) (w : WaitOn) : (s.waits a w).keyGen = s.keyGen := by cases a <;> rfl
@[simp] theorem waits_mem (a : Agent) (w : WaitOn) : (s.waits a w).mem = s.mem := by cases a <;> rfl
@[simp] theorem waits_rows (a : Agent) (w : WaitOn) : (s.waits a w).rows = s.rows := by cases a <;> rfl
@[simp] theorem waits_treeBad (a : Agent) (w : WaitOn) : (s.waits a w).treeBad = s.treeBad := by cases a <;> rfl
@[simp] theorem waits_treeFailed (a : Agent) (w : WaitOn) : (s.waits a w).treeFailed = s.treeFailed := by cases a <;> rfl
@[simp] theorem waits_metaCache (a : Agent) (w : WaitOn) : (s.waits a w).metaCache = s.metaCache := by cases a <;> rfl
@[simp] theorem waits_engineOut (a : Agent) (w : WaitOn) : (s.waits a w).engineOut = s.engineOut := by cases a <;> rfl
@[simp] theorem waits_spoiled (a : Agent) (w : WaitOn) : (s.waits a w).spoiled = s.spoiled := by cases a <;> rfl
@[simp] theorem waits_l2 (a : Agent) (w : WaitOn) : (s.waits a w).l2 = s.l2 := by cases a <;> rfl
@[simp] theorem waits_turn (a : Agent) (w : WaitOn) : (s.waits a w).turn = s.turn := by cases a <;> rfl
@[simp] theorem waits_turnUse (a : Agent) (w : WaitOn) : (s.waits a w).turnUse = s.turnUse := by cases a <;> rfl
@[simp] theorem waits_turnq (a : Agent) (w : WaitOn) : (s.waits a w).turnq = s.turnq := by cases a <;> rfl
@[simp] theorem waits_barriers (a : Agent) (w : WaitOn) : (s.waits a w).barriers = s.barriers := by cases a <;> rfl
@[simp] theorem waits_dieTlb (a : Agent) (w : WaitOn) : (s.waits a w).dieTlb = s.dieTlb := by cases a <;> rfl
@[simp] theorem waits_homePoison (a : Agent) (w : WaitOn) : (s.waits a w).homePoison = s.homePoison := by cases a <;> rfl
@[simp] theorem waits_hostMem (a : Agent) (w : WaitOn) : (s.waits a w).hostMem = s.hostMem := by cases a <;> rfl
@[simp] theorem waits_hostFails (a : Agent) (w : WaitOn) : (s.waits a w).hostFails = s.hostFails := by cases a <;> rfl
@[simp] theorem waits_bus (a : Agent) (w : WaitOn) : (s.waits a w).bus = s.bus := by cases a <;> rfl
@[simp] theorem waits_logPend (a : Agent) (w : WaitOn) : (s.waits a w).logPend = s.logPend := by cases a <;> rfl
@[simp] theorem waits_qcount (a : Agent) (w : WaitOn) : (s.waits a w).qcount = s.qcount := by cases a <;> rfl
@[simp] theorem waits_qmark (a : Agent) (w : WaitOn) : (s.waits a w).qmark = s.qmark := by cases a <;> rfl
@[simp] theorem waits_cmdif (a : Agent) (w : WaitOn) : (s.waits a w).cmdif = s.cmdif := by cases a <;> rfl
@[simp] theorem waits_fwStaged (a : Agent) (w : WaitOn) : (s.waits a w).fwStaged = s.fwStaged := by cases a <;> rfl
@[simp] theorem waits_fwRunning (a : Agent) (w : WaitOn) : (s.waits a w).fwRunning = s.fwRunning := by cases a <;> rfl
@[simp] theorem waits_fwBad (a : Agent) (w : WaitOn) : (s.waits a w).fwBad = s.fwBad := by cases a <;> rfl
@[simp] theorem waits_booted (a : Agent) (w : WaitOn) : (s.waits a w).booted = s.booted := by cases a <;> rfl
@[simp] theorem waits_udsLocked (a : Agent) (w : WaitOn) : (s.waits a w).udsLocked = s.udsLocked := by cases a <;> rfl
@[simp] theorem waits_shared (a : Agent) (w : WaitOn) : (s.waits a w).shared = s.shared := by cases a <;> rfl
@[simp] theorem waits_ideIo (a : Agent) (w : WaitOn) : (s.waits a w).ideIo = s.ideIo := by cases a <;> rfl
@[simp] theorem waits_ideMem (a : Agent) (w : WaitOn) : (s.waits a w).ideMem = s.ideMem := by cases a <;> rfl

end Sys2Proof.Machine
end

