-- ==== Sys2Proof/Laws/Tab.lean ====
section
/-! SUPPORT. Reading a sparse table after a change, and that `tabSet` keeps a table canonical. -/

namespace Sys2Proof.Machine

variable {α : Type}

/-! ## Reading after a change -/

@[simp] theorem tabFind_nil (k : Nat) : tabFind ([] : Tab α) k = none := rfl

@[simp] theorem tabGet_nil (d : α) (k : Nat) : tabGet d [] k = d := rfl

theorem tabFind_tabPut (t : Tab α) (k : Nat) (v : α) (j : Nat) :
    tabFind (tabPut t k v) j = if j = k then some v else tabFind t j := by
  induction t with
  | nil => simp [tabPut, tabFind]
  | cons p t ih =>
    obtain ⟨a, x⟩ := p
    unfold tabPut
    split
    · subst_vars; simp only [tabFind]; split <;> rfl
    · split
      · simp [tabFind]
      · simp only [tabFind, ih]
        split
        · subst_vars; rw [if_neg]; omega
        · rfl

@[simp] theorem tabFind_tabPut_same (t : Tab α) (k : Nat) (v : α) : tabFind (tabPut t k v) k = some v := by
  simp [tabFind_tabPut]

@[simp] theorem tabFind_tabPut_ne (t : Tab α) {k j : Nat} (v : α) (h : j ≠ k) :
    tabFind (tabPut t k v) j = tabFind t j := by
  simp [tabFind_tabPut, h]

theorem tabFind_tabDel (t : Tab α) (k j : Nat) : tabFind (tabDel t k) j = if j = k then none else tabFind t j := by
  induction t with
  | nil => simp [tabDel, tabFind]
  | cons p t ih =>
    obtain ⟨a, x⟩ := p
    simp only [tabDel, List.filter_cons] at ih ⊢
    by_cases h : a = k
    · subst h; simp only [bne_self_eq_false, Bool.false_eq_true, if_false, ih, tabFind]
      split <;> simp_all
    · simp only [bne_iff_ne, ne_eq, h, not_false_eq_true, if_true, tabFind, ih]
      by_cases hj : j = a
      · subst hj; simp [h]
      · simp [hj]

theorem tabFind_tabSet [DecidableEq α] (d : α) (t : Tab α) (k : Nat) (v : α) (j : Nat) :
    tabFind (tabSet d t k v) j = if j = k then (if v = d then none else some v) else tabFind t j := by
  unfold tabSet
  by_cases h : v = d <;> by_cases hj : j = k <;> simp [h, hj, tabFind_tabDel]

theorem tabGet_tabSet [DecidableEq α] (d : α) (t : Tab α) (k : Nat) (v : α) (j : Nat) :
    tabGet d (tabSet d t k v) j = if j = k then v else tabGet d t j := by
  unfold tabGet
  rw [tabFind_tabSet]
  by_cases hj : j = k
  · by_cases h : v = d <;> simp [hj, h]
  · simp [hj]

@[simp] theorem tabGet_tabSet_same [DecidableEq α] (d : α) (t : Tab α) (k : Nat) (v : α) :
    tabGet d (tabSet d t k v) k = v := by
  simp [tabGet_tabSet]

@[simp] theorem tabGet_tabSet_ne [DecidableEq α] (d : α) (t : Tab α) {k j : Nat} (v : α) (h : j ≠ k) :
    tabGet d (tabSet d t k v) j = tabGet d t j := by
  simp [tabGet_tabSet, h]

theorem tabFind_tabModify (t : Tab α) (k : Nat) (f : α → α) (j : Nat) :
    tabFind (tabModify t k f) j = if j = k then (tabFind t k).map f else tabFind t j := by
  unfold tabModify
  cases h : tabFind t k with
  | none =>
    by_cases hj : j = k
    · subst hj; simp [h]
    · simp [hj]
  | some x => by_cases hj : j = k <;> simp [hj]

@[simp] theorem isSome_tabFind_tabModify (t : Tab α) (k : Nat) (f : α → α) (j : Nat) :
    (tabFind (tabModify t k f) j).isSome = (tabFind t j).isSome := by
  rw [tabFind_tabModify]
  by_cases hj : j = k <;> simp [hj]

/-- Of two settings of one key the second stands, unless the first lists nothing. -/
theorem tabPut_tabPut (t : Tab α) (k : Nat) (v v' : α) : tabPut (tabPut t k v) k v' = tabPut t k v' := by
  induction t with
  | nil => simp [tabPut]
  | cons q t ih =>
    obtain ⟨a, x⟩ := q
    by_cases h : k = a
    · simp [tabPut, h]
    · by_cases h' : k < a
      · simp [tabPut, h, h']
      · simp [tabPut, h, h', ih]

theorem tabDel_tabPut (t : Tab α) (k : Nat) (v : α) : tabDel (tabPut t k v) k = tabDel t k := by
  induction t with
  | nil => simp [tabPut, tabDel]
  | cons q t ih =>
    obtain ⟨a, x⟩ := q
    unfold tabDel at ih ⊢
    by_cases h : k = a
    · simp [tabPut, h]
    · by_cases h' : k < a
      · simp [tabPut, h, h']
      · simp [tabPut, h, h', List.filter_cons, ih]

theorem tabSet_tabSet [DecidableEq α] (d : α) (t : Tab α) (k : Nat) (v v' : α) (h : v ≠ d) :
    tabSet d (tabSet d t k v) k v' = tabSet d t k v' := by
  unfold tabSet
  simp only [h, if_false, tabDel_tabPut, tabPut_tabPut]

/-! ## The canonical form -/

theorem tabSorted_cons (a : Nat) (x : α) (t : Tab α) :
    tabSorted ((a, x) :: t) = true ↔ (∀ p ∈ t.head?, a < p.1) ∧ tabSorted t = true := by
  cases t with
  | nil => simp [tabSorted]
  | cons p t => obtain ⟨b, y⟩ := p; simp [tabSorted]

/-- In a sorted table every later key is larger. -/
theorem lt_of_tabSorted {a : Nat} {x : α} {t : Tab α} (h : tabSorted ((a, x) :: t) = true) :
    ∀ p ∈ t, a < p.1 := by
  induction t generalizing a x with
  | nil => simp
  | cons q t ih =>
    obtain ⟨b, y⟩ := q
    have h' := (tabSorted_cons a x ((b, y) :: t)).1 h
    intro p hp
    have hab : a < b := h'.1 (b, y) (by simp)
    rcases List.mem_cons.1 hp with rfl | hp
    · exact hab
    · exact Nat.lt_trans hab (ih h'.2 p hp)

theorem tabSorted_of_lt {a : Nat} {x : α} {t : Tab α} (h : ∀ p ∈ t, a < p.1) (ht : tabSorted t = true) :
    tabSorted ((a, x) :: t) = true :=
  (tabSorted_cons a x t).2 ⟨fun p hp => h p (List.mem_of_mem_head? hp), ht⟩

/-- The entries of a table after `tabPut` are the new one and old ones. -/
theorem mem_tabPut {t : Tab α} {k : Nat} {v : α} {p : Nat × α} (h : p ∈ tabPut t k v) : p = (k, v) ∨ p ∈ t := by
  induction t with
  | nil => simpa [tabPut] using h
  | cons q t ih =>
    obtain ⟨a, x⟩ := q
    simp only [tabPut] at h
    split at h
    · rcases List.mem_cons.1 h with h | h <;> simp [h]
    · split at h
      · simpa using h
      · rcases List.mem_cons.1 h with h | h
        · simp [h]
        · rcases ih h with h | h <;> simp [h]

theorem tabSorted_tabPut {t : Tab α} (h : tabSorted t = true) (k : Nat) (v : α) : tabSorted (tabPut t k v) = true := by
  induction t with
  | nil => simp [tabPut, tabSorted]
  | cons q t ih =>
    obtain ⟨a, x⟩ := q
    have hl := lt_of_tabSorted h
    have ht := ((tabSorted_cons a x t).1 h).2
    simp only [tabPut]
    split
    · subst_vars; exact tabSorted_of_lt hl ht
    · split
      · refine tabSorted_of_lt (fun p hp => ?_) h
        rcases List.mem_cons.1 hp with rfl | hp
        · assumption
        · exact Nat.lt_trans ‹_› (hl p hp)
      · refine tabSorted_of_lt (fun p hp => ?_) (ih ht)
        rcases mem_tabPut hp with rfl | hp
        · simp only; omega
        · exact hl p hp

/-- A filtered sorted table is sorted. -/
theorem tabSorted_filter {t : Tab α} (h : tabSorted t = true) (f : Nat × α → Bool) : tabSorted (t.filter f) = true := by
  induction t with
  | nil => rfl
  | cons q t ih =>
    obtain ⟨a, x⟩ := q
    have ht := ih ((tabSorted_cons a x t).1 h).2
    rw [List.filter_cons]
    split
    · exact tabSorted_of_lt (fun p hp => lt_of_tabSorted h p ((List.mem_filter.1 hp).1)) ht
    · exact ht

/-- A filtered canonical table is canonical. -/
theorem tabWf_filter [DecidableEq α] {d : α} {t : Tab α} (h : tabWf d t = true) (f : Nat × α → Bool) :
    tabWf d (t.filter f) = true := by
  simp only [tabWf, Bool.and_eq_true, List.all_eq_true] at h ⊢
  exact ⟨tabSorted_filter h.1 f, fun p hp => h.2 p ((List.mem_filter.1 hp).1)⟩

/-- `tabSet` keeps a table canonical. -/
theorem tabWf_tabSet [DecidableEq α] {d : α} {t : Tab α} (h : tabWf d t = true) (k : Nat) (v : α) :
    tabWf d (tabSet d t k v) = true := by
  unfold tabSet
  split
  · exact tabWf_filter h _
  · simp only [tabWf, Bool.and_eq_true, List.all_eq_true] at h ⊢
    refine ⟨tabSorted_tabPut h.1 k v, fun p hp => ?_⟩
    rcases mem_tabPut hp with rfl | hp
    · simpa using ‹¬v = d›
    · exact h.2 p hp

end Sys2Proof.Machine
end

