-- ==== Sys2Proof/Laws/Ops.lean ====
section
/-! SUPPORT. What the named operations over the device's parts do: reading a part after a change, the scalar registers
and the PC of a stream after a write, and the groups that a write leaves alone. -/

namespace Sys2Proof.Machine

/-! ## Reading a part after a change -/

theorem group_modGroup (s : State) (k : Nat) (f : Group → Group) (j : Nat) :
    (s.modGroup k f).group j = if j = k ∧ s.live k = true then f (s.group k) else s.group j := by
  unfold State.modGroup State.group State.live tabGet
  simp only [tabFind_tabModify]
  by_cases hj : j = k
  · subst hj; cases h : tabFind s.groups j <;> simp
  · simp [hj]

@[simp] theorem live_modGroup (s : State) (k : Nat) (f : Group → Group) (j : Nat) :
    (s.modGroup k f).live j = s.live j := by
  simp [State.modGroup, State.live]

@[simp] theorem group_modGroup_same {s : State} {k : Nat} (f : Group → Group) (h : s.live k = true) :
    (s.modGroup k f).group k = f (s.group k) := by
  simp [group_modGroup, h]

@[simp] theorem group_modGroup_ne (s : State) {k j : Nat} (f : Group → Group) (h : j ≠ k) :
    (s.modGroup k f).group j = s.group j := by
  simp [group_modGroup, h]

theorem troupe_modTroupe (s : State) (k : Nat) (f : Troupe → Troupe) (j : Nat) :
    (s.modTroupe k f).troupe j =
      if j = k ∧ (tabFind s.troupes k).isSome = true then f (s.troupe k) else s.troupe j := by
  unfold State.modTroupe State.troupe tabGet
  simp only [tabFind_tabModify]
  by_cases hj : j = k
  · subst hj; cases h : tabFind s.troupes j <;> simp
  · simp [hj]

theorem launch_modLaunch (s : State) (k : Nat) (f : Launch → Launch) (j : Nat) :
    (s.modLaunch k f).launch j =
      if j = k ∧ (tabFind s.launches k).isSome = true then f (s.launch k) else s.launch j := by
  unfold State.modLaunch State.launch tabGet
  simp only [tabFind_tabModify]
  by_cases hj : j = k
  · subst hj; cases h : tabFind s.launches j <;> simp
  · simp [hj]

theorem world_setWorld (s : State) (k : Nat) (v : World) (j : Nat) :
    (s.setWorld k v).world j = if j = k then v else s.world j := by
  simp [State.setWorld, State.world, tabGet_tabSet]

@[simp] theorem world_setWorld_same (s : State) (k : Nat) (v : World) : (s.setWorld k v).world k = v := by
  simp [world_setWorld]

theorem world_modWorld (s : State) (k : Nat) (f : World → World) (j : Nat) :
    (s.modWorld k f).world j = if j = k then f (s.world k) else s.world j := by
  simp [State.modWorld, world_setWorld]

@[simp] theorem world_modWorld_same (s : State) (k : Nat) (f : World → World) :
    (s.modWorld k f).world k = f (s.world k) := by
  simp [world_modWorld]

theorem core_modCore (s : State) (k : Nat) (f : Core → Core) (j : Nat) :
    (s.modCore k f).core j = if j = k then f (s.core k) else s.core j := by
  simp [State.modCore, State.core, tabGet_tabSet]

theorem slice_modSlice (s : State) (k : Nat) (f : Slice → Slice) (j : Nat) :
    (s.modSlice k f).slice j = if j = k then f (s.slice k) else s.slice j := by
  simp [State.modSlice, State.slice, tabGet_tabSet]

theorem bdc_modBdc (s : State) (k : Nat) (f : Bdc → Bdc) (j : Nat) :
    (s.modBdc k f).bdc j = if j = k then f (s.bdc k) else s.bdc j := by
  unfold State.modBdc State.bdc
  rw [slice_modSlice]
  by_cases h : j = k <;> simp [h]

@[simp] theorem bdc_modBdc_same (s : State) (k : Nat) (f : Bdc → Bdc) : (s.modBdc k f).bdc k = f (s.bdc k) := by
  simp [bdc_modBdc]

@[simp] theorem group_modBdc (s : State) (k j : Nat) (f : Bdc → Bdc) : (s.modBdc k f).group j = s.group j := rfl
@[simp] theorem live_modBdc (s : State) (k j : Nat) (f : Bdc → Bdc) : (s.modBdc k f).live j = s.live j := rfl
@[simp] theorem bdc_modGroup (s : State) (k j : Nat) (f : Group → Group) : (s.modGroup k f).bdc j = s.bdc j := rfl

/-! ## The scalar context of a pair -/

/-- A change of a group that keeps `twin` and `split` keeps which context runs for which group. -/
theorem ctxOf_modGroup (s : State) (k : Nat) (f : Group → Group) (hf : ∀ g, (f g).converged = g.converged) (j : Nat) :
    (s.modGroup k f).ctxOf j = s.ctxOf j := by
  unfold State.ctxOf
  rw [group_modGroup]
  split
  · next h => rw [hf, h.1]
  · rfl

/-! ## Scalar registers and the PC -/

@[simp] theorem sreg_zero (s : State) (a : Agent) : s.sreg a 0 = 0 := rfl

@[simp] theorem setSreg_zero (s : State) (a : Agent) (v : Word64) : s.setSreg a 0 v = s := rfl

theorem sreg_setSreg_group {s : State} {gid : Nat} (h : s.live (s.ctxOf gid) = true) (d : Nat) (v : Word64) (r : Nat) :
    (s.setSreg (.group gid) d v).sreg (.group gid) r = if r = d ∧ d ≠ 0 then v else s.sreg (.group gid) r := by
  by_cases hd : d = 0
  · simp [hd]
  · have hc : (s.setSreg (.group gid) d v).ctxOf gid = s.ctxOf gid := by
      simp only [State.setSreg, hd, if_false]
      refine ctxOf_modGroup _ _ _ ?_ _
      exact fun _ => rfl
    unfold State.sreg
    by_cases hr : r = 0
    · subst hr; simp [Ne.symm hd]
    · simp only [hr, if_false, hc]
      simp only [State.setSreg, hd, if_false, group_modGroup, h, and_self, if_true, tabGet_tabSet, ne_eq,
        not_false_eq_true, and_true]

theorem sreg_setSreg_bdc (s : State) (sl d : Nat) (v : Word64) (r : Nat) :
    (s.setSreg (.bdc sl) d v).sreg (.bdc sl) r = if r = d ∧ d ≠ 0 then v else s.sreg (.bdc sl) r := by
  by_cases hd : d = 0
  · simp [hd]
  · unfold State.sreg
    by_cases hr : r = 0
    · subst hr; simp [Ne.symm hd]
    · simp only [hr, if_false, State.setSreg, hd, bdc_modBdc_same, tabGet_tabSet, ne_eq, not_false_eq_true, and_true]

end Sys2Proof.Machine
end

