-- ==== Sys2Proof/Laws/Mem.lean ====
section
/-! SUPPORT. Device memory keeps its canonical form under every operation on it: plain writes, the slice ports, the homes
of sectors, the rows of a base-die bank, scrubs and migrations. -/

namespace Sys2Proof.Machine

/-- A state with the same memory has canonical memory too. -/
theorem wf_of_mem_eq {s t : State} (h : Memory.wf s.mem = true) (e : t.mem = s.mem) : Memory.wf t.mem = true := by
  rw [e]; exact h

/-- What holds of a state and is kept by every function of a list holds after the whole list. -/
theorem foldl_keeps {α β : Type} {p : β → Prop} {f : β → α → β} (hf : ∀ b a, p b → p (f b a)) :
    ∀ (l : List α) {b : β}, p b → p (l.foldl f b) := by
  intro l
  induction l with
  | nil => intro b h; exact h
  | cons a l ih => intro b h; exact ih (hf b a h)

/-! ## Plain bytes -/

theorem wf_setMemByte {s : State} (h : Memory.wf s.mem = true) (pa : Nat) (b : Byte) :
    Memory.wf (s.setMemByte pa b).mem = true :=
  tabWf_tabSet h pa b

theorem wf_setMemBytes (l : List Byte) {s : State} (h : Memory.wf s.mem = true) (pa : Nat) :
    Memory.wf (s.setMemBytes pa l).mem = true := by
  induction l generalizing s pa with
  | nil => exact h
  | cons b l ih => exact ih (wf_setMemByte h pa b) (pa + 1)

theorem wf_wipeRows {s : State} (h : Memory.wf s.mem = true) (sl : Nat) :
    Memory.wf (s.wipeRows sl).mem = true :=
  tabWf_filter h _

/-- The memory of the machine at reset is canonical. -/
theorem wf_reset : Memory.wf State.reset.mem = true := rfl

/-! ## What leaves memory alone -/

@[simp] theorem mem_setHostBytes (l : List Byte) (s : State) (a : Nat) : (s.setHostBytes a l).mem = s.mem := by
  induction l generalizing s a with
  | nil => rfl
  | cons b l ih => exact ih _ _

@[simp] theorem mem_markHome (s : State) (pa n : Nat) (p : Bool) : (s.markHome pa n p).mem = s.mem := rfl

@[simp] theorem mem_modRow (s : State) (pa : Nat) (f : RowMeta → RowMeta) : (s.modRow pa f).mem = s.mem := rfl

@[simp] theorem mem_countShared (s : State) (i : Nat) : (s.countShared i).mem = s.mem := rfl

@[simp] theorem mem_countIn (s : State) (w k : Nat) : (s.countIn w k).mem = s.mem := by
  unfold State.countIn
  simp only
  split <;> rfl

@[simp] theorem mem_countAlso (s : State) (w k : Nat) : (s.countAlso w k).mem = s.mem := by
  unfold State.countAlso
  split <;> simp

@[simp] theorem mem_log (s : State) (w entry : Nat) : (s.log w entry).mem = s.mem := rfl

@[simp] theorem mem_contain (s : State) (sl w : Nat) (e : ErrRec) : (s.contain sl w e).mem = s.mem := by
  simp [State.contain]

@[simp] theorem mem_refuseAt (s : State) (w pa : Nat) : (s.refuseAt w pa).mem = s.mem := by
  simp [State.refuseAt]

/-- Operations that keep memory keep it when they are done one after another. -/
theorem mem_foldl {α : Type} {f : State → α → State} (h : ∀ s a, (f s a).mem = s.mem) (l : List α) (s : State) :
    (l.foldl f s).mem = s.mem := by
  induction l generalizing s with
  | nil => rfl
  | cons a l ih => rw [List.foldl_cons, ih, h]

/-! ## The counter tree (R396, R397) -/

@[simp] theorem mem_nodeLeaves (s : State) (n : MetaNode) : (s.nodeLeaves n).mem = s.mem := by
  unfold State.nodeLeaves
  simp only
  split <;> rfl

@[simp] theorem mem_holdNode (s : State) (sl level num : Nat) (d : Bool) : (s.holdNode sl level num d).mem = s.mem :=
  mem_foldl mem_nodeLeaves _ _

@[simp] theorem mem_holdWalk (s : State) (pa : Nat) : (s.holdWalk pa).mem = s.mem :=
  mem_foldl (f := fun s (n : Nat × Nat) => s.holdNode (sliceOfPa pa) n.1 n.2 false) (fun s _ => mem_holdNode s _ _ _ _) _ _

@[simp] theorem mem_treeError (s : State) (sl level num : Nat) : (s.treeError sl level num).mem = s.mem := by
  unfold State.treeError
  simp only
  split <;> simp

@[simp] theorem mem_treeErrors (s : State) (pa : Nat) : (s.treeErrors pa).mem = s.mem :=
  mem_foldl (f := fun s (n : Nat × Nat) => s.treeError (sliceOfPa pa) n.1 n.2) (fun s _ => mem_treeError s _ _ _) _ _

@[simp] theorem mem_raiseTree (s : State) (pa : Nat) : (s.raiseTree pa).mem = s.mem := by
  unfold State.raiseTree
  refine mem_foldl (fun s p => ?_) _ _
  split <;> simp

@[simp] theorem mem_tagFailure (s : State) (pa : Nat) : (s.tagFailure pa).mem = s.mem := by
  simp [State.tagFailure]

@[simp] theorem mem_portRead (s : State) (w pa : Nat) : (s.portRead w pa).1.mem = s.mem := by
  unfold State.portRead
  simp only
  repeat' split
  all_goals simp

@[simp] theorem mem_sendPacket (s : State) (w d pa : Nat) (c : Option Nat) : (s.sendPacket w d pa c).1.mem = s.mem := by
  unfold State.sendPacket
  split <;> simp

@[simp] theorem mem_arrive (s : State) (d pa : Nat) (c : Option Nat) : (s.arrive d pa c).1.mem = s.mem := by
  unfold State.arrive
  split
  · rfl
  · simp only
    split <;> rfl

@[simp] theorem mem_sendWrite (s : State) (w pa : Nat) (c : Option Nat) : (s.sendWrite w pa c).1.mem = s.mem := by
  simp [State.sendWrite]

/-! ## Slice ports and homes -/

theorem wf_portWrite {s : State} (h : Memory.wf s.mem = true) (w pa : Nat) (l : List Byte) (p : Bool) :
    Memory.wf (s.portWrite w pa l p).mem = true := by
  unfold State.portWrite
  simp only
  split
  · simpa using h
  split
  · simpa using h
  split
  · simpa using h
  · simpa using wf_setMemBytes l h _

theorem wf_sectorToPort {s : State} (h : Memory.wf s.mem = true) (k : Nat) (v : Sector) :
    Memory.wf (s.sectorToPort k v).mem = true := by
  unfold State.sectorToPort
  simp only
  split
  · exact h
  split
  · exact foldl_keeps (p := fun s : State => Memory.wf s.mem = true) (fun _ _ hs => by simpa using hs) _
      (wf_portWrite h _ _ _ _)
  · exact wf_portWrite h _ _ _ _

theorem wf_cleanL2 {s : State} (h : Memory.wf s.mem = true) (k : Nat) : Memory.wf (s.cleanL2 k).mem = true := by
  unfold State.cleanL2
  split
  · exact wf_sectorToPort h _ _
  · exact h

theorem wf_flushL2 {s : State} (h : Memory.wf s.mem = true) (k : Nat) : Memory.wf (s.flushL2 k).mem = true :=
  wf_cleanL2 h k

theorem wf_l2Make {s t : State} (h : Memory.wf s.mem = true) {w pa : Nat} (e : s.l2Make w pa = some t) :
    Memory.wf t.mem = true := by
  unfold State.l2Make at e
  split at e
  · cases e; exact h
  · obtain ⟨n, -, rfl⟩ := Option.map_eq_some_iff.mp e
    exact wf_flushL2 (wf_flushL2 (s := s.bumpFree) h _) _

theorem wf_l2Put {s t : State} (h : Memory.wf s.mem = true) {w pa : Nat} {v : Sector} (e : s.l2Put w pa v = some t) :
    Memory.wf t.mem = true := by
  obtain ⟨u, hu, rfl⟩ := Option.map_eq_some_iff.mp e
  have hw := wf_l2Make h hu
  exact hw

/-- A sector that comes into the L2, or another way of keeping memory canonical where there is no room. -/
theorem wf_l2PutD {s t : State} (h : Memory.wf s.mem = true) (ht : Memory.wf t.mem = true) (w pa : Nat) (v : Sector) :
    Memory.wf ((s.l2Put w pa v).getD t).mem = true := by
  cases e : s.l2Put w pa v with
  | none => exact ht
  | some u => exact wf_l2Put h e

theorem wf_homeRead {s : State} (h : Memory.wf s.mem = true) (w pa n : Nat) (c : Option Nat) :
    Memory.wf (s.homeRead w pa n c).1.mem = true := by
  unfold State.homeRead
  extract_lets pa k off hit
  have hhit : ∀ (s : State) (v : Sector), Memory.wf s.mem = true → Memory.wf (hit s v).1.mem = true := by
    intro s v hs
    simp only [hit]
    split <;> simpa using hs
  have e := mem_portRead s w pa
  split
  · exact hhit _ _ h
  · exact hhit _ _ h
  · split <;> rename_i e' <;> rw [e'] at e
    · exact wf_of_mem_eq h e
    · have h1 := wf_of_mem_eq h e
      simp only
      split
      · exact wf_l2PutD (by simpa using h1) (by simpa using h1) _ _ _
      · simpa using h1

theorem wf_homeMerge {s : State} (h : Memory.wf s.mem = true) (w pa : Nat) (l : List (Nat × Byte × Bool))
    {direct : Bool → State → State} (hd : ∀ p s, Memory.wf s.mem = true → Memory.wf (direct p s).mem = true)
    (c : Option Nat) : Memory.wf (s.homeMerge w pa l direct c).mem = true := by
  unfold State.homeMerge
  extract_lets pa k here
  have e := mem_portRead s w pa
  split
  · split
    · simpa using h
    · exact wf_of_mem_eq h (mem_sendWrite s w pa c)
  · split
    · split
      · simpa using h
      · exact wf_of_mem_eq h (mem_sendWrite s w pa c)
    · split
      · split <;> rename_i e' <;> rw [e'] at e
        · exact wf_of_mem_eq h e
        · exact wf_l2PutD (by simpa using wf_of_mem_eq h e) (hd _ _ (by simpa using wf_of_mem_eq h e)) _ _ _
      · exact hd _ _ (by simpa using h)

theorem wf_homeWrite {s : State} (h : Memory.wf s.mem = true) (w pa : Nat) (l : List Byte) (p : Bool)
    (c : Option Nat) : Memory.wf (s.homeWrite w pa l p c).mem = true :=
  wf_homeMerge h _ _ _ (fun q _ hs => wf_portWrite hs w pa l (p || q)) c

theorem wf_homeReadAll {s : State} (h : Memory.wf s.mem = true) (w pa n : Nat) (port : Option Nat) :
    Memory.wf (s.homeReadAll w pa n port).1.mem = true := by
  refine foldl_keeps (p := fun r : State × List Byte × Bool => Memory.wf r.1.mem = true) ?_ _ h
  intro r c hr
  have e := wf_homeRead hr w c.1 c.2 port
  split <;> rename_i e' <;> rw [e'] at e <;> exact e

theorem wf_homeWriteAll {s : State} (h : Memory.wf s.mem = true) (w pa : Nat) (l : List Byte) (p : Bool)
    (port : Option Nat) : Memory.wf (s.homeWriteAll w pa l p port).mem = true :=
  foldl_keeps (p := fun s : State => Memory.wf s.mem = true) (fun _ _ hs => wf_homeWrite hs w _ _ p port) _ h

theorem wf_flushTurn {s : State} (h : Memory.wf s.mem = true) (k : Nat) : Memory.wf (s.flushTurn k).mem = true := by
  unfold State.flushTurn
  split
  · exact h
  · simp only
    split
    · rename_i e
      split at e
      · exact wf_l2Put (s := { s with turn := tabDel s.turn k }) h e
      · cases e
    · exact wf_sectorToPort (s := { s with turn := tabDel s.turn k }) h _ _

/-! ## Rows, scrubs and migrations -/

theorem wf_writeRow {s : State} (h : Memory.wf s.mem = true) (sl pa : Nat) (l : List Byte) :
    Memory.wf (s.writeRow sl pa l).mem = true := by
  unfold State.writeRow
  simpa using wf_setMemBytes l h pa

/-- A range whose bytes no rule gives is written. -/
theorem wf_writeFree {s : State} (h : Memory.wf s.mem = true) (w pa n : Nat) (port : Option Nat) :
    Memory.wf (s.writeFree w pa n port).mem = true :=
  foldl_keeps (p := fun s : State => Memory.wf s.mem = true)
    (fun s c hs => wf_homeWriteAll (s := (s.freeBytes c.2).1) hs w _ _ _ _) _ h

theorem wf_moveSlice {s : State} (h : Memory.wf s.mem = true) (w src dst : Nat) :
    Memory.wf (s.moveSlice w src dst).mem = true := by
  unfold State.moveSlice
  refine foldl_keeps (p := fun s : State => Memory.wf s.mem = true) (fun _ _ hs => wf_flushL2 hs _) _ ?_
  refine foldl_keeps (p := fun s : State => Memory.wf s.mem = true) (fun _ _ hs => wf_flushTurn hs _) _ ?_
  exact foldl_keeps (p := fun m => Memory.wf m = true) (fun _ _ hm => tabWf_tabSet hm _ _) _ (wf_wipeRows h dst)

theorem wf_scrubWrite {s : State} (h : Memory.wf s.mem = true) (pa : Nat) (l : List Byte) :
    Memory.wf (s.scrubWrite pa l).mem = true :=
  foldl_keeps (p := fun s : State => Memory.wf s.mem = true)
    (fun _ c hs => wf_setMemBytes ((l.drop (c.1 - pa)).take c.2) hs c.1) _ h

end Sys2Proof.Machine
end

