-- ==== Sys2Proof/Laws/Scalar.lean ====
section
/-! SUPPORT. What the shared frame of the scalar words does (`scalarWord`, `scalarResult`), and the states that
`setSreg`, `setPc` and `advance` give. -/

namespace Sys2Proof.Machine

/-- The context that runs for a context is itself. -/
@[simp] theorem ctxOf_ctxOf (s : State) (gid : Nat) : s.ctxOf (s.ctxOf gid) = s.ctxOf gid := by
  unfold State.ctxOf leadOf
  by_cases h : (s.group gid).converged = true
  · simp only [h, if_true]
    split
    · omega
    · rfl
  · simp [h]

/-- The stream that is executing, when it is a group's, is the context itself. -/
theorem ctxOf_of_running {s : State} {gid : Nat} (h : s.running = some (.group gid)) : s.ctxOf gid = gid := by
  unfold State.running at h
  split at h
  · simp at h
  · split at h
    · simp only [Option.some.injEq, Agent.group.injEq] at h
      rw [← h]; exact ctxOf_ctxOf s _
    · simp at h
  · split at h <;> simp at h

/-- A base-die core that is executing runs a microkernel. -/
theorem lid_of_running {s : State} {sl : Nat} (h : s.running = some (.bdc sl)) : (s.bdc sl).lid.isSome = true := by
  unfold State.running at h
  split at h
  · simp at h
  · split at h <;> simp at h
  · split at h
    · next hs => simp only [Option.some.injEq, Agent.bdc.injEq] at h; rw [← h]; exact hs
    · simp at h

/-- A scalar word that takes its effect answers its effect. -/
theorem scalarWord_go {s : State} {a : Agent} {k : Kinds} {i : Instr} (h : s.scalarGo a k i)
    (body : Agent → State → State) : scalarWord k i body s = .next (body a s) := by
  obtain ⟨h1, h2, h3, h4⟩ := h
  unfold scalarWord
  rw [h1]
  cases a with
  | none => simp [h2, h3]
  | group gid => simp [h2, h3, (h4 gid rfl).2]
  | bdc sl => simp [h2, h3]

/-! ## `setSreg`, `setPc` and `advance` -/

@[simp] theorem live_setPc (s : State) (a : Agent) (pc j : Nat) : (s.setPc a pc).live j = s.live j := by
  cases a <;> simp [State.setPc]

@[simp] theorem live_setSreg (s : State) (a : Agent) (r : Nat) (v : Word64) (j : Nat) :
    (s.setSreg a r v).live j = s.live j := by
  unfold State.setSreg
  split
  · rfl
  · cases a <;> simp

@[simp] theorem ctxOf_setPc (s : State) (a : Agent) (pc j : Nat) : (s.setPc a pc).ctxOf j = s.ctxOf j := by
  cases a with
  | none => rfl
  | group gid => refine ctxOf_modGroup _ _ _ ?_ _; exact fun _ => rfl
  | bdc sl => rfl

@[simp] theorem ctxOf_setSreg (s : State) (a : Agent) (r : Nat) (v : Word64) (j : Nat) :
    (s.setSreg a r v).ctxOf j = s.ctxOf j := by
  unfold State.setSreg
  split
  · rfl
  · cases a with
    | none => rfl
    | group gid => refine ctxOf_modGroup _ _ _ ?_ _; exact fun _ => rfl
    | bdc sl => rfl

/-- A write to a register leaves the PC. -/
@[simp] theorem pcOf_setSreg (s : State) (a : Agent) (r : Nat) (v : Word64) : (s.setSreg a r v).pcOf a = s.pcOf a := by
  unfold State.setSreg
  split
  · rfl
  · cases a with
    | none => rfl
    | group gid =>
      simp only [State.pcOf]
      rw [ctxOf_modGroup]
      · rw [group_modGroup]; split
        · next h => rw [h.1]
        · rfl
      · exact fun _ => rfl
    | bdc sl => simp [State.pcOf]

theorem setPc_group {s : State} {gid : Nat} (hc : s.ctxOf gid = gid) (pc : Nat) :
    s.setPc (.group gid) pc = s.modGroup gid (fun g => { g with pc := pc, wait := none }) := by
  simp [State.setPc, hc]

theorem setSreg_group {s : State} {gid : Nat} (hc : s.ctxOf gid = gid) {r : Nat} (hr : r ≠ 0) (v : Word64) :
    s.setSreg (.group gid) r v = s.modGroup gid (fun g =>
      { g with sregs := tabSet 0 g.sregs r v
               poison := g.poison.filter (fun m => !(m.file == 1 && m.num == r)) }) := by
  simp [State.setSreg, hr, hc]

/-- Two changes of one group are one change. -/
theorem modGroup_modGroup (s : State) (k : Nat) (f f' : Group → Group) :
    (s.modGroup k f).modGroup k f' = s.modGroup k (fun g => f' (f g)) := by
  unfold State.modGroup
  simp only [State.mk.injEq, true_and, and_true]
  unfold tabModify
  cases h : tabFind s.groups k with
  | none => simp [h]
  | some x => simp [tabPut_tabPut]

/-- Two changes of one base-die core are one change, when the first leaves a microkernel running. -/
theorem modBdc_modBdc (s : State) (k : Nat) (f f' : Bdc → Bdc) (h : (f (s.bdc k)).lid.isSome = true) :
    (s.modBdc k f).modBdc k f' = s.modBdc k (fun c => f' (f c)) := by
  unfold State.modBdc State.modSlice State.slice
  simp only [State.mk.injEq, true_and, and_true, tabGet_tabSet_same]
  refine tabSet_tabSet _ _ _ _ _ (fun he => ?_)
  have : (f (s.bdc k)).lid = none := by
    have := congrArg (fun v : Slice => v.core.lid) he
    exact this
  rw [this] at h
  cases h

/-- A change that answers what stands there changes nothing, where the group exists. -/
theorem modGroup_congr (s : State) (k : Nat) (f f' : Group → Group) (h : f (s.group k) = f' (s.group k)) :
    s.modGroup k f = s.modGroup k f' := by
  unfold State.modGroup tabModify
  unfold State.group tabGet at h
  cases hk : tabFind s.groups k with
  | none => rfl
  | some x => simp only [hk, Option.getD_some] at h; simp [h]

theorem modBdc_congr (s : State) (k : Nat) (f f' : Bdc → Bdc) (h : f (s.bdc k) = f' (s.bdc k)) :
    s.modBdc k f = s.modBdc k f' := by
  unfold State.modBdc State.modSlice
  unfold State.bdc at h
  simp only [h]

/-- The registers and the PC of a context after a change of its group. -/
theorem sreg_modGroup {s : State} {gid : Nat} (hc : s.ctxOf gid = gid) (hl : s.live gid = true) (f : Group → Group)
    (hf : ∀ g, (f g).converged = g.converged) (r : Nat) :
    (s.modGroup gid f).sreg (.group gid) r = if r = 0 then 0 else tabGet 0 (f (s.group gid)).sregs r := by
  simp only [State.sreg, ctxOf_modGroup s gid f hf, hc, group_modGroup_same _ hl]

theorem pcOf_modGroup {s : State} {gid : Nat} (hc : s.ctxOf gid = gid) (hl : s.live gid = true) (f : Group → Group)
    (hf : ∀ g, (f g).converged = g.converged) : (s.modGroup gid f).pcOf (.group gid) = (f (s.group gid)).pc := by
  simp only [State.pcOf, ctxOf_modGroup s gid f hf, hc, group_modGroup_same _ hl]

/-- Setting the PC of the stream that is executing does that and nothing else. -/
theorem went_setPc {s : State} {a : Agent} (hr : s.running = some a) (hl : ∀ gid, a = .group gid → s.live gid = true)
    (pc : Nat) : s.went (s.setPc a pc) a pc := by
  cases a with
  | none =>
    unfold State.running at hr
    split at hr
    · simp at hr
    · split at hr <;> simp at hr
    · split at hr <;> simp at hr
  | group gid =>
    have hc := ctxOf_of_running hr
    have hlive := hl gid rfl
    rw [setPc_group hc]
    refine ⟨fun r => ?_, ?_, fun _ => rfl, ?_⟩
    · rw [sreg_modGroup hc hlive]
      · simp only [State.sreg, hc]
      · exact fun _ => rfl
    · rw [pcOf_modGroup hc hlive]
      exact fun _ => rfl
    · simp only [State.sameButContext, group_modGroup_same _ hlive]
      exact modGroup_congr _ _ _ _ rfl
  | bdc sl =>
    refine ⟨fun r => ?_, ?_, fun _ => rfl, ?_⟩
    · simp only [State.sreg, State.setPc, bdc_modBdc_same]
    · simp only [State.pcOf, State.setPc, bdc_modBdc_same]
    · simp only [State.sameButContext, State.setPc, bdc_modBdc_same]
      exact modBdc_congr _ _ _ _ rfl

/-- Writing a register of the stream that is executing and going on does that and nothing else. -/
theorem wrote_setSreg {s : State} {a : Agent} (hr : s.running = some a)
    (hl : ∀ gid, a = .group gid → s.live gid = true) (d : SReg) (v : Word64) :
    s.wrote ((s.setSreg a d.toNat v).advance a) a d v := by
  by_cases hd : d = 0
  · subst hd
    have h := went_setPc hr hl (pcNext (s.pcOf a))
    have h0 : (s.setSreg a (0 : SReg).toNat v).advance a = s.setPc a (pcNext (s.pcOf a)) := rfl
    rw [h0]
    refine ⟨fun r => ?_, ?_, h.2.2.1, h.2.2.2⟩
    · rw [h.1 r]; simp
    · rw [h.2.1]; rfl
  · have hdn : d.toNat ≠ 0 := fun h => hd (BitVec.eq_of_toNat_eq (by simpa using h))
    have key (r : SReg) : (r = d ∧ r ≠ 0) ↔ (r.toNat = d.toNat ∧ d.toNat ≠ 0) := by
      constructor
      · rintro ⟨rfl, -⟩; exact ⟨rfl, hdn⟩
      · rintro ⟨h, -⟩; have := BitVec.eq_of_toNat_eq h; subst this; exact ⟨rfl, hd⟩
    cases a with
    | none =>
      unfold State.running at hr
      split at hr
      · simp at hr
      · split at hr <;> simp at hr
      · split at hr <;> simp at hr
    | group gid =>
      have hc := ctxOf_of_running hr
      have hlive := hl gid rfl
      have hs : (s.setSreg (.group gid) d.toNat v).advance (.group gid) = s.modGroup gid (fun g =>
          { g with
            sregs := tabSet 0 g.sregs d.toNat v
            poison := g.poison.filter (fun m => !(m.file == 1 && m.num == d.toNat))
            pc := pcNext (s.pcOf (.group gid))
            wait := none }) := by
        unfold State.advance
        rw [pcOf_setSreg]
        rw [setPc_group (by rw [ctxOf_setSreg, hc]), setSreg_group hc hdn, modGroup_modGroup]
      rw [hs]
      refine ⟨fun r => ?_, ?_, fun _ => rfl, ?_⟩
      · rw [sreg_modGroup hc hlive]
        · simp only [State.sreg, hc, tabGet_tabSet, key]
          by_cases h0 : r.toNat = 0
          · simp [h0]; omega
          · simp [h0, hdn]
        · exact fun _ => rfl
      · rw [pcOf_modGroup hc hlive]
        · simp only [State.pcOf, hc]; rfl
        · exact fun _ => rfl
      · simp only [State.sameButContext, group_modGroup_same _ hlive]
        exact modGroup_congr _ _ _ _ rfl
    | bdc sl =>
      have hs : (s.setSreg (.bdc sl) d.toNat v).advance (.bdc sl) = s.modBdc sl (fun c =>
          { c with
            sregs := tabSet 0 c.sregs d.toNat v
            pc := pcNext (s.pcOf (.bdc sl))
            wait := none }) := by
        unfold State.advance
        rw [pcOf_setSreg]
        simp only [State.setPc, State.setSreg, hdn, if_false]
        exact modBdc_modBdc _ _ _ _ (lid_of_running hr)
      rw [hs]
      refine ⟨fun r => ?_, ?_, fun _ => rfl, ?_⟩
      · simp only [State.sreg, bdc_modBdc_same, tabGet_tabSet, key]
        by_cases h0 : r.toNat = 0
        · simp [h0]; omega
        · simp [h0, hdn]
      · simp only [State.pcOf, bdc_modBdc_same]; rfl
      · simp only [State.sameButContext, bdc_modBdc_same]
        exact modBdc_congr _ _ _ _ rfl

/-- A scalar word that writes a register and takes its effect. -/
theorem scalarResult_go {s : State} {a : Agent} {i : Instr} (h : s.scalarGo a .both i) (d : SReg)
    (f : Agent → State → Word64) : ∃ t, scalarResult i d f s = .next t ∧ s.wrote t a d (f a s) :=
  ⟨_, scalarWord_go h _, wrote_setSreg h.1 (fun gid hg => (h.2.2.2 gid hg).1) d (f a s)⟩

end Sys2Proof.Machine
end

