-- ==== Sys2Proof/Machine/Window.lean ====
section
/-! DEFINITION. What the host reads from the register window of a world (spec/19_host.md R378, R379, R386, R439;
spec/20_trust.md R390; spec/21_slices.md R408, R415; spec/22_debug.md R421, R426, R428, R429; spec/23_fleet.md R430,
R431, R434). A read changes nothing, but for the low half of a counter, whose read is the event COUNTER_READ_LOW. -/

namespace Sys2Proof.Machine

/-- A ring's configuration register as it is read (R379, R439); LOC reads as given. -/
def RingCfg.read (r : RingCfg) (loc : Bool) : Nat :=
  packBits [(r.en.toNat, 0), (loc.toNat, 1), (r.err.toNat, 2), (r.depth % 16, 8), (r.base / 4096, 12)]

/-- A status register with BUSY, OK and ERR (R390, R408). -/
def statusRead (busy ok : Bool) (err : Nat) : Nat := packBits [(busy.toNat, 0), (ok.toNat, 1), (err % 16, 2)]

/-- The queues' and rings' registers, and those at the window's start (R378). -/
def State.readQueues (s : State) (w off : Nat) : Nat :=
  let v := s.world w
  if off = 0x0000 then capsMask
  else if off = 0x0018 then v.modes.toNat
  else if 0x0100 ≤ off ∧ off < 0x0180 then
    let r := v.lq ((off - 0x0100) / 0x20)
    if off % 0x20 = 0 then r.read r.loc
    else if off % 0x20 = 0x08 then r.head.toNat
    else if off % 0x20 = 0x0c then r.tail.toNat
    else 0
  else if off = 0x0300 then v.el.read (!v.assisted 7)
  else if off = 0x0308 then v.el.tail.toNat
  else if off = 0x030c then v.el.head.toNat
  else if off = 0x0310 then v.ellost.toNat
  else if off = 0x0400 then v.fq.read false
  else if off = 0x0408 then v.fq.tail.toNat
  else if off = 0x040c then v.fq.head.toNat
  else 0

/-- The debug, trace and rehearsal registers (R421, R426, R428). -/
def State.readDebug (s : State) (w off : Nat) : Nat :=
  let d := (s.world w).dbg
  if off = 0x9000 then d.attach.toNat
  else if off = 0x9008 then d.launch
  else if off = 0x9018 then packBits [((s.debugBusy w).toNat, 0), ((s.debugStopped w).toNat, 1), (d.err % 8, 2)]
  else if off = 0x9028 then d.data.toNat
  else if off = 0x9030 then d.trctl
  else if off = 0x9038 then packBits [(d.trsz % 32, 0), (d.trbase / 65536, 16)]
  else if off = 0x9040 then packBits [(d.rhEn.toNat, 0), (d.rhD % 256, 1)]
  else if off = 0x9048 then d.rhLo.toNat
  else if off = 0x9050 then d.rhHi.toNat
  else if 0x9060 ≤ off ∧ off < 0x90a0 ∧ off % 8 = 0 then (tabGet 0 d.points ((off - 0x9060) / 8)).toNat
  else 0

/-- Bytes of its stream that a core has written, and those that the driver has consumed (R426). -/
def State.readTrace (s : State) (w off : Nat) : Nat :=
  let v := s.world w
  let i := off % 0x2000 / 8
  if off % 8 ≠ 0 then 0
  else if 0xa000 ≤ off ∧ off < 0xc000 then
    match (worldCores v)[i]? with
    | some c => (s.core c).trace.written
    | none => 0
  else if 0xc000 ≤ off ∧ off < 0xe000 ∧ i < (worldCores v).length then (tabGet 0 v.dbg.consumed i).toNat
  else 0

/-- What the host reads from the die buffer of a world's core, in host-assisted mode (R384, R426): up to `n` bytes of the
stream from its byte `off` on, as far as they are held. -/
def State.readDieBuffer (s : State) (w core off n : Nat) : List Byte :=
  let t := (s.core core).trace
  if (s.world w).present && (s.world w).assisted 4 && decide ((s.core core).owner = some w) && decide (t.base ≤ off) then
    (t.bytes.drop (off - t.base)).take n
  else []

/-- The registers that world 0's window alone has (R390, R408, R415, R434). -/
def State.readOperator (s : State) (off : Nat) : Nat :=
  let c := s.cmdif
  if off = 0x2008 then c.warg0.toNat
  else if off = 0x2010 then c.warg1.toNat
  else if off = 0x2018 then c.warg2.toNat
  else if off = 0x2020 then statusRead c.wbusy c.wok c.werr
  else if off = 0x2028 then s.qcount
  else if off = 0x3008 then c.karg.toNat
  else if off = 0x3010 then statusRead c.kbusy c.kok c.kerr
  else if 0x4000 ≤ off ∧ off < 0x8000 ∧ off % 8 = 0 then
    let sl := (off - 0x4000) / 64
    (s.slice sl).err.image sl / 2 ^ (8 * (off % 64)) % 2 ^ 64
  else if off = 0x8000 then c.fwaddr.toNat
  else if off = 0x8008 then c.fwlen.toNat
  else if off = 0x8018 then packBits [(c.fwok.toNat, 1), (s.fwStaged.isSome.toNat, 2), (c.fwerr % 16, 4)]
  else 0

/-- What a read of a register of a window gives (R378): zero for an offset that no row or block assigns, for a write-only
register, and for a row that the window lacks. In the counter area the low half of a counter, and for its high half that
of the latch (R386). -/
def State.windowRead (s : State) (w off : Nat) : Nat :=
  if !(s.world w).present then 0
  else if off < 0x1000 then s.readQueues w off
  else if off < 0x2000 then
    match s.counterAt w (off / 8 * 8) with
    | some n => if off % 8 = 0 then n % 2 ^ 32 else if off % 8 = 4 then (s.world w).latch.toNat / 2 ^ 32 else 0
    | none => 0
  else if off < 0x9000 then (if w = 0 then s.readOperator off else 0)
  else if off < 0xa000 then s.readDebug w off
  else s.readTrace w off

end Sys2Proof.Machine
end

