-- ==== Sys2Proof/Tests/Slice0.lean ====
section
/-! SUPPORT. Small tests: ill-formed terms that the checks refuse, words written out bit by bit from the encodings of
spec/04_encoding.md, and for each statement of Certificates/Slice0 a concrete state that meets its hypotheses. Expected
values come from the spec's tables and examples, or from hand calculation. -/

namespace Sys2Proof.Tests

set_option Elab.async false

open Sys2Proof.Machine

/-! ## Small states -/

/-- Group 0 of one placed launch stands before a scalar word. -/
def g0 : State := State.reset.withFetchWord 32 0

/-- The base-die core of slice 0 stands before a scalar word. -/
def b0 : State := State.reset.withFetchWord 32 (0x50 * 2 ^ 25)

/-- Group 0 stands before a lane word, the head of its lane queue. -/
def l0 : State := State.reset.withFetchWord 96 0

/-- A bank run of the base-die core of slice 0 stands before a bank word. -/
def k0 : State := State.reset.withFetchWord 96 (0x3c0 * 2 ^ 86)

/-- `s` with register `r` of group 0 holding `v`. -/
def withS (s : State) (r : Nat) (v : Word64) : State := s.setSreg (.group 0) r v

/-- `s` with group 0 changed. -/
def withG (s : State) (f : Group → Group) : State := s.modGroup 0 f

/-- `s` with every group changed. -/
def mapG (s : State) (f : Group → Group) : State := { s with groups := s.groups.map (fun p => (p.1, f p.2)) }

/-- `s` with the placed page in the core's TLB. -/
def withTlb (s : State) : State :=
  s.modCore 0 (fun c => { c with tlb := [{ world := 1, vpn := 1, frame := 0x10000, w := true, x := true }] })

/-- `s` with groups 0 and 1 as a converged pair. -/
def paired (s : State) : State :=
  let g := s.group 0
  { s with groups := [(0, { g with twin := true }), (1, { g with twin := true, grpid := 1 })] }

/-- What a step leaves, if it ends in a next state. -/
def after (o : Out) (p : State → Bool) : Bool :=
  match o with
  | .next t => p t
  | _ => false

/-! ## When a word takes its effect -/

/-- The conditions of `State.scalarGo` for a group, as a test. -/
def goB (s : State) (gid : Nat) (k : Kinds) (i : Instr) : Bool :=
  s.running == some (.group gid) && k.allow (.group gid) && fieldOk i && s.live gid && (s.scalarHeld gid i).isNone

theorem go_group {s : State} {gid : Nat} {k : Kinds} {i : Instr} (h : goB s gid k i = true) :
    s.scalarGo (.group gid) k i := by
  simp only [goB, Bool.and_eq_true, beq_iff_eq, Option.isNone_iff_eq_none] at h
  refine ⟨h.1.1.1.1, h.1.1.1.2, h.1.1.2, ?_⟩
  intro g e
  cases e
  exact ⟨h.1.2, h.2⟩

theorem go_groups {l : List (State × Kinds × Instr)} (h : ∀ p ∈ l, goB p.1 0 p.2.1 p.2.2 = true) :
    ∀ p ∈ l, p.1.scalarGo (.group 0) p.2.1 p.2.2 := fun p m => go_group (h p m)

theorem go_bdc {s : State} {sl : Nat} {k : Kinds} {i : Instr}
    (h : (s.running == some (.bdc sl) && k.allow (.bdc sl) && fieldOk i) = true) : s.scalarGo (.bdc sl) k i := by
  simp only [Bool.and_eq_true, beq_iff_eq] at h
  refine ⟨h.1.1, h.1.2, h.2, ?_⟩
  intro g e
  cases e

/-- The words of the base-die core of slice 0 go, for each state of a list. -/
theorem go_bdcs {l : List (State × Instr)}
    (h : ∀ p ∈ l, (p.1.running == some (.bdc 0) && Kinds.baseOnly.allow (.bdc 0) && fieldOk p.2) = true) :
    ∀ p ∈ l, p.1.scalarGo (.bdc 0) .baseOnly p.2 := fun p m => go_bdc (h p m)

/-- The conditions of `State.laneGo`, as a test; `hurtIn` looks at lane numbers below 64 only. -/
def hitB (s : State) (gid va : Nat) (k : AccKind) (pa : Nat) (w : Bool) : Bool :=
  match s.xlateHit (s.coreOf gid) (s.worldOf gid) va k with
  | some (.ok p v _) => p == pa && v == w
  | _ => false

theorem hits_of {s : State} {gid va pa : Nat} {k : AccKind} {w : Bool} (h : hitB s gid va k pa w = true) :
    s.hits gid va k pa w := by
  unfold hitB at h
  split at h
  · rename_i p v x e
    simp only [Bool.and_eq_true, beq_iff_eq] at h
    exact ⟨x, by rw [e, h.1, h.2]⟩
  · cases h

theorem clean_of {s : State} {cs : List Nat}
    (h : (cs.all (fun c => (s.core c).wbuf.isEmpty && (s.core c).dirtySectors.isEmpty)) = true) : s.coresClean cs := by
  intro c hc
  have := List.all_eq_true.mp h c hc
  simpa [List.isEmpty_iff] using this

theorem cmd_free {s : State} {w : Nat} {p : Bool} (h : s.cmdif.wbusy = false ∧ s.cmdif.wslice = none ∧ 1 ≤ w ∧ w ≤ 63 ∧
    (s.world w).present = p) : s.cmdFree w p := h

theorem row_free {s : State} {w pa : Nat} (h : pa < deviceBytes ∧ (s.slice (sliceOfPa pa)).forward = false ∧
    tabFind s.turn (sectorOf pa) = none ∧ tabFind s.l2 (sectorOf pa) = none ∧ s.cachedInL2 w pa = false ∧
    s.homeBusy w pa true = false ∧ s.portAccepts w pa = true ∧ s.rowOk pa = true ∧ s.rowCounter pa ≠ 2 ^ 56 - 1) :
    s.reachesRow w pa := h

theorem lane_free {s : State} {gid : Nat} {i : Instr} (h : (s.group gid).vregPending i = none ∧
    s.svalPending gid i = none ∧ s.arrayPending gid i = false) : s.laneFree gid i := h

/-- An entry that a table lists, or the default, has what every entry and the default have. -/
theorem tabGet_all {α : Type} {d : α} {t : Tab α} {f : α → Bool} (h : (f d && t.all (fun p => f p.2)) = true) (k : Nat) :
    f (tabGet d t k) = true := by
  simp only [Bool.and_eq_true, List.all_eq_true] at h
  induction t with
  | nil => exact h.1
  | cons p t ih =>
    simp only [tabGet, tabFind]
    by_cases e : k = p.1
    · simp [e, h.2 p (by simp)]
    · simpa [e, tabGet] using ih ⟨h.1, fun x hx => h.2 x (by simp [hx])⟩

/-- No world of the state has L2 granules, and no slice forwards. -/
theorem plain_of {s : State}
    (h : (s.worlds.all (fun p => p.2.l2gran.isEmpty) && s.slices.all (fun p => !p.2.forward)) = true) :
    (∀ x v, s.cachedInL2 v x = false) ∧ ∀ sl, (s.slice sl).forward = false := by
  simp only [Bool.and_eq_true] at h
  refine ⟨fun x v => ?_, fun sl => ?_⟩
  · have a : (s.world v).l2gran.isEmpty = true :=
      tabGet_all (f := fun w : World => w.l2gran.isEmpty) (by simpa using h.1) v
    rw [List.isEmpty_iff] at a
    simp [State.cachedInL2, a, tabGet, tabFind]
  · have a : (!(s.slice sl).forward) = true :=
      tabGet_all (f := fun v : Slice => !v.forward) (by simpa using h.2) sl
    simpa using a

/-! ## Scalar statements -/

theorem test_hyps_ScalarRegisterForms :
    g0.scalarGo (.group 0) .both (.add 1 2 3) ∧ b0.scalarGo (.bdc 0) .both (.lea 63 62 61 7) :=
  ⟨go_group (by decide +kernel), go_bdc (by decide +kernel)⟩

theorem test_hyps_DivisionEdges :
    let s := withS (withS g0 8 (BitVec.ofInt 64 (-7))) 9 2
    s.scalarGo (.group 0) .both (.divn 7 8 9) ∧ s.scalarGo (.group 0) .both (.div 7 8 9) ∧
      s.scalarGo (.group 0) .both (.rem 7 8 9) ∧ s.sreg (.group 0) 8 = BitVec.ofInt 64 (-7) ∧
      s.sreg (.group 0) 9 = 2 :=
  ⟨go_group (by decide +kernel), go_group (by decide +kernel), go_group (by decide +kernel), by decide +kernel⟩

theorem test_hyps_ScalarImmediateForms :
    g0.scalarGo (.group 0) .both (.addi 1 2 (-4096)) ∧ g0.scalarGo (.group 0) .both (.sari 1 2 63) ∧
      g0.scalarGo (.group 0) .both (.lpc 1 0x7ffff) :=
  ⟨go_group (by decide +kernel), go_group (by decide +kernel), go_group (by decide +kernel)⟩

theorem test_hyps_ScalarBranches :
    (∀ word ∈ ([(g0, .both, .beq 1 2 (-1)), (g0, .both, .call 5), (g0, .both, .nop),
        (g0, .both, .yield)] : List (State × Kinds × Instr)), word.1.scalarGo (.group 0) word.2.1 word.2.2) ∧
      b0.scalarGo (.bdc 0) .both .yield :=
  ⟨go_groups (by decide +kernel), go_bdc (by decide +kernel)⟩

theorem test_hyps_ReturnToRegister :
    (withS g0 5 0x10008).scalarGo (.group 0) .both (.ret 5) ∧
      (withS g0 5 0x10009).scalarGo (.group 0) .both (.ret 5) ∧
      ((withS g0 5 0x10008).sreg (.group 0) 5).toNat % 4 = 0 ∧
      ((withS g0 5 0x10009).sreg (.group 0) 5).toNat % 4 ≠ 0 :=
  ⟨go_group (by decide +kernel), go_group (by decide +kernel), by decide +kernel⟩

/-- An access of the constant path and one of the load/store path in the placed page. -/
theorem test_hyps_ScalarMemoryForms_group :
    let s := withTlb (withS g0 2 0x1e000)
    (s.sreg (.group 0) 2 + BitVec.ofInt 64 (8 * (1 : BitVec 13).toInt)).toNat = 0x1e008 ∧
      s.scalarGo (.group 0) .both (.sld 1 2 1) ∧ s.scalarGo (.group 0) .both (.sst 2 3 1) ∧
      (s.group 0).room .const ∧ (s.group 0).room .ls ∧ s.hits 0 0x1e008 .read 0x1e008 true ∧
      s.hits 0 0x1e008 .write 0x1e008 true := by
  refine ⟨by decide +kernel, go_group (by decide +kernel), go_group (by decide +kernel), ⟨by decide +kernel, ?_⟩,
    ⟨by decide +kernel, ?_⟩, hits_of (by decide +kernel), hits_of (by decide +kernel)⟩ <;> decide +kernel

/-- The constant segment of the placed launch: base 0x1E000, 4 KiB; its last 8 bytes. -/
theorem test_hyps_ScalarMemoryForms_const :
    let s := withTlb (withS g0 2 0xff8)
    s.scalarGo (.group 0) .both (.sldk 1 2 0) ∧ s.hits 0 0x1eff8 .read 0x1eff8 true ∧
      (s.sreg (.group 0) 2 + BitVec.ofInt 64 (8 * (0 : BitVec 13).toInt)).toInt = 0xff8 ∧
      (s.launchOf 0).constBase = 0x1e000 ∧ 0xff8 + 8 ≤ (s.headerOf 0).constSize :=
  ⟨go_group (by decide +kernel), hits_of (by decide +kernel), by decide +kernel⟩

/-- The last 8 bytes of a local store, and a constant segment of 8 bytes. -/
theorem test_hyps_ScalarMemoryForms_bdc :
    let s := b0.setSreg (.bdc 0) 2 0xfff8
    let u := b0.modBdc 0 (fun c => { c with constBase := 64, constSize := 8 })
    s.scalarGo (.bdc 0) .both (.sld 1 2 0) ∧ s.scalarGo (.bdc 0) .both (.sst 2 3 0) ∧
      u.scalarGo (.bdc 0) .both (.sldk 1 0 0) ∧
      (s.sreg (.bdc 0) 2 + BitVec.ofInt 64 (8 * (0 : BitVec 13).toInt)).toNat = 0xfff8 ∧
      ((u.bdc 0).constBase + 0) % 8 = 0 ∧ 0 + 8 ≤ (u.bdc 0).constSize :=
  ⟨go_bdc (by decide +kernel), go_bdc (by decide +kernel), go_bdc (by decide +kernel), by decide +kernel⟩

theorem test_hyps_ScalarMemoryForms_misaligned :
    let s := withS g0 2 0x1e004
    (s.sreg (.group 0) 2 + BitVec.ofInt 64 (8 * (1 : BitVec 13).toInt)).toNat % 8 ≠ 0 ∧
      s.scalarGo (.group 0) .both (.sld 1 2 1) ∧ s.scalarGo (.group 0) .both (.sst 2 1 1) ∧
      s.scalarGo (.group 0) .both (.sldk 1 2 0) ∧
      (BitVec.ofNat 64 (s.launchOf 0).constBase + (0x1e004 : Word64)).toNat % 8 ≠ 0 :=
  ⟨by decide +kernel, go_group (by decide +kernel), go_group (by decide +kernel), go_group (by decide +kernel),
    by decide +kernel⟩

/-- Offsets of `SLDK` before and just beyond 4 KiB of constants; an address just beyond the local store. -/
theorem test_hyps_ScalarMemoryForms_bounds :
    let s := withS g0 2 0x1000
    let m := withS g0 2 0
    let b := b0.setSreg (.bdc 0) 2 0x10000
    let o : Word64 := s.sreg (.group 0) 2 + BitVec.ofInt 64 (8 * (0 : BitVec 13).toInt)
    let n : Word64 := m.sreg (.group 0) 2 + BitVec.ofInt 64 (8 * (-1 : BitVec 13).toInt)
    s.scalarGo (.group 0) .both (.sldk 1 2 0) ∧ m.scalarGo (.group 0) .both (.sldk 1 2 (-1)) ∧
      b.scalarGo (.bdc 0) .both (.sld 1 2 0) ∧ b.scalarGo (.bdc 0) .both (.sst 2 1 0) ∧
      b.scalarGo (.bdc 0) .both (.sldk 1 2 0) ∧ (BitVec.ofNat 64 (s.launchOf 0).constBase + o).toNat % 8 = 0 ∧
      ((s.headerOf 0).constSize : Int) < o.toInt + 8 ∧ n.toInt < 0 ∧
      (BitVec.ofNat 64 (m.launchOf 0).constBase + n).toNat % 8 = 0 ∧ (b.sreg (.bdc 0) 2).toNat % 8 = 0 ∧
      65536 < (b.sreg (.bdc 0) 2).toNat + 8 ∧ (b.bdc 0).constBase % 8 = 0 ∧ (b.bdc 0).constSize ≤ 0x10000 :=
  ⟨go_group (by decide +kernel), go_group (by decide +kernel), go_bdc (by decide +kernel), go_bdc (by decide +kernel),
    go_bdc (by decide +kernel), by decide +kernel⟩

theorem test_hyps_ExitForms :
    g0.scalarGo (.group 0) .both .exit ∧ b0.scalarGo (.bdc 0) .both .exit ∧ (b0.bdc 0).lid = some 0 ∧
      (tabFind b0.launches 0).isSome = true ∧ (b0.launch 0).failed = false :=
  ⟨go_group (by decide +kernel), go_bdc (by decide +kernel), by decide +kernel⟩

theorem test_hyps_JoinRegister :
    g0.scalarGo (.group 0) .computeOnly (.setjoin 5) ∧ (paired g0).scalarGo (.group 0) .computeOnly (.setjoin 5) ∧
      (g0.group 0).converged = false ∧ ((paired g0).group 0).converged = true :=
  ⟨go_group (by decide +kernel), go_group (by decide +kernel), by decide +kernel⟩

/-- A group with its join register set and predicate 3 true in lane 0. -/
def diverging : State :=
  withG g0 (fun g => { g with jv := true, joinpc := 0x10040, preds := [(3, 1)] })

theorem test_hyps_DivergenceForms :
    let s := diverging
    let j := withG g0 (fun g => { g with stack := [{ isElse := false, fmt := 0, mask := 3, pc := 0x10040 }] })
    (∀ word ∈ ([(s, .computeOnly, .divergence 3 false 4), (g0, .computeOnly, .divergence 3 true 4),
        (j, .computeOnly, .join),
        (g0, .computeOnly, .join)] : List (State × Kinds × Instr)), word.1.scalarGo (.group 0) word.2.1 word.2.2) ∧
      (s.group 0).converged = false ∧ 3 < (s.group 0).p ∧ s.lanesIssued 0 = true ∧ (s.group 0).jv = true ∧
      (s.group 0).stack.length ≤ 30 ∧ (g0.group 0).jv = false ∧ (j.group 0).stack.length = 1 ∧
      (j.group 0).converged = false ∧ (g0.group 0).stack = [] :=
  ⟨go_groups (by decide +kernel), by decide +kernel⟩

/-- A stack that is full: one entry more does not fit (R141). -/
theorem test_hyps_DivergenceForms_full :
    let s := withG diverging (fun g =>
      { g with stack := List.replicate 256 { isElse := true, fmt := 0, mask := 1, pc := 0x10000 } })
    s.scalarGo (.group 0) .computeOnly (.divergence 3 false 4) ∧ (s.group 0).jv = true ∧
      256 < (s.group 0).stack.length + 1 ∧ s.lanesIssued 0 = true :=
  ⟨go_group (by decide +kernel), by decide +kernel⟩

/-- Entries enough to spill one: pushes of one entry onto 32 and of two onto 31, and a pop of 33 to 32, in a world whose
context area at 0x1000000 has one core's part. What reaches the slot is the oldest entry, what comes back is what is there. -/
theorem test_hyps_DivergenceForms_spills :
    let e (pc : Nat) : StackEntry := { isElse := false, fmt := 0, mask := 3, pc := pc }
    let at_ (s : State) (n : Nat) := (withG s (fun g => { g with stack := List.replicate (n - 1) (e 0x10000) ++ [e 0x10040] })).modWorld 1
      (fun w => { w with areas := (0, some { base := 0x1000000, bytes := 0x81000, cores := [0] }) :: w.areas })
    let one := withG (at_ diverging 32) (fun g => { g with preds := [] })
    let two := at_ diverging 31
    let j := at_ g0 33
    let p := 0x1001000
    one.scalarGo (.group 0) .computeOnly (.divergence 3 false 4) ∧ two.scalarGo (.group 0) .computeOnly (.divergence 3 false 4) ∧
      j.scalarGo (.group 0) .computeOnly .join ∧ one.reachesRow 1 p ∧ two.reachesRow 1 p ∧ j.reachesRow 1 p ∧
      one.worldOf 0 = 1 ∧ (one.group 0).stack.length = 32 ∧ (two.group 0).stack.length = 31 ∧
      (one.group 0).stack[31]? = some (e 0x10040) ∧ (two.group 0).stack[30]? = some (e 0x10040) ∧
      (∀ s ∈ [one, two, j], s.spillPa 0 0 = some p) ∧ p % 64 + 32 ≤ 64 ∧ one.lanesIssued 0 = true ∧ two.lanesIssued 0 = true ∧
      (∀ s ∈ [one, two], after (exec (.divergence 3 false 4) s) (fun t =>
        (t.group 0).stack.length == 33 && t.memByte p == 0x40 && t.memByte (p + 8) == 3) = true) ∧
      after (exec .join j) (fun t => (t.group 0).stack.length == 32 && (t.group 0).stack[31]?.map (·.pc) == some 0) = true :=
  ⟨go_group (by decide +kernel), go_group (by decide +kernel), go_group (by decide +kernel),
    row_free (by decide +kernel),
    row_free (by decide +kernel), row_free (by decide +kernel), by decide +kernel⟩

/-- A converged pair whose halves are ready to diverge. -/
def pairDiverging : State := paired (withG diverging (fun g => { g with stack :=
  [{ isElse := false, fmt := 0, mask := 3, pc := 0x10040 }] }))

theorem test_hyps_DivergenceInPair :
    let s := pairDiverging
    s.scalarGo (.group 0) .computeOnly (.divergence 3 false 4) ∧ s.scalarGo (.group 0) .computeOnly .join ∧
      (s.group 0).converged = true ∧ (s.group 1).converged = true ∧ s.live 1 = true ∧ 3 < (s.group 0).p ∧
      s.lanesIssued 0 = true ∧ (s.group 0).jv = true ∧ (s.group 1).jv = true ∧ (s.group 0).stack.length = 1 ∧
      (s.group 1).stack.length = 1 :=
  ⟨go_group (by decide +kernel), go_group (by decide +kernel), by decide +kernel⟩

/-- One group, a pair whose halves agree, and one whose halves part. -/
theorem test_hyps_UniformBranches :
    let s := pairDiverging
    let u := s.modGroup 1 (fun g => { g with preds := [] })
    diverging.scalarGo (.group 0) .computeOnly (.bany 3 false 4) ∧
      s.scalarGo (.group 0) .computeOnly (.ball 3 false 4) ∧ u.scalarGo (.group 0) .computeOnly (.bany 3 false 4) ∧
      diverging.lanesIssued 0 = true ∧ (diverging.group 0).converged = false ∧ s.lanesIssued 0 = true ∧
      (s.group 0).preds = (s.group 1).preds ∧ u.lanesIssued 0 = true ∧ u.live 1 = true ∧
      (u.group 0).converged = true ∧ (u.group 0).exm &&& tabGet 0 (u.group 0).preds 3 ≠ 0 ∧
      (u.group 1).exm &&& tabGet 0 (u.group 1).preds 3 = 0 :=
  ⟨go_group (by decide +kernel), go_group (by decide +kernel), go_group (by decide +kernel), by decide +kernel⟩

theorem test_hyps_MaskForms :
    let t := (paired g0).modGroup 0 (fun g => { g with split := true })
    let u := { t with groups := t.groups.take 1 }
    (∀ word ∈ ([(g0, .computeOnly, .setexm 5 0), (paired g0, .computeOnly, .setexm 5 2),
        (g0, .computeOnly, .getexm 5 false), (paired g0, .computeOnly, .getexm 5 true),
        (g0, .computeOnly, .twjoin), (t, .computeOnly, .twjoin),
        (u, .computeOnly, .twjoin)] : List (State × Kinds × Instr)), word.1.scalarGo (.group 0) word.2.1 word.2.2) ∧
      g0.lanesCompleted 0 = true ∧ (paired g0).lanesCompleted 0 = true ∧ (g0.group 0).twin = false ∧
      (t.group 0).twin = true ∧ (t.group 0).split = true ∧ t.lanesIssued 0 = true ∧ t.lanesCompleted 0 = true ∧
      t.guardedCmd 0 = false ∧ t.live (partnerOf 0) = true ∧ (t.group (partnerOf 0)).rdv = none ∧
      u.live (partnerOf 0) = false :=
  ⟨go_groups (by decide +kernel), by decide +kernel⟩

theorem test_hyps_LaneQueueForms :
    let h := withG g0 (fun g => { g with trapMode := true })
    g0.scalarGo (.group 0) .computeOnly (.run (some 7) 0x1fffff) ∧ h.scalarGo (.group 0) .computeOnly (.run none 0) ∧
      (paired g0).scalarGo (.group 0) .computeOnly (.run (some 7) 0) ∧ (g0.group 0).trapMode = false ∧
      (g0.group 0).converged = false ∧ (g0.group 0).laneq.length < 8 ∧ (g0.guard 0 7).count < 14 ∧
      (h.group 0).trapMode = true ∧ ((paired g0).group 1).laneq.length < 8 ∧ (paired g0).live 1 = true :=
  ⟨go_group (by decide +kernel), go_group (by decide +kernel), go_group (by decide +kernel), by decide +kernel⟩

/-- The guard forms with guard 2 unused, counted, pending, and resolved either way. -/
theorem test_hyps_LaneQueueForms_guards :
    let c := withG g0 (fun g => { g with guards := [(2, { st := .pending, count := 1 })] })
    let p := withG g0 (fun g => { g with guards := [(2, { st := .pending, count := 0 })] })
    let t := withG g0 (fun g => { g with guards := [(2, { st := .resolvedTrue, count := 0 })] })
    let f := withG g0 (fun g => { g with guards := [(2, { st := .resolvedFalse, count := 0 })] })
    (∀ word ∈ ([(c, .computeOnly, .gclr 2), (t, .computeOnly, .gclr 2), (t, .computeOnly, .grd 2),
        (p, .computeOnly, .grd 2), (t, .computeOnly, .bg 2 (-3)), (f, .computeOnly, .bg 2 (-3)),
        (p, .computeOnly, .bg 2 (-3))] : List (State × Kinds × Instr)), word.1.scalarGo (.group 0) word.2.1 word.2.2) ∧
      (c.guard 0 2).count = 1 ∧ (t.guard 0 2).count = 0 ∧ (t.guard 0 2).st = .resolvedTrue ∧
      (p.guard 0 2).st = .pending ∧ (f.guard 0 2).st = .resolvedFalse :=
  ⟨go_groups (by decide +kernel), by decide +kernel⟩

/-- FMT values that R47 calls legal and illegal, for each kind of stream. -/
theorem test_hyps_FormatForms :
    (∀ word ∈ ([(g0, .both, .setfmt 0), (g0, .both, .setfmt 0x3fff), (paired g0, .both, .setfmt 0),
        (g0, .both, .setfmtr 5 2), (withS g0 5 0x4000, .both, .setfmtr 5 0),
        (paired g0, .both, .setfmtr 5 1),
        (paired g0, .both, .getfmt 1 true)] : List (State × Kinds × Instr)), word.1.scalarGo (.group 0) word.2.1 word.2.2) ∧
      b0.scalarGo (.bdc 0) .both (.setfmt 0) ∧ b0.scalarGo (.bdc 0) .both (.setfmtr 5 1) ∧
      b0.scalarGo (.bdc 0) .both (.getfmt 1 false) ∧ fmtLegal 0 = true ∧ fmtLegal 0x3fff = false ∧
      2 ^ 14 ≤ ((withS g0 5 0x4000).sreg (.group 0) 5).toNat :=
  ⟨go_groups (by decide +kernel), go_bdc (by decide +kernel), go_bdc (by decide +kernel), go_bdc (by decide +kernel),
    by decide +kernel⟩

theorem test_hyps_SpecialRegisterReads :
    g0.scalarGo (.group 0) .both (.sprr 1 0x14 false) ∧ g0.lanesCompleted 0 = true ∧
      g0.scalarGo (.group 0) .both (.sprr 1 0x0d false) ∧ b0.scalarGo (.bdc 0) .both (.sprr 1 0x22 false) ∧
      b0.scalarGo (.bdc 0) .both (.sprr 1 0x02 false) ∧ (paired g0).scalarGo (.group 0) .both (.sprr 1 0x02 true) :=
  ⟨go_group (by decide +kernel), by decide +kernel, go_group (by decide +kernel), go_bdc (by decide +kernel),
    go_bdc (by decide +kernel), go_group (by decide +kernel)⟩

theorem test_hyps_SpecialRegisterWrites :
    let h := withG g0 (fun g => { g with trapMode := true })
    let f := withS g0 5 0x3fff
    (∀ word ∈ ([(g0, .both, .sprw 0x00 false 5), (g0, .both, .sprw 0x7f false 5),
        (f, .both, .sprw 0x01 false 5), (g0, .both, .sprw 0x14 false 5), (h, .both, .sprw 0x19 false 5),
        (g0, .both, .sprw 0x1a false 5), (paired h, .both, .sprw 0x1a true 5),
        (g0, .both, .sprw 0x0c false 5)] : List (State × Kinds × Instr)), word.1.scalarGo (.group 0) word.2.1 word.2.2) ∧
      b0.scalarGo (.bdc 0) .both (.sprw 0x00 false 5) ∧ b0.scalarGo (.bdc 0) .both (.sprw 0x01 false 5) ∧
      b0.scalarGo (.bdc 0) .both (.sprw 0x22 false 5) ∧ b0.scalarGo (.bdc 0) .both (.sprw 0x02 false 5) ∧
      (b0.setSreg (.bdc 0) 5 0x3fff).scalarGo (.bdc 0) .both (.sprw 0x01 false 5) ∧ g0.lanesCompleted 0 = true ∧
      fmtLegal ((f.sreg (.group 0) 5).toNat % 2 ^ 14) = false ∧ (h.group 0).trapMode = true ∧
      (g0.group 0).trapMode = false :=
  ⟨go_groups (by decide +kernel), go_bdc (by decide +kernel), go_bdc (by decide +kernel), go_bdc (by decide +kernel),
    go_bdc (by decide +kernel), go_bdc (by decide +kernel), by decide +kernel⟩

/-- The placed world with class 3 routed to the kernel, the launch with a handler. -/
def routing : State :=
  (g0.modWorld 1 (fun w => { w with route := 0xffff })).modLaunch 0 (fun l => { l with hoff := 0x100 })

theorem test_hyps_TrapEntryRouted :
    let s := routing
    s.scalarGo (.group 0) .both (.trap 0x7ffff) ∧ b0.scalarGo (.bdc 0) .both (.brk 0) ∧ s.live 0 = true ∧
      s.ctxOf 0 = 0 ∧ (s.group 0).trapMode = false ∧ s.routed 0 3 = true ∧
      (s.world (s.worldOf 0)).dbg.attach = false ∧ s.takesOn 0 = false ∧ (s.group 0).converged = false :=
  ⟨go_group (by decide +kernel), go_bdc (by decide +kernel), by decide +kernel⟩

theorem test_hyps_RingTermination :
    g0.live 0 = true ∧ g0.ctxOf 0 = 0 ∧ (g0.group 0).trapMode = false ∧ g0.routed 0 3 = false ∧
      g0.takesOn 0 = false ∧ (g0.world (g0.worldOf 0)).dbg.attach = false ∧ (g0.group 0).tid = 0 / 16 ∧
      (tabFind g0.troupes 0).isSome = true ∧ (tabFind g0.launches (g0.troupe 0).lid).isSome = true ∧
      (g0.launch (g0.troupe 0).lid).failed = false ∧ (g0.group 0).adrift = [] := by
  decide +kernel

/-- A group with a detached message command, which outlives its ring (R226). -/
theorem test_hyps_RingTermination_detached :
    let c : Cmd := { path := .bank, seq := 0, op := .bnk true, d := 1, a := 0, b := 2, f := 0, started := true, accepted := true,
                     detached := true }
    let s := withG g0 (fun g => { g with engq := [c] })
    (s.group 0).adrift = [c] ∧ 0 ∈ s.launchGroups 0 ∧
      (let t := s.trap (.group 0) 3 0 0
       (t.group 0).ended && (t.group 0).engq == [c] && (t.launch 0).failed) = true := by
  decide +kernel

theorem test_hyps_ReturnFromTrap :
    let h := withG g0 (fun g => { g with trapMode := true, tepc := 0x10010, tcause := 0x10 })
    let m := withG g0 (fun g => { g with trapMode := true, tepc := 0x10012 })
    g0.scalarGo (.group 0) .both .rte ∧ h.scalarGo (.group 0) .both .rte ∧ m.scalarGo (.group 0) .both .rte ∧
      b0.scalarGo (.bdc 0) .both .rte ∧ (g0.group 0).trapMode = false ∧ (h.group 0).trapMode = true ∧
      (h.group 0).tepc % 4 = 0 ∧ (h.group 0).tcause.getLsbD 6 = false ∧ (h.group 0).tcause.getLsbD 7 = false ∧
      (m.group 0).tepc % 4 ≠ 0 :=
  ⟨go_group (by decide +kernel), go_group (by decide +kernel), go_group (by decide +kernel),
    go_bdc (by decide +kernel), by decide +kernel⟩

theorem test_hyps_TrapOfBaseDieCore :
    (b0.bdc 0).lid = some 0 ∧ (tabFind b0.launches 0).isSome = true ∧ (b0.launch 0).failed = false := by
  decide +kernel

/-- A load of s2 that is still outstanding. -/
def loading : State :=
  withG g0 (fun g =>
    { g with accs := [{ aid := 4, path := .const, op := .load false, space := .mem, size := 8, scope := .dev,
                        lanes := [{ lane := 64, addr := 0x1e000, pa := 0x1e000, stage := .ready, ro := false }],
                        dest := .sreg 2, pc := 0x10000, laneWord := false }] })

theorem test_hyps_ScalarWordsHeld :
    b0.running = some (.bdc 0) ∧ agentKind (.bdc 0) = .base ∧ g0.running = some (.group 0) ∧
      agentKind (.group 0) = .compute ∧ loading.running = some (.group 0) ∧
      (loading.scalarPending 0 (.add 1 2 3)).map (fun p => p.2.refusal) = some none ∧
      coreOk .base (.divergence 3 false 4) = false ∧ (encodeScalar (.divergence 3 false 4)).isSome = true ∧
      coreOk .compute (.brun 1 2 3) = false ∧ coreOk .compute (.setfmtr 0 3) = true ∧ fieldOk (.setfmtr 0 3) = false ∧
      (encodeScalar (.setfmtr 0 3)).isSome = true := by
  decide +kernel

/-- Operands of a copy of one row of 64 bytes, of a gather and of a collective (R219, R221, R222). -/
theorem test_hyps_EngineIssue :
    let s := withS (withS (withS g0 1 0) 2 0x10000) 3 0x0000000000100040
    let bound := spadBytes (s.headerOf 0)
    let vb := s.sreg (.group 0) 3
    s.scalarGo (.group 0) .computeOnly (.cpy (some 7) .ms 1 2 3) ∧
      (cpyRowb vb = 0 ∨ ∀ r, r < cpyRows vb → 0 + r * cpyDpitch vb + cpyRowb vb ≤ bound) ∧
      (s.group 0).count .copy < 63 ∧ (s.guard 0 7).count < 15 ∧ s.needsTake 0 = false ∧ (cpyMem .ms).1 = true ∧
      (cpyMem .ms).2 = false ∧ (s.sreg (.group 0) 1).toNat < 2 ^ 35 :=
  ⟨go_group (by decide +kernel), Or.inr (by decide +kernel), by decide +kernel⟩

theorem test_hyps_EngineIssue_lists :
    let s := withS (withS (withS g0 1 0) 2 0x10000) 3 0
    let bound := spadBytes (s.headerOf 0)
    let vb := s.sreg (.group 0) 3
    s.scalarGo (.group 0) .computeOnly (.cpyw none .mm 1 2 3) ∧ s.scalarGo (.group 0) .computeOnly (.gth none 1 2 3) ∧
      s.scalarGo (.group 0) .computeOnly (.sct none 2 1 3) ∧ (s.sreg (.group 0) 4).toNat % 8 = 0 ∧
      (s.group 0).count .gath < 63 ∧ vb.toNat < 5 * 2 ^ 48 ∧ gthIdx vb % 4 = 0 ∧
      (s.sreg (.group 0) 2).toNat % gthElem vb = 0 ∧ (s.sreg (.group 0) 1).toNat < 2 ^ 35 ∧
      (∀ r, r < 1 → gthIdx vb + r * 0 + 4 * gthCount vb ≤ bound) ∧
      (∀ r, r < 1 → 0 + r * 0 + gthCount vb * gthElem vb ≤ bound) :=
  ⟨go_group (by decide +kernel), go_group (by decide +kernel), go_group (by decide +kernel), by decide +kernel⟩

theorem test_hyps_EngineIssue_others :
    let s := withS (withS g0 2 0) 3 0
    s.scalarGo (.group 0) .computeOnly (.coll none .bcast 1 2 3) ∧
      s.scalarGo (.group 0) .computeOnly (.bnk none true 1 2 3) ∧ (s.group 0).count .coll < 63 ∧
      s.anyParked 0 = false ∧ (s.sreg (.group 0) 3).toNat / 2 ^ 16 % 16 < 5 ∧ (s.sreg (.group 0) 2).toNat < 2 ^ 32 ∧
      (s.world (s.worldOf 0)).slices[(s.sreg (.group 0) 2).toNat % 256]? = some 0 :=
  ⟨go_group (by decide +kernel), go_group (by decide +kernel), by decide +kernel⟩

/-- A command with a reserved bit of an offset set, one that starts at the bound of the scratchpad, a flag address that is
misaligned, and a slice index that the world does not have. -/
theorem test_hyps_EngineIssueTraps :
    let s := withS g0 1 (2 ^ 35)
    let o := withS (withS g0 1 131072) 3 0x0000000000100040
    let f := withS g0 4 0x1e004
    let x := withS g0 4 (6 * 2 ^ 57)
    let z := withS g0 3 (5 * 2 ^ 48)
    let m := withS g0 3 2
    let c := withS g0 3 0x50000
    let n := withS g0 2 255
    let b := withS g0 2 (2 ^ 32)
    let r := withS g0 2 0x100
    let u := withS (withS g0 2 0x1e002) 3 0x2000000000000
    (∀ word ∈ ([(s, .computeOnly, .cpy none .ms 1 2 3), (s, .computeOnly, .cpy none .sm 2 1 3),
        (o, .computeOnly, .cpy none .ms 1 2 3), (f, .computeOnly, .cpyw none .mm 1 2 3),
        (x, .computeOnly, .cpyw none .mm 1 2 3), (z, .computeOnly, .gth none 1 2 3),
        (z, .computeOnly, .sct none 1 2 3), (m, .computeOnly, .gth none 1 2 3),
        (s, .computeOnly, .gth none 1 2 3), (s, .computeOnly, .sct none 2 1 3), (m, .computeOnly, .sct none 1 2 3),
        (u, .computeOnly, .gth none 1 2 3), (u, .computeOnly, .sct none 2 1 3), (r, .computeOnly, .bnk none false 1 2 3),
        (c, .computeOnly, .coll none .allred 1 2 3), (b, .computeOnly, .bnk none false 1 2 3),
        (n, .computeOnly, .bnk none false 1 2 3)] : List (State × Kinds × Instr)), word.1.scalarGo (.group 0) word.2.1 word.2.2) ∧
      2 ^ 35 ≤ (s.sreg (.group 0) 1).toNat ∧ spadBytes (o.headerOf 0) ≤ (o.sreg (.group 0) 1).toNat ∧
      0 < cpyRowb (o.sreg (.group 0) 3) ∧ 0 < cpyRows (o.sreg (.group 0) 3) ∧ (f.sreg (.group 0) 4).toNat % 8 ≠ 0 ∧
      5 * 2 ^ 48 ≤ (z.sreg (.group 0) 3).toNat ∧ (m.sreg (.group 0) 3).toNat % 4 ≠ 0 ∧
      (u.sreg (.group 0) 3).toNat < 5 * 2 ^ 48 ∧ (u.sreg (.group 0) 3).toNat % 4 = 0 ∧ (u.sreg (.group 0) 1).toNat < 2 ^ 35 ∧
      (u.sreg (.group 0) 2).toNat % gthElem (u.sreg (.group 0) 3) ≠ 0 ∧ (r.sreg (.group 0) 2).toNat / 2 ^ 8 % 2 ^ 8 ≠ 0 ∧
      5 ≤ (c.sreg (.group 0) 3).toNat / 2 ^ 16 % 16 ∧ (n.world (n.worldOf 0)).slices[255]? = none :=
  ⟨go_groups (by decide +kernel), by decide +kernel⟩

/-- Handle 4 names troupe barrier 0 (R311); the placed launch makes group 0 its member. -/
def meeting : State :=
  g0.modLaunch 0 (fun l => { l with hdr := l.hdr.map (fun h => { h with grps := 1, tbar := [(0, 1)], gbar := 1 }) })

/-- A sync, an arrive and a wait of a member; an invalid handle; one of a barrier without this member. -/
theorem test_hyps_BarrierForm :
    let s := meeting
    let e := tabGet 0 (s.world (s.worldOf 0)).handles 4
    let i := s.modWorld 1 (fun w => { w with handles := [] })
    (∀ word ∈ ([(s, .computeOnly, .bar .sync false 4 0 none), (s, .computeOnly, .bar .arrive false 4 0 none),
        (s, .computeOnly, .bar .wait false 4 0 none),
        (i, .computeOnly, .bar .sync false 4 0 none)] : List (State × Kinds × Instr)), word.1.scalarGo (.group 0) word.2.1 word.2.2) ∧
      (s.group 0).converged = false ∧ s.lanesIssued 0 = true ∧ s.anyParked 0 = false ∧ s.takesOn 0 = false ∧
      (s.group 0).resumeWait = [] ∧ (s.troupe 0).replay = [] ∧ e.getLsbD 15 = true ∧ e.toNat / 2 ^ 13 % 4 = 1 ∧ e.toNat / 2 ^ 9 % 16 = 0 ∧
      0 < barrierCount 1 ∧ 0 ∈ s.membersOf 0 1 0 ∧ 0 ∉ s.membersOf 0 1 15 ∧
      tabFind (s.barrier (s.barrierKey 0 1 0)).records 0 = none ∧ (s.world (s.worldOf 0)).dbg.step = none ∧
      (tabGet 0 (i.world (i.worldOf 0)).handles 4).getLsbD 15 = false :=
  ⟨go_groups (by decide +kernel), by decide +kernel⟩

/-- A barrier at which the group has arrived, in the phase that has completed and in the one that has not. -/
theorem test_hyps_BarrierForm_arrived :
    let k := meeting.barrierKey 0 1 0
    let s := { meeting with barriers := [(k, { phase := 1, arrived := [], records := [(0, 0)] })] }
    let u := { meeting with barriers := [(k, { phase := 1, arrived := [0], records := [(0, 1)] })] }
    s.scalarGo (.group 0) .computeOnly (.bar .wait false 4 0 none) ∧
      u.scalarGo (.group 0) .computeOnly (.bar .wait false 4 0 none) ∧
      tabFind (s.barrier (s.barrierKey 0 1 0)).records 0 = some 0 ∧
      tabFind (u.barrier (u.barrierKey 0 1 0)).records 0 = some (u.barrier (u.barrierKey 0 1 0)).phase :=
  ⟨go_group (by decide +kernel), go_group (by decide +kernel), by decide +kernel⟩

/-- Fences of each kind with nothing outstanding, and with a dirty sector in the L1 that a release writes back. -/
theorem test_hyps_FenceForms :
    let s := g0.modCore 0 (fun c => { c with l1 := [(0x400, { world := 1, bytes := [], dirty := 1 })] })
    b0.scalarGo (.bdc 0) .both (.fence .ar .sys) ∧
      (∀ word ∈ ([(g0, .both, .fence .acq .core), (g0, .both, .fence .acq .booth),
        (s, .both, .fence .rel .dev), (g0, .both, .fence .ar .core),
        (g0, .computeOnly, .pfence .copy .ls .dev), (s, .computeOnly, .pfence .ls .copy .dev),
        (s, .computeOnly, .pfence .ls .mtx .grp),
        (g0, .computeOnly, .waitp .ls 0)] : List (State × Kinds × Instr)), word.1.scalarGo (.group 0) word.2.1 word.2.2) ∧
      g0.lanesIssued 0 = true ∧ g0.takesOn 0 = false ∧ g0.anyParked 0 = false ∧ s.lanesIssued 0 = true ∧
      s.takesOn 0 = false ∧ s.anyParked 0 = false ∧
      (∀ k ∈ s.halvesOf 0, s.allPerformed k .sys true = true ∧ s.allPerformed k .sys false = true ∧ s.tookPerformed k .sys = true ∧ s.matrixRead k = true ∧ s.pathPerformed k .copy .dev = true ∧ s.pathPerformed k .ls .dev = true) ∧
      (s.core 0).wbuf = [] ∧ (s.core 0).dirtyBelow .dev = [0x400] ∧ (s.core 0).dirtySectors = [0x400] ∧
      s.canWriteBack 0 0x400 = true ∧ 64 * 0x400 < deviceBytes ∧ tabSorted (s.core 0).l1 = true ∧
      (∀ k ∈ g0.halvesOf 0, g0.allPerformed k .core true = true ∧ g0.tookPerformed k .core = true ∧ g0.matrixRead k = true ∧ (g0.group k).count .ls ≤ 0) :=
  ⟨go_bdc (by decide +kernel), go_groups (by decide +kernel), by decide +kernel⟩

/-- A group that has loaded a byte which lies dirty in its core's L1: the fence writes it back and goes on (R286, R292). -/
theorem test_hyps_FenceForms_took :
    let s := (withG g0 (fun g => { g with took := [.dirty 0x400 1] })).modCore 0
      (fun c => { c with l1 := [(0x400, { world := 1, bytes := [(0, 7)], dirty := 1 })] })
    let core := s.coreOf 0
    s.scalarGo (.group 0) .both (.fence .rel .dev) ∧ s.scalarGo (.group 0) .computeOnly (.pfence .ls .copy .dev) ∧
      s.tookGoes 0 .dev ((s.core core).dirtyBelow .dev) ∧ s.tookGoes 0 .sys (s.core core).dirtySectors ∧
      s.tookPending core .dev (.dirty 0x400 1) = true ∧
      after (exec (.fence .rel .dev) s) (fun t => (t.group 0).pc == 0x10004 && t.memByte 0x10000 == 7) = true :=
  ⟨go_group (by decide +kernel), go_group (by decide +kernel),
    .inr (fun x h _ => ⟨0x400, 1, by revert x h; decide +kernel, by decide +kernel⟩),
    .inr (fun x h _ => ⟨0x400, 1, by revert x h; decide +kernel, by decide +kernel⟩), by decide +kernel⟩

theorem test_hyps_FenceForms_waits :
    let s := withG g0 (fun g => { g with ifc := [(0, 1)] })
    s.scalarGo (.group 0) .computeOnly (.waitp .ls 0) ∧ (∃ k ∈ s.halvesOf 0, 0 < (s.group k).count .ls) ∧
      s.refusedOf 0 = none :=
  ⟨go_group (by decide +kernel), ⟨0, by decide +kernel, by decide +kernel⟩, by decide +kernel⟩

theorem test_hyps_ScalarAtomics :
    let s := withTlb (withS g0 2 0x1e008)
    let m := withS g0 2 0x1e004
    s.scalarGo (.group 0) .computeOnly (.satom .cas .sys 1 2 3) ∧ s.hits 0 0x1e008 .write 0x1e008 true ∧
      m.scalarGo (.group 0) .computeOnly (.satom .add .grp 1 2 3) ∧ (s.sreg (.group 0) 2).toNat % 8 = 0 ∧
      s.takesOn 0 = false ∧ (s.group 0).count .atom < 63 ∧ (s.group 0).accs = [] ∧ 0x1e008 < deviceBytes ∧
      (m.sreg (.group 0) 2).toNat % 8 ≠ 0 :=
  ⟨go_group (by decide +kernel), hits_of (by decide +kernel), go_group (by decide +kernel), by decide +kernel⟩

theorem test_hyps_BaseDieCoreForms :
    let s := b0.setSreg (.bdc 0) 3 0x1ffff
    let f := b0.setSreg (.bdc 0) 2 (2 ^ 21)
    let r := b0.setSreg (.bdc 0) 3 (2 ^ 58)
    let m : Msg := { w0 := 1, w1 := 2, info := 0x0001000000000000, gid := 0, seq := 0 }
    let q := b0.modBdc 0 (fun c => { c with mbx := [m] })
    let o := (b0.modBdc 0 (fun c => { c with opened := [m] })).setSreg (.bdc 0) 5 0x0001000000000000
    (∀ word ∈ ([(b0, .brun 1 2 3), (s, .brun 1 2 3), (f, .brun 1 2 3), (r, .brun 1 2 3), (b0, .mbxget 61 true),
        (b0, .mbxget 1 false), (q, .mbxget 61 false), (b0, .mbxput 5), (o, .mbxput 5)] : List (State × Instr)),
        word.1.scalarGo (.bdc 0) .baseOnly word.2) ∧
      (b0.bdc 0).mbx = [] ∧ (q.bdc 0).mbx = [m] ∧ (b0.bdc 0).opened = [] ∧
      (o.bdc 0).opened = [m] ∧ m.info.toNat % 2 ^ 49 = (o.sreg (.bdc 0) 5).toNat % 2 ^ 49 :=
  ⟨go_bdcs (by decide +kernel), by decide +kernel⟩

/-! ## Lane statements -/

/-- A group without poison reads none. -/
theorem hurt_none {g : Group} (h : g.poison = []) (r : g.headRun.hurt = []) (i : Instr) (l : Nat) :
    g.hurtIn i l = none := by
  have e : ∀ (α : Type) (xs : List α) (f : α → Option Nat), (∀ x, f x = none) → xs.findSome? f = none := by
    intro α xs f hf
    induction xs with
    | nil => rfl
    | cons x xs ih => simp [List.findSome?, hf x, ih]
  unfold Group.hurtIn
  rw [h, r]
  simp only
  rw [e _ _ _ (fun x => by split <;> simp)]
  simp

/-- The conditions of `State.laneIssues`, as a test. -/
def issuesB (s : State) (gid : Nat) (i : Instr) (e : Bool) : Bool :=
  s.cur == .group gid && s.live gid && fieldOk i &&
    (e || decide ((s.group gid).headRun.counted + 1 < 24) || (s.group gid).headRun.rep.isSome) &&
    (operandFault (s.group gid).r (s.group gid).p (s.group gid).w i).isNone

theorem issues_of {s : State} {gid : Nat} {i : Instr} {e : Bool} (h : issuesB s gid i e = true) :
    s.laneIssues gid i e := by
  simp only [issuesB, Bool.and_eq_true, Bool.or_eq_true, beq_iff_eq, decide_eq_true_eq,
    Option.isNone_iff_eq_none] at h
  obtain ⟨⟨⟨⟨h1, h2⟩, h3⟩, h4⟩, h5⟩ := h
  refine ⟨h1, h2, h3, ?_, h5⟩
  rcases h4 with (h4 | h4) | h4
  · exact .inl h4
  · exact .inr (.inl h4)
  · refine .inr (.inr ?_)
    intro n
    rw [n] at h4
    cases h4

/-- The conditions of `State.laneGo` for a group without poison, as a test. -/
def laneGoB (s : State) (gid : Nat) (i : Instr) (h : LaneHead) : Bool :=
  let g := s.group gid
  issuesB s gid i h.e && g.executes h && (g.vregPending i).isNone && (s.svalPending gid i).isNone &&
    !s.arrayPending gid i && (s.queueMisuse gid i (g.pushes h)).isNone && (s.queueWait gid i (g.pushes h)).isNone &&
    g.poison == [] && g.headRun.hurt == []

theorem lane_go {s : State} {gid : Nat} {i : Instr} {h : LaneHead} (b : laneGoB s gid i h = true) :
    s.laneGo gid i h := by
  simp only [laneGoB, Bool.and_eq_true, Option.isNone_iff_eq_none, beq_iff_eq, Bool.not_eq_true'] at b
  obtain ⟨⟨⟨⟨⟨⟨⟨⟨a, c⟩, d⟩, e⟩, f⟩, g⟩, k⟩, m⟩, n⟩ := b
  exact ⟨issues_of a, c, ⟨d, e, f⟩, g, k, fun l => hurt_none m n i l⟩

theorem lane_goes {l : List (State × Instr × LaneHead)} (b : ∀ p ∈ l, laneGoB p.1 0 p.2.1 p.2.2 = true) :
    ∀ p ∈ l, p.1.laneGo 0 p.2.1 p.2.2 := fun p m => lane_go (b p m)

/-- The fields of a word without modifiers and predicate that ends its run. -/
def hd (d a b c : BitVec 9) : LaneHead :=
  { vd := d, va := a, vb := b, vc := c, ma := ⟨0, 0⟩, mb := ⟨0, 0⟩, mc := ⟨0, 0⟩, md := ⟨0, 0, 0⟩, pr := 127,
    pn := false, u := false, e := true, k := false, alw := false }

/-- `h` with a destination modifier. -/
def withMd (h : LaneHead) (sz : BitVec 2) (ix rm : BitVec 3) : LaneHead := { h with md := ⟨sz, ix, rm⟩ }

theorem test_hyps_LaneIntegerForms :
    (∀ word ∈ ([(l0, .iadd (hd 1 2 3 0) none, hd 1 2 3 0), (l0, .iadd (hd 1 2 0 0) (some 0x3fff), hd 1 2 0 0),
        (l0, .imad (hd 383 2 3 4) none, hd 383 2 3 4), (l0, .iabs (hd 1 2 0 0), hd 1 2 0 0),
        (l0, .bfe (hd 1 2 0 0) 31 32 true, hd 1 2 0 0),
        (l0, .bfi (hd 1 2 3 0) 0 32, hd 1 2 3 0)] : List (State × Instr × LaneHead)), word.1.laneGo 0 word.2.1 word.2.2) :=
  lane_goes (by decide +kernel)

/-- FMT values and modifiers of the clauses: I8, U8, I4, U4 (R47, R67, R70). -/
theorem test_hyps_IntegerNarrowing :
    (2 : Word32).toNat % 4 = 2 ∧ (3 : Word32).toNat % 4 = 3 ∧ (16 : Word32).toNat / 16 % 4 = 1 ∧
      (32 : Word32).toNat / 16 % 4 = 2 ∧ (3 : BitVec 3).toNat < 4 := by
  decide

/-- R67: 300 into a signed byte at index 3 saturates and raises SAT and NV; the other bytes stay. -/
theorem test_narrow_byte : narrowI 2 ⟨1, 3, 0⟩ 0x11223344 300 = (0x7f223344, flSat ||| flNv) := by decide +kernel

theorem test_hyps_LaneFloatForms :
    let h2 := withMd (hd 1 2 3 0) 0 0 6
    let h3 := withMd (hd 1 2 3 4) 0 0 6
    let h1 := withMd (hd 1 2 0 0) 0 0 6
    (∀ word ∈ ([(l0, .fadd h2 .f16x2, h2), (l0, .ffma h3 .f32, h3), (l0, .fmin (hd 1 2 3 0) .bf16x2, hd 1 2 3 0),
        (l0, .fclass (hd 1 2 0 0) .f32, hd 1 2 0 0), (l0, .frnd h1 .f32 true, h1), (l0, .cvt h1 .f32 .i32, h1),
        (l0, .tanh h1, h1),
        (l0, .fcmp (hd 0 2 3 0) .f16x2 94 .un, hd 0 2 3 0)] : List (State × Instr × LaneHead)), word.1.laneGo 0 word.2.1 word.2.2) :=
  lane_goes (by decide +kernel)

/-- A quiet and a signalling NaN, a finite value and the infinities (R58, R59). -/
theorem test_hyps_FloatRules :
    (0x7f800000 < 0x7fc00000 % 2 ^ 31) ∧ (0xff800001 : Nat) < 2 ^ 32 ∧ 0x7f800000 < 0xff800001 % 2 ^ 31 ∧
      xIsNan (rawVal .f32 0x7f800001) = true ∧ xIsNan (rawVal .f32 0x3f800000) = false ∧
      0x80000001 % 2 ^ 31 < 0x7f800000 := by
  decide +kernel

theorem test_hyps_LanePredicatesAndMoves :
    (∀ word ∈ ([(l0, .icmp (hd 0 2 3 0) 95 .gen, hd 0 2 3 0), (l0, .pand (hd 0 0 0 0) 1 2 true, hd 0 0 0 0),
        (l0, .ptoi (hd 1 0 0 0) 95, hd 1 0 0 0), (l0, .sel (hd 1 2 3 0) 4 true, hd 1 2 3 0),
        (l0, .mov (hd 1 2 0 0), hd 1 2 0 0), (l0, .limm (hd 1 0 511 255) 0x7fff, hd 1 0 511 255),
        (l0, .cadd128 (hd 380 4 8 0) false, hd 380 4 8 0),
        (l0, .rngx (hd 4 8 12 0) true, hd 4 8 12 0)] : List (State × Instr × LaneHead)), word.1.laneGo 0 word.2.1 word.2.2) :=
  lane_goes (by decide +kernel)

/-- A group of 64 lanes, for a ballot of two registers (R182). -/
def wide : State := withG l0 (fun g => { g with w := 64, exm := allLanes 64 })

theorem test_hyps_CrossLaneForms :
    (∀ word ∈ ([(l0, .shfl (hd 1 2 3 0) .up 127 none, hd 1 2 3 0),
        (l0, .shfl (hd 1 2 0 0) .xor 5 (some 31), hd 1 2 0 0),
        (l0, .vote (hd 1 0 0 0) 3 true .ballot, hd 1 0 0 0), (l0, .redux (hd 1 2 0 0) .imin, hd 1 2 0 0),
        (l0, .scan (hd 1 2 0 0) .fadd true, hd 1 2 0 0),
        (l0, .demote (hd 0 0 0 0), hd 0 0 0 0)] : List (State × Instr × LaneHead)), word.1.laneGo 0 word.2.1 word.2.2) ∧
      (∀ m ∈ (l0.group 0).poison, m.file ≠ 0) ∧ (l0.group 0).w ≠ 64 ∧ redFloat .imin = false ∧ redFloat .fadd = true :=
  ⟨lane_goes (by decide +kernel), by decide +kernel⟩

theorem test_hyps_CrossLaneForms_wide : wide.laneGo 0 (.vote (hd 1 0 0 0) 3 true .ballot) (hd 1 0 0 0) ∧ (wide.group 0).w = 64 :=
  ⟨lane_go (by decide +kernel), by decide +kernel⟩

theorem test_hyps_CrossLaneForms_floats :
    l0.laneGo 0 (.redux (hd 1 2 0 0) .fmax) (hd 1 2 0 0) ∧ RedOp.fmax ≠ .fadd ∧ redFloat .fmax = true ∧
      l0.laneGo 0 (.redux (hd 1 2 0 0) .fadd) (hd 1 2 0 0) ∧ l0.laneGo 0 (.scan (hd 1 2 0 0) .iadd false) (hd 1 2 0 0) ∧
      (let s := withG l0 (fun g => { g with laneq := g.laneq.map (fun r => { r with exm := 1 }) })
       lanesOf (s.group 0).w ((s.group 0).laneSet (hd 1 2 0 0)) = [0]) :=
  ⟨lane_go (by decide +kernel), by decide +kernel, by decide +kernel, lane_go (by decide +kernel),
    lane_go (by decide +kernel), by decide +kernel⟩

/-- `SCAN.fadd` adds from the lowest lane on: 2^24, 1 and 1 in lanes 0 to 2 give 2^24 in lane 2, which another grouping
would make 2^24 + 2 (R183). -/
theorem test_scan_fadd_order :
    let s := withG l0 (fun g => { g with
      laneq := g.laneq.map (fun r => { r with exm := 7 })
      vregs := [(128, 0x4b800000), (129, 0x3f800000), (130, 0x3f800000)] })
    after (exec (.scan (hd 1 2 0 0) .fadd false) s) (fun t =>
      (t.group 0).vr 1 0 == 0x4b800000 && (t.group 0).vr 1 2 == 0x4b800000) = true := by
  decide +kernel

/-- A pair before a `VGUARD`: the lead's half, and the double's after the lead has voted. -/
def pairLane : State := paired l0

theorem test_hyps_GuardVote :
    let d := { pairLane.modGroup 0 (fun g => { g with vote := some (7, true, true, false) }) with cur := .group 1 }
    l0.laneIssues 0 (.vguard (hd 0 0 0 0) 7 true 3 false) true ∧
      pairLane.laneIssues 0 (.vguard (hd 0 0 0 0) 7 true 3 false) true ∧
      d.laneIssues 1 (.vguard (hd 0 0 0 0) 7 true 3 false) true ∧ (l0.group 0).poison = [] ∧
      (l0.group 0).converged = false ∧ (pairLane.group 0).converged = true ∧ (pairLane.group 0).isDouble = false ∧
      (d.group 1).converged = true ∧ (d.group 1).isDouble = true ∧ d.live (leadOf 1) = true ∧
      (d.group (leadOf 1)).vote = some (7, true, true, false) :=
  ⟨issues_of (by decide +kernel), issues_of (by decide +kernel), issues_of (by decide +kernel), by decide +kernel⟩

/-- Two groups of one troupe, the first before a `REGROUP` with group 1, which scalar register 1 of the run names. -/
def pairing : State :=
  let s := l0.modLaunch 0 (fun l => { l with hdr := l.hdr.map (fun h => { h with grps := 3 }) })
  let g := s.group 0
  let q := { g with laneq := g.laneq.map (fun r => { r with svals := [(1, 1)] }) }
  { s with groups := [(0, q), (1, { q with grpid := 1 })] }

theorem test_hyps_RegroupForms :
    let s := pairing
    let u := { s with groups := s.groups.take 1 }
    let i := Instr.regroup (hd 0 8 385 0) 4 5
    s.laneIssues 0 i true ∧ s.laneFree 0 i ∧ u.laneIssues 0 i true ∧ (s.group 0).twin = false ∧
      (s.group 0).stack = [] ∧ (s.group 0).headRun.regroup = none ∧ s.queueMisuse 0 i false = none ∧
      s.queueWait 0 i false = none ∧ (s.group 0).poison = [] ∧
      ((s.wordEnv 0 i).raw 385 (lowestLane 16 (s.group 0).runActive)).toNat = 1 ∧ 1 < (s.headerOf 0).grps ∧
      s.live (16 * (s.group 0).tid + 1) = true ∧ u.live (16 * (u.group 0).tid + 1) = false :=
  ⟨issues_of (by decide +kernel), lane_free (by decide +kernel), issues_of (by decide +kernel), by decide +kernel⟩

/-- Both groups have come to the rendezvous, with eight lanes each, and with sixteen each. -/
def met (lanes : Nat) : State :=
  let r : Rendezvous := { partner := some 1, vbase := 8, count := 4, pd := 5, e := true }
  let at_ (k : Nat) (g : Group) : Group :=
    { g with
      rdv := some { r with partner := some (1 - k) }
      lwait := some .meeting
      exm := allLanes lanes
      laneq := g.laneq.map (fun r => { r with exm := allLanes lanes, regroup := some (1 - k) }) }
  { pairing with groups := pairing.groups.map (fun p => (p.1, at_ p.1 p.2)) }

theorem test_hyps_RegroupForms_meeting :
    let s := met 8
    let u := met 16
    let lanes (v : State) : Nat :=
      (lanesOf (v.group 0).w (v.group 0).runActive).length + (lanesOf (v.group 1).w (v.group 1).runActive).length
    s.live 0 = true ∧ s.live 1 = true ∧ (s.group 0).tid = (s.group 1).tid ∧ 1 = 16 * (s.group 0).tid + 1 % 16 ∧
      (s.group 0).rdv.map (·.partner) = some (some 1) ∧ (s.group 1).rdv.map (·.partner) = some (some 0) ∧
      s.regroupReady 0 = true ∧ s.regroupReady 1 = true ∧ lanes s ≤ (s.group 0).w ∧ (s.group 0).w ≤ 64 ∧
      u.regroupReady 0 = true ∧ u.regroupReady 1 = true ∧ (u.group 0).w < lanes u := by
  decide +kernel

/-- What moves with the lanes of the second group (R188): lane 2 of it becomes lane 10. -/
theorem test_regroup_moves :
    let s := met 8
    let second := { s.group 1 with helpm := 4, oldlane := [(2, 18)] }
    let r : Rendezvous := { partner := some 1, vbase := 8, count := 4, pd := 5, e := true }
    let g := fuseGroups (s.group 0) second r 0
    g.helpm = 1024 ∧ g.old 10 = 18 ∧ g.old 2 = (s.group 0).old 2 := by
  decide +kernel

/-- A `REP` before the `FFMA` of R93, as bytes. -/
theorem test_hyps_LaneRuns :
    let ffma := bytes32 0x37f20000#32 ++ bytes32 0x28280000#32 ++ bytes32 0x10c14040#32
    let rep := Instr.rep 0 0 0 0 3
    let s := l0.placeLane ((BitVec.ofNat 96 (0x1f1 * 2 ^ 86)).toNat)
    let u := s.setMemBytes (placeObj + placeLcode + 12) ffma
    l0.laneIssues 0 (.laneNop true) true ∧ l0.live 0 = true ∧ (l0.group 0).converged = false ∧
      (l0.group 0).laneq.length = 1 ∧ (pairLane.group 0).converged = true ∧ (pairLane.group 0).isDouble = false ∧
      u.live 16 = true ∧ fieldOk rep = true ∧
      (u.fetchLane 16 { (u.group 16).headRun with next := (u.group 16).headRun.next + 1 }).2 = .bytes ffma ∧
      repTrap 0 0 0 0 0 ffma = none ∧ repTrap 0 0 (-256) 0 0 ffma = none :=
  ⟨issues_of (by decide +kernel), by decide +kernel⟩

/-- Steps of R93: in range, below 0 and above 511; a word that may not be repeated; a step for a field that is unused. -/
theorem test_hyps_LaneRuns_steps :
    let q : RepState := { d := 1, a := -2, b := 0, c := 0, done := 3, count := 64 }
    let i := Instr.iadd (hd 10 6 5 0) none
    let j := Instr.iadd (hd 10 5 5 0) none
    repeated q i = some (.iadd (hd 13 0 5 0) none) ∧ repeated q j = none ∧ repForbidden (.demote (hd 0 0 0 0)) = true ∧
      repForbidden i = false ∧ repStepBad (.iadd (hd 1 2 0 0) (some 5)) 0 0 1 0 = true ∧ repStepBad i 1 1 1 0 = false ∧
      wordEnds (.laneNop false) = false := by
  decide +kernel

/-- Words that fail each check: a reserved field, a run too long, a twin form outside a pair, a register above R, an empty
set; and a lane word on a base-die core. -/
theorem test_hyps_LaneWordChecks :
    let long := withG l0 (fun g => { g with laneq := g.laneq.map (fun r => { r with counted := 23 }) })
    let small := withG l0 (fun g => { g with r := 8 })
    let none_ := withG l0 (fun g => { g with laneq := g.laneq.map (fun r => { r with exm := 0 }) })
    none_.laneIssues 0 (.iadd (hd 1 2 3 0) none) true ∧ l0.cur = .group 0 ∧ l0.live 0 = true ∧
      isBankForm (.iadd (hd 1 2 3 0) none) = false ∧ fieldOk (.iadd (hd 1 2 3 4) none) = false ∧
      24 ≤ (long.group 0).headRun.counted + 1 ∧ (long.group 0).headRun.rep = none ∧ (l0.group 0).twin = false ∧
      fieldOk (.mguide (hd 1 2 3 384) 0) = true ∧
      operandFault (small.group 0).r 96 16 (.iadd (hd 8 2 3 0) none) = some 3 ∧
      (sharedFault (small.group 0).r 96 (.mguide (hd 8 2 3 384) 0)).isSome = true ∧
      sharedFault 384 96 (.mguide (hd 1 2 3 384) 0) = none ∧
      (none_.group 0).executes (hd 1 2 3 0) = false ∧ k0.cur = .bdc 0 ∧ (k0.bdc 0).lid.isSome = true :=
  ⟨issues_of (by decide +kernel), by decide +kernel⟩

/-- Addresses of 16 lanes in the placed page and in the scratchpad: base in scalar register 1 of the run, or in v9. -/
def addressing : State :=
  withTlb (withG l0 (fun g => { g with laneq := g.laneq.map (fun r => { r with svals := [(1, 0x1e000)] }) }))

/-- A word whose lanes all access address 0x1E000: A is v0, which holds 0, and B is s1. -/
theorem test_hyps_LaneLoadsAndStores :
    let s := addressing
    let h := hd 4 0 385 0
    let k := hd 0 0 385 4
    s.laneGo 0 (.ld h .w128 false .dev 0) h ∧ s.laneGo 0 (.st k .w32 false .sys 0) k ∧ (s.group 0).count .ls < 63 ∧
      (s.group 0).accs = [] ∧ (s.group 0).parts h true ≠ [] ∧ (s.group 0).parts k false ≠ [] ∧
      (∀ p ∈ (s.group 0).parts h true, hitB s 0 0x1e000 .read 0x1e000 true = true ∧
        hitB s 0 0x1e000 .write 0x1e000 true = true ∧
        (((s.wordEnv 0 (.ld h .w128 false .dev 0)).s64 h.vb).toNat : Int) +
          ((s.wordEnv 0 (.ld h .w128 false .dev 0)).ia h p.2).toNat = 0x1e000) :=
  ⟨lane_go (by decide +kernel), lane_go (by decide +kernel), by decide +kernel⟩

/-- The last bytes of the scratchpad, one access beyond it, a misaligned one, and a constant. -/
theorem test_hyps_LaneLoadsAndStores_spad :
    let s := withG l0 (fun g => { g with vregs := (List.range 16).map (fun l => (64 * 9 + l, 131071)) })
    let h := hd 4 0 9 0
    let k := hd 0 0 9 4
    let bound := spadBytes (s.headerOf 0)
    (∀ word ∈ ([(s, .lds h .z8 false 0, h), (s, .sts k .z8 false 0, k), (s, .lds h .z8 false 1, h),
        (s, .sts k .z8 false 1, k), (s, .lds h .w32 false 0, h),
        (l0, .ldc h .w64 false 0, h)] : List (State × Instr × LaneHead)), word.1.laneGo 0 word.2.1 word.2.2) ∧ bound = 131072 ∧
      (∀ p ∈ (s.group 0).parts h true, ((s.wordEnv 0 (.lds h .z8 false 0)).raw 9 p.2).toNat = 131071) ∧
      (l0.launchOf 0).constBase = 0x1e000 ∧ 8 ≤ (l0.headerOf 0).constSize ∧
      hitB (withTlb l0) 0 0x1e000 .read 0x1e000 true = true :=
  ⟨lane_goes (by decide +kernel), by decide +kernel⟩

/-- A word whose first misaligned lane is lane 0; a store by helper lanes only. -/
theorem test_hyps_LaneLoadsAndStores_others :
    let s := withG l0 (fun g => { g with laneq := g.laneq.map (fun r => { r with svals := [(1, 0x1e002)] }) })
    let u := withG addressing (fun g => { g with helpm := allLanes 16 })
    s.laneGo 0 (.ld (hd 4 0 385 0) .w32 false .grp 0) (hd 4 0 385 0) ∧
      s.laneGo 0 (.st (hd 0 0 385 4) .w32 false .grp 0) (hd 0 0 385 4) ∧
      u.laneGo 0 (.st (hd 0 0 385 4) .w32 false .grp 0) (hd 0 0 385 4) ∧
      ((s.group 0).parts (hd 4 0 385 0) true).head? = some (0, 0) ∧ (u.group 0).parts (hd 0 0 385 4) false = [] :=
  ⟨lane_go (by decide +kernel), lane_go (by decide +kernel), lane_go (by decide +kernel), by decide +kernel⟩

theorem test_hyps_LaneAtomicsAndPrefetch :
    let s := addressing
    let t := s.modTroupe 0 (fun p => { p with takesOn := true })
    (∀ word ∈ ([(s, .atom (hd 4 0 385 8) .cas true .dev false false 0, hd 4 0 385 8),
        (t, .atom (hd 4 0 385 8) .cas true .dev false false 0, hd 4 0 385 8),
        (l0, .atoms (hd 0 0 9 8) .add false true false 0, hd 0 0 9 8),
        (s, .pref (hd 0 0 385 0) false true 127, hd 0 0 385 0)] : List (State × Instr × LaneHead)), word.1.laneGo 0 word.2.1 word.2.2) ∧
      s.needsTake 0 = false ∧ (s.group 0).count .atom < 63 ∧ (s.group 0).parts (hd 4 0 385 8) false ≠ [] ∧
      0x1e000 < deviceBytes ∧ t.needsTake 0 = true :=
  ⟨lane_goes (by decide +kernel), by decide +kernel⟩

/-! ## Matrix, guide and bank statements -/

/-- The tests of `State.matReady`. -/
def matReadyB (s : State) (gid : Nat) (hs : List Nat) (i : Instr) (h : LaneHead) (m : MmaMode) (acls : ACls) (n : Nat) :
    Bool :=
  let e := s.laneEnv gid []
  hs.all (fun k => s.live k && ((s.group k).vregPending i).isNone && (s.svalPending k i).isNone && !s.arrayPending k i) &&
    (s.matCause hs m acls n ((e.s64 h.vb).toNat % 2 ^ 32) ((e.s64 h.vc).toNat % 2 ^ 32)).isNone

theorem mat_ready {s : State} {gid : Nat} {hs : List Nat} {i : Instr} {h : LaneHead} {m : MmaMode} {acls : ACls} {n : Nat}
    (b : matReadyB s gid hs i h m acls n = true) : s.matReady gid hs i h m acls n := by
  simp only [matReadyB, Bool.and_eq_true, List.all_eq_true, Option.isNone_iff_eq_none, Bool.not_eq_true'] at b
  exact ⟨fun k hk => ⟨(b.1 k hk).1.1.1, (b.1 k hk).1.1.2, (b.1 k hk).1.2, (b.1 k hk).2⟩, b.2⟩

/-- A group before a matrix word: B at offset s1, the layout word in s2 (R201): class of 8 bits, PL 4, SPAN as given. -/
def tiling (s : State) (base span : Nat) : State :=
  let vals : Tab Word64 := [(1, BitVec.ofNat 64 base), (2, BitVec.ofNat 64 (span * 2 ^ 29 + 4 * 2 ^ 24 + 2 * 2 ^ 20))]
  mapG s (fun g => { g with laneq := g.laneq.map (fun r => { r with svals := vals }) })

/-- The pieces of the tile that `tiling` names. -/
def tilesOf (s : State) : List (Nat × Nat) :=
  let e := s.laneEnv 0 []
  let v := (e.s64 386).toNat % 2 ^ 32
  tilePieces ((e.s64 385).toNat % 2 ^ 32) v 16 ((layoutCls v).getD .a4)

/-- A form that issues; one whose tile passes the bound; one of another span; one that waits for the array. -/
theorem test_hyps_MatrixIssue :
    let s := tiling l0 0 0
    let b := tiling l0 131056 0
    let m := tiling l0 0 3
    let w := s.modCore 0 (fun c => { c with arrayq := [((s.group 0).quarter, [7])] })
    let o : State := { w with groups := w.groups ++ [(7, { s.group 0 with grpid := 7, lwait := some .array })] }
    let h := hd 8 16 385 386
    let i := Instr.mma h .f .a8 false
    s.laneIssues 0 i true ∧ s.matReady 0 [0] i h .f .a8 16 ∧ b.matReady 0 [0] i h .f .a8 16 ∧
      m.matReady 0 [0] i h .f .a8 16 ∧ l0.laneGo 0 (.mzero (hd 352 0 0 0) 31) (hd 352 0 0 0) ∧
      (s.group 0).runActive ≠ 0 ∧ tileBeyond (tilesOf s) (spadBytes (s.headerOf 0)) = none ∧
      tileMismatch (s.troupe (s.group 0).tid) (tilesOf s) 0 = none ∧
      s.arrayOf (s.coreOf 0) (s.group 0).quarter = none ∧ (s.group 0).count .mtx < 63 ∧ (s.group 0).poison = [] ∧
      (tileBeyond (tilesOf b) (spadBytes (b.headerOf 0))).isSome = true ∧
      tileBeyond (tilesOf m) (spadBytes (m.headerOf 0)) = none ∧
      (tileMismatch (m.troupe (m.group 0).tid) (tilesOf m) 3).isSome = true ∧
      tabGet [] (s.core (s.coreOf 0)).arrayq (s.group 0).quarter = [] ∧ o.live 0 = true ∧
      (tabGet [] (o.core (o.coreOf 0)).arrayq (o.group 0).quarter).filter
        (fun k => (o.group k).lwait == some .array) = [7] :=
  ⟨issues_of (by decide +kernel), mat_ready (by decide +kernel), mat_ready (by decide +kernel),
    mat_ready (by decide +kernel), lane_go (by decide +kernel), by decide +kernel⟩

/-- A converged pair before an `MMAT`, and a half of a split one. -/
theorem test_hyps_MatrixIssue_pair :
    let s := tiling (paired l0) 0 0
    let u := mapG s (fun g => { g with split := true })
    let h := hd 8 16 385 386
    let i := Instr.mmat h .f .a8 false
    s.laneIssues 0 i true ∧ s.matReady 0 [leadOf 0, leadOf 0 + 1] i h .f .a8 16 ∧ u.laneIssues 0 i true ∧
      u.matReady 0 [0] i h .f .a8 16 ∧ (s.group 0).twin = true ∧ (s.group 0).converged = true ∧
      (s.group 1).runActive ≠ 0 ∧ (u.group 0).converged = false :=
  ⟨issues_of (by decide +kernel), mat_ready (by decide +kernel), issues_of (by decide +kernel),
    mat_ready (by decide +kernel), by decide +kernel⟩

/-- A form in the term array of quarter 0, before and after its reads. -/
def multiplying (reads : Bool) : State :=
  let s := tiling l0 0 0
  let f : ArrayForm :=
    { gid := 0, vd := 8, n := 16, acls := .a8, baddr := 0, layout := 4 * 2 ^ 24 + 2 * 2 ^ 20,
      rows := [{ gid := 0, active := 1, fmt := 0, a := [], c := [], writes := [(0, 5)] }], w := 16, addr := 0, reads := reads }
  s.modCore (s.coreOf 0) (fun c => { c with arrays := [(0, some f)] })

theorem test_hyps_MatrixCompletion :
    let f (s : State) : Option ArrayForm := s.arrayOf 0 0
    (f (multiplying false)).map (fun f => (f.reads, (multiplying false).spadHurts f.gid f.offsets, f.rows.map (·.gid))) =
        some (false, Hurt.none, [0]) ∧
      (f (multiplying true)).map (fun f => (f.reads, f.rows.map (fun r => tabSorted r.writes))) = some (true, [true]) ∧
      (multiplying true).live 0 = true ∧ (1 : Mask).getLsbD 0 = true := by
  decide +kernel

/-- A converged pair before an `MGUIDE`; a half whose partner runs, has retired, or waits to rejoin. -/
theorem test_hyps_GuideForms :
    let h := hd 4 8 12 385
    let i := Instr.mguide h 3
    let s := paired l0
    let u := mapG s (fun g => { g with split := true })
    let j := u.modGroup 1 (fun g => { g with jwait := true })
    let r : State := { u with groups := u.groups.take 1 }
    s.laneIssues 0 i true ∧ s.laneFree 0 i ∧ s.laneFree 1 i ∧ u.laneIssues 0 i true ∧ u.laneFree 0 i ∧
      j.laneIssues 0 i true ∧ r.laneIssues 0 i true ∧ (s.group 0).twin = true ∧ (s.group 0).split = false ∧
      s.live (leadOf 0 + 1) = true ∧ (s.group 0).poison = [] ∧ (s.group 1).poison = [] ∧ (u.group 0).split = true ∧
      u.live (partnerOf 0) = true ∧ (u.group (partnerOf 0)).jwait = false ∧ (j.group (partnerOf 0)).jwait = true ∧
      r.live (partnerOf 0) = false :=
  ⟨issues_of (by decide +kernel), lane_free (by decide +kernel), lane_free (by decide +kernel),
    issues_of (by decide +kernel), lane_free (by decide +kernel),
    issues_of (by decide +kernel), issues_of (by decide +kernel), by decide +kernel⟩

/-- Two halves at a rendezvous, with the same operands and with different ones. -/
theorem test_hyps_GuideForms_meeting :
    let r : Rendezvous := { partner := none, count := 4, vd := 4, va := 8, vb := 12, vc := 385, e := true }
    let s := mapG (paired l0) (fun g => { g with split := true, rdv := some r })
    let u := s.modGroup 1 (fun g => { g with rdv := some { r with vd := 5 } })
    (s.group 0).twin = true ∧ s.live 0 = true ∧ s.live 1 = true ∧ (s.group 0).rdv = some r ∧ (s.group 1).rdv = some r ∧
      (s.group 0).poison = [] ∧ (u.group 1).rdv.map (·.vd) = some 5 := by
  decide +kernel

/-- The tests of `State.bankGo`. -/
def bankGoB (s : State) (sl : Nat) (b : BankRun) (i : Instr) (h : LaneHead) : Bool :=
  s.cur == .bdc sl && (s.bdc sl).brun == some b && b.going != [] && fieldOk i && (h.e || decide (b.counted + 1 < 24)) &&
    (operandFault 384 96 64 i).isNone

theorem bank_go {s : State} {sl : Nat} {b : BankRun} {i : Instr} {h : LaneHead} (e : bankGoB s sl b i h = true) :
    s.bankGo sl b i h := by
  simp only [bankGoB, Bool.and_eq_true, Bool.or_eq_true, beq_iff_eq, bne_iff_ne, decide_eq_true_eq,
    Option.isNone_iff_eq_none] at e
  obtain ⟨⟨⟨⟨⟨a, b⟩, c⟩, d⟩, f⟩, g⟩ := e
  exact ⟨a, b, c, d, f, g⟩

/-- A bank run over BSUs 0 and 15. -/
def brun0 : BankRun := { dest := 3, mask := 0x8001, rbase := 0, lbase := 0, fmt := 0, next := 0 }

theorem bank_goes {l : List (State × Instr × LaneHead)} (e : ∀ p ∈ l, bankGoB p.1 0 brun0 p.2.1 p.2.2 = true) :
    ∀ p ∈ l, p.1.bankGo 0 brun0 p.2.1 p.2.2 := fun p m => bank_go (e p m)

/-- Its slice, with row 7 open in both BSUs or in none. -/
def banking (opened : Bool) : State :=
  let u : Bsu := if opened then { openRow := some 7 } else {}
  (k0.modBdc 0 (fun c => { c with brun := some brun0 })).modSlice 0 (fun v => { v with bsus := [(0, u), (15, u)] })

theorem test_hyps_BankArithmetic :
    let s := banking false
    let o := banking true
    (∀ word ∈ ([(s, .bfma (hd 3 4 5 0) true 0, hd 3 4 5 0), (s, .bmac (hd 3 4 5 0) 3, hd 3 4 5 0),
        (s, .badd (hd 3 4 5 0) true 0, hd 3 4 5 0), (s, .bcvt (hd 3 4 0 0) false true 0, hd 3 4 0 0),
        (s, .bred (hd 3 4 0 0) 3, hd 3 4 0 0), (s, .bmov (hd 3 4 0 0) 0, hd 3 4 0 0),
        (s, .bzero (hd 3 0 0 0), hd 3 0 0 0), (s, .bxch (hd 3 4 0 0) 15, hd 3 4 0 0),
        (o, .brd (hd 3 0 0 0), hd 3 0 0 0),
        (s, .bst (hd 3 0 0 0) 10 0 true true, hd 3 0 0 0)] : List (State × Instr × LaneHead)), word.1.bankGo 0 brun0 word.2.1 word.2.2) ∧
      (∀ j ∈ brun0.going, (o.bsu 0 j).openRow ≠ none) :=
  ⟨bank_goes (by decide +kernel), by decide +kernel⟩

theorem test_hyps_BankRows :
    let s := banking false
    let o := banking true
    (∀ word ∈ ([(s, .bact (hd 0 0 0 0) 0x7fff, hd 0 0 0 0), (s, .bpre (hd 0 0 0 0), hd 0 0 0 0),
        (s, .brd (hd 3 0 0 0), hd 3 0 0 0), (s, .bwr (hd 0 4 0 0), hd 0 4 0 0),
        (o, .bwr (hd 0 4 0 0), hd 0 4 0 0), (s, .bst (hd 0 4 0 0) 3 511 false false, hd 0 4 0 0),
        (s, .bst (hd 0 4 0 0) 10 0 true false, hd 0 4 0 0)] : List (State × Instr × LaneHead)), word.1.bankGo 0 brun0 word.2.1 word.2.2) ∧
      (∀ j ∈ brun0.going, (s.bsu 0 j).openRow = none) ∧ (∀ j ∈ brun0.going, (o.bsu 0 j).openRow ≠ none) ∧
      (∀ j ∈ brun0.going, 64 * 511 + j * 8 + 8 ≤ 65536) ∧ (∀ j ∈ brun0.going, j ≤ 15) ∧ 15 ∈ brun0.going :=
  ⟨bank_goes (by decide +kernel), by decide +kernel⟩

/-- A store with LBASE 1023 that passes the end of the local store. -/
theorem test_hyps_BankRows_beyond :
    let b := { brun0 with lbase := 1023 }
    let s := k0.modBdc 0 (fun c => { c with brun := some b })
    s.bankGo 0 b (.bst (hd 0 4 0 0) 10 0 true false) (hd 0 4 0 0) ∧ 65536 < 64 * 1023 + 64 * 0 + 2 ^ 10 :=
  ⟨bank_go (by decide +kernel), by decide +kernel⟩

/-- Rows that close clean, dirty in a slice that can be written, and dirty in a migration source; and one that opens. -/
theorem test_hyps_BankRows_close :
    let c := banking true
    let d := c.modSlice 0 (fun v => { v with bsus := [(0, { openRow := some 7, dirty := true })] })
    let m := d.modSlice 0 (fun v => { v with readOnly := true })
    let s := banking false
    let z : State := { d with keys := [] }
    z.ownerKey 0 = none ∧ (z.bsu 0 0).openRow = some 7 ∧ (z.bsu 0 0).dirty = true ∧ (d.ownerKey 0).isSome = true ∧
      (s.ownerKey 0).isSome = true ∧ (∀ a ∈ s.homePoison, inRange (rowPa 0 0 98303) 1024 a = false) ∧
      (c.bsu 0 0).openRow = some 7 ∧ (c.bsu 0 0).dirty = false ∧ (d.bsu 0 0).dirty = true ∧ (d.slice 0).readOnly = false ∧
      d.rowCounter (rowPa 0 0 7) ≠ 2 ^ 56 - 1 ∧ (m.slice 0).readOnly = true ∧ (s.bsu 0 0).openRow = none ∧
      (∀ k ∈ rowSectors (rowPa 0 0 98303), tabFind s.turn k = none ∧ tabFind s.l2 k = none) ∧
      s.rowOk (rowPa 0 0 98303) = true ∧ (s.rowMeta (rowPa 0 0 98303)).uncorr = false ∧ s.homePoison = [] := by
  decide +kernel

/-- Another row open, dirty, in a slice whose row counter is at its end; a row that fails its check, and ones with an
uncorrectable error or a poisoned byte. -/
theorem test_hyps_BankRows_stops :
    let d := (banking true).modSlice 0 (fun v => { v with bsus := [(0, { openRow := some 7, dirty := true })] })
    let x := d.modRow (rowPa 0 0 7) (fun r => { r with counter := 2 ^ 56 - 1 })
    let s := banking false
    let t : State := { s with treeBad := (s.treeWalk (rowPa 0 0 9)).map (fun n => (0, n.1, n.2)) }
    let u := s.modRow (rowPa 0 0 9) (fun r => { r with uncorr := true })
    let p : State := { s with homePoison := [rowPa 0 0 9 + 5] }
    (d.bsu 0 0).openRow = some 7 ∧ (x.bsu 0 0).dirty = true ∧ (x.slice 0).readOnly = false ∧ (x.ownerKey 0).isSome = true ∧
      x.rowCounter (rowPa 0 0 7) = 2 ^ 56 - 1 ∧ (x.closeRow 0 0).2 = 7 ∧ (d.openRow 0 0 9).2 = 0 ∧
      (t.bsu 0 0).openRow = none ∧ t.rowOk (rowPa 0 0 9) = false ∧ (t.openRow 0 0 9).2 = 2 ∧ (u.openRow 0 0 9).2 = 3 ∧
      u.rowOk (rowPa 0 0 9) = true ∧ (u.rowMeta (rowPa 0 0 9)).uncorr = true ∧ (p.openRow 0 0 9).2 = 3 ∧
      (∀ k ∈ rowSectors (rowPa 0 0 9), tabFind s.turn k = none ∧ tabFind s.l2 k = none) ∧ (s.ownerKey 0).isSome = true := by
  decide +kernel

theorem test_hyps_BankRunEnd :
    let e := k0.modBdc 0 (fun c => { c with brun := some { brun0 with ended := true, stopped := 1, causes := [(0, 4)] } })
    let t := k0.modBdc 0 (fun c => { c with brun := some { brun0 with ended := true, trap := some { cls := 1, cause := 0, tval := 0 } } })
    ((banking false).bdc 0).brun = some brun0 ∧ brun0.ended = false ∧
      ((e.bdc 0).brun.map (fun b => (b.ended, b.trap, decide (b.mask < 2 ^ 16), decide (b.stopped < 2 ^ 16)))) =
        some (true, none, true, true) ∧ (e.bdc 0).lid.isSome = true ∧
      (∀ j, j < 16 → (e.bsu 0 j).openRow = none) ∧ ((t.bdc 0).brun.bind (·.trap)).isSome = true ∧
      (b0.bdc 0).brun = none := by
  decide +kernel

/-- Bank words on a compute core, and ones that fail each check on a base-die core. -/
theorem test_hyps_BankRunEnd_words :
    let b := { brun0 with counted := 23 }
    let s := k0.modBdc 0 (fun c => { c with brun := some b })
    let open_ : LaneHead := { hd 0 0 0 0 with e := false }
    isBankForm (.bpre (hd 0 0 0 0)) = true ∧ l0.cur = .group 0 ∧ l0.live 0 = true ∧ s.cur = .bdc 0 ∧
      (s.bdc 0).brun = some b ∧ fieldOk (.bpre (hd 1 0 0 0)) = false ∧ fieldOk (.bpre open_) = true ∧ open_.e = false ∧
      24 ≤ b.counted + 1 ∧ operandFault 384 96 64 (.bwr (hd 0 64 0 0)) ≠ none ∧ fieldOk (.bwr (hd 0 64 0 0)) = true := by
  decide +kernel

/-! ## Host and scheduler statements -/

/-- World 1 with launch queue 0 enabled: depth 0, which is 4 slots; one record posted. -/
def queued : State :=
  g0.modWorld 1 (fun w => { w with
    lqs := [(0, { base := 0x4000, en := true, head := 0, tail := 1 })]
    fq := { base := 0x8000, en := true } })

/-- DOORBELL values that the queue takes and refuses; faults posted, held and none. -/
theorem test_hyps_HostQueueRegisters :
    let s := queued
    let r := (s.world 1).lq 0
    let f : FaultRec := { page := 2, kind := 0, who := [.fetch 0 false], seq := 5 }
    let h := s.modWorld 1 (fun w => { w with faults := [f] })
    let p := (withG s (fun g => { g with wait := some .fetch })).modWorld 1 (fun w => { w with faults := [{ f with posted := true }] })
    (s.world 1).present = true ∧ (s.world 0).present = true ∧ r.en = true ∧ r.err = false ∧
      0 < ((4 : BitVec 32) - r.tail).toNat ∧
      ((4 : BitVec 32) - r.tail).toNat + (r.tail - r.head).toNat ≤ 2 ^ (min r.depth 10 + 2) ∧
      2 ^ (min r.depth 10 + 2) < ((5 : BitVec 32) - r.tail).toNat + (r.tail - r.head).toNat ∧
      (s.world 1).faults = [] ∧ (h.world 1).faults = [f] ∧ f.posted = false ∧ (h.world 1).fq.en = true ∧
      (h.world 1).fq.err = false ∧ ((h.world 1).fq.tail - (h.world 1).fq.head).toNat < 2 ^ (min (h.world 1).fq.depth 10 + 2) ∧
      h.hostFails = [] ∧ ({ h with hostFails := [0x8000] } : State).hostFails.contains (0x8000 + 32 * 0) = true ∧
      (p.world 1).faults.map (·.posted) = [true] ∧ (p.world 2).present = false ∧
      ((p.world 1).faults.find? (fun f => f.posted && f.seq == (0x100000005 : Word64).toNat % 2 ^ 32)).isSome = true ∧
      p.live 0 = true ∧ (p.group 0).wait = some .fetch ∧
      (0x100000005 : Word64).toNat % 2 ^ 32 = 5 ∧ (0x100000005 : Word64).getLsbD 32 = true := by
  decide +kernel

/-- A record of zeros, which is no legal record; the same queue as the launch unit's next. -/
theorem test_hyps_LaunchEvents_refused :
    let s := queued
    let r := (s.world 1).lq 0
    s.unread 1 = none ∧ s.nextQueue 1 = some 0 ∧ s.launchTurn 1 = true ∧ s.unitParked 1 (.slot 0) = false ∧
      r.loc = false ∧
      s.hostFails.contains (r.base + 64 * (r.head.toNat % 2 ^ (min r.depth 10 + 2))) = false ∧
      s.recordOk 1 (s.hostBytes (r.base + 64 * (r.head.toNat % 2 ^ (min r.depth 10 + 2))) 64) = false := by
  decide +kernel

/-- A launch whose header is still to be read, at a page that is mapped. -/
def unread : State :=
  { g0 with launches := [(0, { placeLaunch with placed := false })] }

theorem test_hyps_LaunchEvents_header :
    let s := g0.modLaunch 0 (fun l => { l with hdr := none, placed := false })
    s.unread 1 = some 0 ∧ s.unitParked (s.launch 0).world (.launch 0) = false ∧ (s.launch 0).denied = none ∧
      (match (s.unitRead (s.launch 0).world (s.launch 0).obj 256 (.launch 0)).2 with
        | .bytes raw => decide (s.launchStatus (s.launch 0) raw ≠ 0)
        | _ => false) = true := by
  decide +kernel

/-- A launch that can be placed on core 0: the areas of context are there, nothing else runs. -/
def placeable : State :=
  { (g0.modWorld 1 (fun w => { w with areas := (0, some { base := 0, bytes := 2 ^ 24, cores := [0] }) :: w.areas })) with
    launches := [(0, { placeLaunch with placed := false, hdr := some { placeHeader with grps := 1 } })]
    troupes := []
    groups := [] }

theorem test_hyps_LaunchEvents_place :
    let s := placeable
    let l := s.launch 0
    (tabFind s.launches 0).isSome = true ∧ l.hdr.isSome = true ∧ l.placed = false ∧ l.ended = false ∧ l.micro = false ∧
      s.anyFrozen l.world = false ∧ s.serialOk l = true ∧
      (l.hdr.bind (fun h => s.chooseOrigin 0 h)) = some (0, 0) ∧ (l.hdr.map (·.grps)) = some 1 := by
  decide +kernel

/-- A microkernel of no bytes that can start in slice 0. -/
theorem test_hyps_LaunchEvents_micro :
    let h : Header := { placeHeader with scodeSize := 0, lcodeSize := 0, constSize := 0, dataSize := 0 }
    let s : State := { g0 with launches := [(0, { placeLaunch with placed := false, micro := true, hdr := some h })] }
    let l := s.launch 0
    (tabFind s.launches 0).isSome = true ∧ (s.world l.world).slices[l.slice]? = some 0 ∧ l.micro = true ∧
      l.placed = false ∧ l.ended = false ∧ (s.bdc 0).lid = none ∧ s.anyFrozen l.world = false ∧ s.serialOk l = true ∧
      s.unitParked l.world (.launch 0) = false ∧ l.denied = none ∧ (s.readSections 0 h).2.2 = none ∧
      (tabFind (s.readSections 0 h).1.launches 0).isSome = true := by
  decide +kernel

/-- A launch that has ended and whose record can be written at 0x1E000, and one with a misaligned address. -/
theorem test_hyps_LaunchEvents_complete :
    let s : State := { g0 with
      launches := [(0, { placeLaunch with ended := true, cpl := 0x1e000 })]
      troupes := []
      groups := []
      cores := [(0, { owner := some 1 })] }
    let l := s.launch 0
    l.ended = true ∧ l.past = false ∧ s.launchGroups 0 = [] ∧ s.launchStored 0 = true ∧ s.launchCores 0 = [] ∧
      s.unitParked l.world (.launch 0) = false ∧ l.cpl % 32 = 0 ∧ l.denied = none ∧
      (match (s.unitWrite l.world l.cpl (natBytes 32 0) (.launch 0)).2 with
        | .bytes [] => true
        | _ => false) = true ∧ 0x1e008 % 32 ≠ 0 := by
  decide +kernel

/-- The placed troupe on its core's wait list, its place among the slots free. -/
def waitingTroupe : State :=
  (g0.modTroupe 0 (fun t => { t with resident := false, saved := true })).modCore 0 (fun c => { c with waitList := [0] })

theorem test_hyps_SchedulerEvents_resident :
    let s := waitingTroupe.modLaunch 0 (fun l => { l with hdr := l.hdr.map (fun h => { h with grps := 1 }) })
    s.nextTroupe 0 = some 0 ∧ (tabFind s.troupes 0).isSome = true ∧ (s.troupe 0).core = 0 ∧ s.residents 0 = [] ∧
      s.groupsOf 0 = [0] ∧ (s.group 0).stack = [] ∧ (s.group 0).withdrawn = [] ∧ (s.group 0).engq = [] ∧
      (s.troupe 0).saved = true ∧ s.imageHeld 0 (s.troupe 0).saveSlot = false ∧
      (s.core 0).l1Held.length ≤ (2 ^ 20 - coreHolds (s.troupeHeader 0) * spadBytes (s.troupeHeader 0)) / 128 := by
  decide +kernel

/-- A run that waits for a slice, for promotion, or for its guard. -/
def waitingRun (guard : Option Nat) (st : GuardSt) : State :=
  (withG ({ l0 with now := 1000 } : State) (fun g => { g with
    laneq := g.laneq.map (fun r => { r with slice := none, guard := guard, eligible := some 700 })
    guards := [(2, { st := st, count := 1 })] })).modCore 0 (fun c => { c with slots := [(0, 0)] })

theorem test_hyps_SchedulerEvents_runs :
    let s := waitingRun none .pending
    let d := waitingRun (some 2) .resolvedFalse
    (s.unitsOf 0 0).filter s.eligible = [0] ∧ s.sliceFree 0 0 3 = true ∧ (s.group 0).converged = false ∧
      (s.group 0).laneq.length = 1 ∧ s.eligible 0 = true ∧ (s.group 0).headRun.promoted = none ∧
      s.eligibleSince 0 + 256 ≤ s.now ∧ d.mayIssue 0 = true ∧ (d.group 0).trapMode = false ∧
      (d.group 0).headRun.guard = some 2 ∧ (d.group 0).headRun.admitted = false ∧ (d.guard 0 2).st = .resolvedFalse := by
  decide +kernel

/-- A quantum that has not expired, and one that expires while another launch waits. -/
theorem test_hyps_SchedulerEvents_quantum :
    let s := g0
    let u : State := { g0 with
      now := 24000
      launches := (1, { placeLaunch with placed := true }) :: g0.launches
      troupes := g0.troupes ++ [(1, { lid := 1, x := 0, y := 0, z := 0, core := 0 })]
      cores := [(0, { owner := some 1, waitList := [1] })] }
    (s.core 0).owner = some 1 ∧ (s.world 1).present = true ∧
      s.now < (s.core 0).lastExpiry + (s.core 0).period.getD (1200 * (s.world 1).quantum) ∧
      (u.core 0).lastExpiry + (u.core 0).period.getD (1200 * (u.world 1).quantum) ≤ u.now ∧ u.waiting 0 = [1] ∧ (u.waiting 0).Nodup ∧
      (tabFind u.troupes 1).isSome = true ∧ u.residents 0 = [0] ∧ (u.troupe 0).lid ≠ (u.troupe 1).lid ∧
      (u.troupe 0).halting = none ∧ (u.troupe 0).held = false ∧ (u.troupe 0).retired = false ∧
      (let k := u.modTroupe 0 (fun t => { t with halting := some .take })
       k.residents 0 = [0] ∧ k.waiting 0 = [1] ∧ (k.troupe 0).halting = some .take ∧
         after (exec (.quantumExpiry 0) k) (fun t => (t.troupe 0).saveDue) = true) := by
  decide +kernel

theorem test_hyps_SchedulerEvents_halt :
    let s := g0.modTroupe 0 (fun t => { t with halting := some .save })
    let d := g0.modTroupe 0 (fun t => { t with halting := some .debug })
    ((∀ x v, s.cachedInL2 v x = false) ∧ ∀ sl, (s.slice sl).forward = false) ∧
      (tabFind g0.troupes 0).isSome = true ∧ (g0.troupe 0).halting = none ∧ (s.troupe 0).resident = true ∧
      s.troupeDrained 0 = true ∧ s.released 0 = true ∧ s.imageHeld 0 (s.openSlot 1 0) = false ∧ s.groupsOf 0 = [0] ∧
      (s.group 0).stack = [] ∧ (s.group 0).accs = [] ∧ (s.group 0).engq = [] ∧ (s.group 0).withdrawn = [] ∧
      (s.group 0).wait = none ∧ (s.group 0).lwait = none ∧ d.troupeDrained 0 = true ∧ d.atBoundary 0 = true ∧
      (d.group 0).recorded = false ∧
      after (exec (.preemptionHalt 0) d) (fun t => (t.group 0).halted && (t.group 0).record.isSome) = true :=
  ⟨plain_of (by decide +kernel), by decide +kernel⟩

/-- A troupe to be saved with one entry on its stack, in a world whose context area at 0x1000000 has one core's part with
room for spilled entries. -/
theorem test_hyps_SchedulerEvents_spill :
    let e : StackEntry := { isElse := false, fmt := 0, mask := 3, pc := 0x10040 }
    let s := ((withG g0 (fun g => { g with stack := [e] })).modTroupe 0 (fun t => { t with halting := some .save })).modWorld 1
      (fun w => { w with areas := (0, some { base := 0x1000000, bytes := 0x81000, cores := [0] }) :: w.areas })
    ((∀ x v, s.cachedInL2 v x = false) ∧ ∀ sl, (s.slice sl).forward = false) ∧ s.reachesRow (s.worldOf 0) 0x1001000 ∧
      (s.troupe 0).resident = true ∧ s.troupeDrained 0 = true ∧ s.released 0 = true ∧
      s.imageHeld 0 (s.openSlot 1 0) = false ∧ s.groupsOf 0 = [0] ∧ (s.group 0).stack = [e] ∧
      (s.group 0).withdrawn = [] ∧ (s.group 0).accs = [] ∧ (s.group 0).engq = [] ∧ (s.group 0).wait = none ∧
      (s.group 0).lwait = none ∧ s.spillPa 0 0 = some 0x1001000 ∧ 0x1001000 % 64 + 32 ≤ 64 ∧
      after (exec (.preemptionHalt 0) s) (fun t =>
        (t.troupe 0).saved && t.memByte 0x1001000 == 0x40 && t.memByte 0x1001008 == 3) = true :=
  ⟨plain_of (by decide +kernel), row_free (by decide +kernel), by decide +kernel⟩

/-- Each kind of wait that `SCALAR_WAIT_END` ends. -/
theorem test_hyps_WaitAndTakeEvents_waits :
    let s (w : WaitOn) := withG g0 (fun g => { g with wait := some w })
    (∀ w ∈ ([.barrier 5 0, .guardResolved 7, .guardRoom 7 1, .counter .ls 0, .laneRoom, .issued] : List WaitOn),
      (s w).ctxOf 0 = 0 ∧ ((s w).group 0).wait = some w ∧ (s w).mayIssue 0 = true ∧ ((s w).group 0).converged = false) ∧
      ((b0.modBdc 0 (fun c => { c with wait := some .mailbox })).bdc 0).wait = some .mailbox := by
  decide +kernel

/-- One deferred trap of a lane word, and two of engines. -/
theorem test_hyps_WaitAndTakeEvents_deferred :
    let a : TrapInfo := { cls := 4, cause := 0, tval := 0, engine := true, path := 3, seq := 1 }
    let b : TrapInfo := { cls := 4, cause := 0, tval := 0, engine := true, path := 3, seq := 0 }
    let l : TrapInfo := { cls := 1, cause := 0, tval := 0, laneWord := true }
    let s := withG g0 (fun g => { g with deferred := [a, b] })
    let u := withG g0 (fun g => { g with deferred := [a, l] })
    s.ctxOf 0 = 0 ∧ s.mayIssue 0 = true ∧ (s.group 0).delay = 0 ∧ (s.group 0).trapMode = false ∧ (s.group 0).wait = none ∧
      (s.group 0).deferred = [a, b] ∧ b.seq < a.seq ∧ (u.group 0).deferred = [a, l] ∧ a.laneWord = false ∧
      l.laneWord = true ∧ (g0.group 0).deferred = [] := by
  decide +kernel

theorem test_hyps_WaitAndTakeEvents_retire :
    let s := withG g0 (fun g => { g with wait := some .retire })
    s.ctxOf 0 = 0 ∧ s.mayRetire 0 = true ∧ (s.group 0).tid = 0 ∧ (s.group (partnerOf 0)).rdv = none ∧
      (s.troupe 0).hold = [] ∧ s.released 0 = true ∧ (s.group 0).converged = false ∧ s.groupsOf 0 = [0] := by
  decide +kernel

/-- Halves that have both come to `TWJOIN`; the first has, the second has not or has retired; the first still has to. -/
theorem test_hyps_WaitAndTakeEvents_rejoin :
    let s := mapG (paired g0) (fun g => { g with split := true, jwait := true, wait := some .rejoin })
    let u := s.modGroup 1 (fun g => { g with jwait := false, wait := none })
    let r : State := { u with groups := u.groups.take 1 }
    let f := u.modGroup 0 (fun g => { g with jwait := false })
    s.mayIssue 0 = true ∧ (s.group 0).split = true ∧ (s.group 0).wait = some .rejoin ∧ s.live (partnerOf 0) = true ∧
      (s.group (partnerOf 0)).jwait = true ∧ (s.group (partnerOf 0)).wait = some .rejoin ∧
      u.mayIssue 0 = true ∧ (u.group (partnerOf 0)).jwait = false ∧ r.mayIssue 0 = true ∧ r.live (partnerOf 0) = false ∧
      f.mayIssue 0 = true ∧ (f.group 0).jwait = false ∧ f.guardedCmd 0 = false ∧ (f.group (partnerOf 0)).rdv = none := by
  decide +kernel

/-- A group that waits for a pending guard with no run that could resolve it. -/
theorem test_hyps_WaitAndTakeEvents_deadlock :
    let s := withG g0 (fun g => { g with wait := some (.guardResolved 3), guards := [(3, { st := .pending, count := 0 })] })
    (s.stuck 0).map (·.1) = [0] ∧ (s.launch 0).placed = true ∧ (s.launch 0).ended = false ∧ (s.launch 0).micro = false ∧
      (s.launch 0).reported = [] ∧ (s.launch 0).failed = false ∧ (s.world 1).policy = false ∧
      (s.world 1).assisted 1 = false ∧ (s.group 0).adrift = [] ∧ g0.stuck 0 = [] := by
  decide +kernel

/-- A take that is due, one that is ready to be captured, and a rollback. -/
theorem test_hyps_WaitAndTakeEvents_takes :
    let d := (g0.modLaunch 0 (fun l => { l with hdr := l.hdr.map (fun h => { h with taken := 1 }) })).modTroupe 0
      (fun t => { t with takesOn := true, tkc := 1 })
    let c := g0.modTroupe 0 (fun t => { t with takesOn := true, halting := some .take })
    let e : WEntry := { gid := 0, aid := 0, lane := 0, world := 1, pa := 0x1e000, bytes := [1], booth := false, side := 2 }
    let n := (c.modTroupe 0 (fun t => { t with landing := true })).modCore 0 (fun k => { k with wbuf := [e] })
    let k : Take := { groups := [(0, g0.group 0)], spad := [], tags := [], queues := [], barriers := [] }
    let r := g0.modTroupe 0 (fun t => { t with takesOn := true, halting := some .rollback, take := some k })
    ((∀ x v, c.cachedInL2 v x = false) ∧ ∀ sl, (c.slice sl).forward = false) ∧
      (d.troupe 0).resident = true ∧ (d.troupe 0).retired = false ∧ (d.troupe 0).halting = none ∧
      (d.troupe 0).takeDue (d.troupeHeader 0) = true ∧ c.troupeDrained 0 = true ∧ (c.troupe 0).landing = false ∧
      (c.troupe 0).hold = [] ∧ c.released 0 = true ∧ c.takeHeld 0 = false ∧ c.frozenRing (c.launch 0) = false ∧
      (c.troupe 0).held = false ∧ (c.troupe 0).saveDue = false ∧ (r.troupe 0).saveDue = false ∧ (r.troupe 0).secondTakes = [] ∧
      c.groupsOf 0 = [0] ∧ (c.group 0).wait = none ∧ (n.troupe 0).halting = some .take ∧
      (n.troupe 0).landing = true ∧ n.released 0 = false ∧ r.troupeDrained 0 = true ∧ (r.troupe 0).take = some k ∧
      (k.groups.map (·.1)).Nodup ∧ (g0.group 0).withdrawn = [] ∧ (g0.group 0).engq = [] ∧
      (r.world 1).present = true ∧ (r.world 1).destroying = false :=
  ⟨plain_of (by decide +kernel), by decide +kernel⟩

/-! ## Memory statements -/

/-- The tests of `State.soleAccess`. -/
def soleB (s : State) (gid : Nat) (a : Access) (l : LaneAcc) : Bool :=
  s.live gid && !(s.group gid).twin && (s.group gid).accs == [a] && (s.group gid).engq == [] && !a.past && !a.both &&
    a.lanes == [l] && decide (l.lane < 128)

theorem sole_of {s : State} {gid : Nat} {a : Access} {l : LaneAcc} (h : soleB s gid a l = true) : s.soleAccess gid a l := by
  simp only [soleB, Bool.and_eq_true, Bool.not_eq_true', beq_iff_eq, decide_eq_true_eq] at h
  obtain ⟨⟨⟨⟨⟨⟨⟨a, b⟩, c⟩, d⟩, e⟩, f⟩, g⟩, i⟩ := h
  exact ⟨a, b, c, d, e, f, g, i⟩

/-- One part of an access, at an address of the placed page and, for the scratchpad, at that offset. -/
def part0 (st : LaneStage) : LaneAcc := { lane := 0, addr := 0x1e000, pa := 0x1e000, stage := st, data := [1, 2, 3, 4] }

/-- An access of lane 0 for four bytes. -/
def access0 (op : AccOp) (sp : Space) (sc : Scope) (st : LaneStage) : Access :=
  { aid := 9, path := .ls, op := op, space := sp, size := 4, scope := sc, lanes := [part0 st], dest := .vreg 5 1,
    pc := 0x18000, laneWord := true, e := true }

/-- The group that has it outstanding. -/
def holding (a : Access) : State := withG (withTlb g0) (fun g => { g with accs := [a] })

theorem test_hyps_MemoryEvents_load :
    let m := access0 (.load true) .mem .dev .ready
    let c := access0 (.load true) .mem .core .ready
    let p := access0 (.load true) .spad .grp .ready
    let k := access0 (.load false) .konst .dev .ready
    let s := holding m
    let u := holding k
    s.soleAccess 0 m (part0 .ready) ∧ (holding c).soleAccess 0 c (part0 .ready) ∧
      (holding p).soleAccess 0 p (part0 .ready) ∧ u.soleAccess 0 k (part0 .ready) ∧
      ((holding p).troupe 0).spadHurt 0x1e000 4 = false ∧ 0x1e000 < deviceBytes ∧
      s.homeBusy (s.worldOf 0) 0x1e000 false = false ∧ s.seenBlocks (s.coreOf 0) 0x1e000 4 = false ∧ (s.troupe 0).hold = [] ∧
      m.part = 4 ∧
      (s.lsBytes (s.coreOf 0) (s.worldOf 0) 0x1e000 4 .dev).2.2 = List.replicate 4 false ∧
      (holding c).l1Can ((holding c).coreOf 0) ((holding c).worldOf 0) 0x1e000 = true ∧
      ((holding c).lsBytes ((holding c).coreOf 0) ((holding c).worldOf 0) 0x1e000 4 .core).2.2 = List.replicate 4 false ∧
      u.homeBusy (u.worldOf 0) 0x1e000 false = false ∧ u.seenBlocks (u.coreOf 0) 0x1e000 4 = false ∧
      (u.troupe 0).hold = [] ∧ (u.constBytes (u.coreOf 0) (u.worldOf 0) 0x1e000 4 false).2.2 = false :=
  ⟨sole_of (by decide +kernel), sole_of (by decide +kernel), sole_of (by decide +kernel), sole_of (by decide +kernel),
    by decide +kernel⟩

/-- Four bytes at the end of a sector that no cache holds and no core has written. -/
theorem test_hyps_MemoryEvents_read :
    let pa := 0x1e03c
    let s : State := { g0 with cores := [] }
    (∀ k, (s.core k).wbuf = []) ∧ pa % 64 + 4 ≤ 64 ∧ (s.slice (sliceOfPa pa)).forward = false ∧
      tabFind s.turn (sectorOf pa) = none ∧ tabFind s.l2 (sectorOf pa) = none ∧ s.portAccepts 1 pa = true ∧
      s.rowOk pa = true ∧ (s.rowMeta pa).uncorr = false ∧ s.homePoison = [] ∧ s.spoiled = [] ∧ s.treeBad = [] ∧
      tabFind (s.core 0).l1 (sectorOf pa) = none :=
  ⟨fun _ => rfl, by decide +kernel⟩

/-- A store before it leaves the group: to the scratchpad, to a queue, to a sector that the L1 holds, and to memory; and
one in the write buffer. -/
theorem test_hyps_MemoryEvents_store :
    let p := access0 .store .spad .grp .ready
    let q := access0 .store (.queue 3) .core .ready
    let c := access0 .store .mem .core .ready
    let m := access0 .store .mem .dev .ready
    let b : Access := { access0 .store .mem .dev .done with left := true }
    let e : WEntry := { gid := 0, aid := 9, lane := 0, world := 1, pa := 0x1e000, bytes := [1, 2, 3, 4], booth := false }
    let v : Sector := { world := 1, bytes := [] }
    let s := (holding c).modCore 0 (fun k => { k with l1 := [(sectorOf 0x1e000, v)] })
    let u := (holding b).modCore 0 (fun c => { c with wbuf := [e] })
    (holding p).soleAccess 0 p (part0 .ready) ∧ (holding q).soleAccess 0 q (part0 .ready) ∧
      s.soleAccess 0 c (part0 .ready) ∧ (holding m).soleAccess 0 m (part0 .ready) ∧ u.soleAccess 0 b (part0 .done) ∧
      u.reachesRow 1 0x1e000 ∧ p.left = false ∧
      (∀ x ∈ [holding p, holding q, s, holding m], (x.core (x.coreOf 0)).wbuf = [] ∧ x.coreHolding 0 9 0 = none ∧
        (x.group 0).lwait = none ∧ (x.group 0).wait = none ∧ x.takesOn 0 = false ∧
        (tabFind x.troupes (x.group 0).tid).isSome = true) ∧
      tabFind (s.core (s.coreOf 0)).l1 (sectorOf 0x1e000) = some v ∧ 0x1e000 % 64 + 4 ≤ 64 ∧ b.allDone = true ∧
      u.coreHolding 0 9 0 = some (u.coreOf 0) ∧ (u.core (u.coreOf 0)).wbuf = [e] ∧
      u.seenBlocks (u.coreOf 0) 0x1e000 4 = false :=
  ⟨sole_of (by decide +kernel), sole_of (by decide +kernel), sole_of (by decide +kernel), sole_of (by decide +kernel),
    sole_of (by decide +kernel), row_free (by decide +kernel), by decide +kernel⟩

/-- A translation that ends in a mapped page, and one that ends in a page that cannot be written. -/
theorem test_hyps_MemoryEvents_translation :
    let a := access0 .store .mem .dev .untranslated
    let s := withG (holding a) (fun g => { g with lwait := some (.trans 9) })
    let r := s.modCore 0 (fun c => { c with tlb := c.tlb.map (fun e => { e with w := false }) })
    s.soleAccess 0 a (part0 .untranslated) ∧ (holding a).soleAccess 0 a (part0 .untranslated) ∧
      (part0 .untranslated).stage = .untranslated ∧
      s.xlateHit (s.coreOf 0) (s.worldOf 0) 0x1e000 (opKind a.op) = some (.ok 0x1e000 true true) ∧
      (s.group 0).lwait = some (.trans 9) ∧ a.laneWord = true ∧ a.dies = [] ∧ ((holding a).group 0).lwait = none ∧
      ((holding a).group 0).wait = none ∧ (match r.xlateHit (r.coreOf 0) (r.worldOf 0) 0x1e000 (opKind a.op) with
        | some (.trap _) => true
        | _ => false) = true :=
  ⟨sole_of (by decide +kernel), sole_of (by decide +kernel), by decide +kernel⟩

/-- A fault of page 2, which the placed tables do not map: with host service, with no table, without a frame, and with one
frame, at 0x200000, in the pool's list at 0x30000; and one of page 1, which they do map. -/
theorem test_hyps_MemoryEvents_faults :
    let f : FaultRec := { page := 2, kind := 0, who := [.fetch 0 false], seq := 5 }
    let s := g0.modWorld 1 (fun w => { w with faults := [f] })
    let h := s.modWorld 1 (fun w => { w with modes := 1, fq := { base := 0x8000, en := true } })
    let n := s.modWorld 1 (fun w => { w with areas := [] })
    let p := (s.setMemBytes 0x30000 (natBytes 8 1 ++ natBytes 8 0x200000)).modWorld 1 (fun w =>
      { w with areas := (3, some { base := 0x30000, bytes := 16 }) :: w.areas })
    let y := (p.pageMapped 1 (65536 * 2)).1
    let x := (y.poolFrame 1).1
    (s.world 1).faults = [f] ∧ (h.world 1).assisted 0 = true ∧ (h.world 1).fq.en = true ∧ (h.world 1).fq.err = false ∧
      (h.world 1).fq.held < (h.world 1).fq.size ∧ h.hostFails = [] ∧ (n.world 1).assisted 0 = false ∧ (n.world 1).faults = [f] ∧
      (s.pageMapped 1 65536).2 = some true ∧ tabGet none (n.world 1).areas 4 = none ∧
      (tabGet none (p.world 1).areas 4).isSome = true ∧
      (p.pageMapped 1 (65536 * 2)).2 = some false ∧
      (match (y.entryAt 1 (65536 * 2) 3 placeRoot).2 with
        | some (some a) => !x.homeBusy 1 a true
        | _ => false) = true ∧
      (match (s.entryAt 1 (65536 * 2) 3 placeRoot).2 with
        | some (some _) => true
        | _ => false) = true ∧ (s.poolFrame 1).2 = some none ∧
      (y.poolFrame 1).2 = some (some 0x200000) ∧ 0x200000 % 65536 = 0 ∧ x.ownsRange 1 0x200000 65536 = true ∧
      x.rangeBusy 1 0x200000 65536 = false := by
  decide +kernel

/-- An atomic on the scratchpad, and one on a sector in the turnstile of a world with a share. -/
theorem test_hyps_MemoryEvents_atomics :
    let p := access0 (.atom .add false) .spad .core .ready
    let m := access0 (.atom .add false) .mem .dev .ready
    let v : Sector := { world := 1, bytes := [] }
    let u : State := { (holding m).modWorld 1 (fun w => { w with tshare := 1 }) with turn := [(sectorOf 0x1e000, v)] }
    (holding p).soleAccess 0 p (part0 .ready) ∧ u.soleAccess 0 m (part0 .ready) ∧ p.size = 4 ∧
      ((holding p).troupe 0).spadHurt 0x1e000 4 = false ∧ (tabFind (holding p).troupes 0).isSome = true ∧
      (u.slice (sliceOfPa 0x1e000)).forward = false ∧ tabFind u.turn (sectorOf 0x1e000) = some v ∧
      v.hurt 0 4 = false ∧ (u.world (u.worldOf 0)).tshare ≠ 0 ∧ v.world = u.worldOf 0 ∧ u.spoiled = [] ∧
      u.seenBlocks (u.coreOf 0) 0x1e000 4 = false ∧ u.behindRequest 0 m (part0 .ready) = false ∧
      (u.turnStops (u.worldOf 0) 0x1e000 && !u.queuedRequest 0 9 0) = false :=
  ⟨sole_of (by decide +kernel), sole_of (by decide +kernel), by decide +kernel⟩

/-- A sector that a world with L2 granules misses, and a dirty one that is written back. -/
theorem test_hyps_MemoryEvents_ports :
    let pa := 0x1e000
    let s := g0.modWorld 1 (fun w => { w with l2gran := [(dieOfPa pa, 4)] })
    let v : Sector := { world := 1, bytes := [(0, 7)], dirty := 1 }
    let u : State := { s with l2 := [(sectorOf pa, v)] }
    (s.slice (sliceOfPa pa)).forward = false ∧ tabFind s.turn (sectorOf pa) = none ∧ tabFind s.l2 (sectorOf pa) = none ∧
      s.cachedInL2 1 pa = true ∧ s.homeBusy 1 pa false = false ∧ (s.l2Held 1 pa).length < s.l2Cap 1 pa ∧
      s.portAccepts 1 pa = true ∧ s.rowOk (pa / 64 * 64) = true ∧ (s.rowMeta pa).uncorr = false ∧ s.homePoison = [] ∧
      tabFind u.l2 (sectorOf pa) = some v ∧ v.dirty ≠ 0 ∧ v.poison = 0 ∧ u.portBusy pa true = false ∧
      u.rowCounter pa ≠ 2 ^ 56 - 1 := by
  decide +kernel

/-- Engine commands that start: without a guard, and under a guard of each state; and one that has not ended. -/
theorem test_hyps_MemoryEvents_commands :
    let c : Cmd := { path := .copy, seq := 0, op := .cpy .ss, d := 0, a := 4096, b := 0x100040, guard := some 2 }
    let s (st : GuardSt) := withG g0 (fun g => { g with engq := [c], guards := [(2, { st := st, count := 1 })] })
    let r := withG g0 (fun g => { g with engq := [{ c with started := true, guard := none }] })
    (∀ st ∈ ([.pending, .resolvedTrue, .resolvedFalse] : List GuardSt),
      ((s st).group 0).engq = [c] ∧ (s st).mayIssue 0 = true ∧ ((s st).group 0).converged = false ∧
        ((s st).guard 0 2).st = st) ∧ c.past = false ∧ c.started = false ∧ c.delay = 0 ∧ c.outside = false ∧
      (r.group 0).engq.length = 1 ∧ (r.group 0).accs = [] ∧ r.live 0 = true ∧ (r.troupe 0).spadPoison = [] ∧ c.flagged = false ∧
      (∀ d ∈ (r.group 0).engq, r.engineWaits 0 d = false) ∧
      (tabFind r.troupes 0).isSome = true ∧ c.op.leavesTroupe = false := by
  decide +kernel

/-- A command under a guard that resolves after its issue, in a troupe with takes: it asks for the take at its start. -/
theorem test_hyps_MemoryEvents_late :
    let c : Cmd := { path := .bank, seq := 0, op := .bnk false, d := 0, a := 0, b := 0, guard := some 2 }
    let s := (withG g0 (fun g => { g with engq := [c], guards := [(2, { st := .resolvedTrue, count := 1 })] })).modTroupe 0
      (fun t => { t with takesOn := true })
    (s.group 0).engq = [c] ∧ s.mayIssue 0 = true ∧ (s.group 0).converged = false ∧ c.op.leavesTroupe = true ∧
      (s.troupe (s.group 0).tid).secondTakes = [] ∧ s.needsTake 0 = true ∧ (s.guard 0 2).st = .resolvedTrue ∧
      after (exec (.engineCommandStart 0 .bank) s) (fun t => (t.troupe 0).halting == some .take) = true := by
  decide +kernel

/-- A message that a mailbox takes, one that finds it full, and one to a slice of another world. -/
theorem test_hyps_MemoryEvents_mailbox :
    let c : Cmd := { path := .bank, seq := 0, op := .bnk true, d := 1, a := 0, b := 2, f := 0, started := true }
    let s := withG g0 (fun g => { g with engq := [c] })
    let m : Msg := { w0 := 0, w1 := 0, info := 0, gid := 0, seq := 0 }
    let f := s.modBdc 0 (fun c => { c with mbx := List.replicate 16 m })
    let o := s.modSlice 0 (fun v => { v with owner := some 2 })
    (s.group 0).engq = [c] ∧ (s.group 0).accs = [] ∧ s.live 0 = true ∧ c.f.toNat < 256 ∧ (s.slice 0).forward = false ∧
      (s.slice 0).owner = some (s.worldOf 0) ∧ (s.ownerKey 0).isSome = true ∧ (s.bdc 0).mbx.length < 16 ∧
      s.coreOf 0 < 1024 ∧ (s.troupe (s.group 0).tid).z < 4 ∧ 16 ≤ (f.bdc 0).mbx.length ∧
      (o.slice 0).owner ≠ some (o.worldOf 0) ∧ o.ctxOf 0 = 0 := by
  decide +kernel

/-! ## World, key, trust, fabric and debug statements -/

/-- World 0's command interface with arguments; world 1 owns slices 0 and 1, and has no launch. -/
def ruled (a b c : Word64) : State :=
  { (g0.modWorld 1 (fun w => { w with slices := [0, 1] })).modSlice 1 (fun v => { v with owner := some 1 }) with
    launches := []
    troupes := []
    groups := []
    cmdif := { warg0 := a, warg1 := b, warg2 := c } }

theorem test_hyps_WorldAndKeyCommands_refused :
    let s := ruled 0 0 0
    let b : State := { s with cmdif := { s.cmdif with wbusy := true } }
    s.cmdFree 63 false ∧ s.cmdFree 1 true ∧ b.cmdif.wbusy = true ∧ s.cmdif.wbusy = false ∧
      (s.world 63).present = false ∧ (s.world 1).present = true :=
  ⟨cmd_free (by decide +kernel), cmd_free (by decide +kernel), by decide +kernel⟩

/-- The registers that HANDLE, PARAM, AREA, L2SET, SHARE and APERTURE accept. -/
theorem test_hyps_WorldAndKeyCommands_layout :
    let s := ruled 4 0 0
    let l := ruled 4 0 0 |>.modWorld 1 (fun w => { w with tdisp := .locked })
    s.openLayout 1 ∧ (ruled 1000 0 0).cmdFree 1 true ∧ s.ringsOf 1 = [] ∧ (l.world 1).tdisp = .locked ∧
      (ruled 4 0x200000 0).withArgs.areaErr 1 = 0 ∧ (ruled 0 0 0).withArgs.l2setErr 1 = 0 ∧
      (ruled 0 0 0).withArgs.shareErr 1 = 0 ∧ s.turn = [] ∧ (ruled 0 0 0).withArgs.apertureErr 1 = 0 ∧
      (ruled 0x100 0 0).withArgs.apertureErr 1 = 0 ∧ (0x100 : Word64).toNat.testBit 8 = true :=
  ⟨.inl (by decide +kernel), cmd_free (by decide +kernel), by decide +kernel⟩

/-- A communicator image of two members at host address 0; a rectangle that is free and one that is the world's. -/
theorem test_hyps_WorldAndKeyCommands_units :
    let c := (ruled 3 0 0).setHostBytes 0 (natBytes 2 2 ++ natBytes 14 0 ++ natBytes 8 15 ++ natBytes 8 0x30004)
    let a := ruled 0x02020002 0 0
    let r := ruled 0x02020000 0 0 |>.modWorld 1 (fun w => { w with rects := [{ x := 0, y := 0, w := 2, h := 2 }] })
    c.cmdFree 1 true ∧ a.openLayout 1 ∧ a.cmdFree 1 true ∧ a.coresClean (rectCores (rectOf 0x02020002)) ∧
      r.coresClean (rectCores (rectOf 0x02020000)) ∧ r.cmdFree 1 true ∧ r.openLayout 1 ∧
      (ruled 0x101 0 0).cmdFree 1 true ∧ (ruled 0x101 0 0).openLayout 1 ∧ (c.commImage 0).isSome = true ∧
      c.ringsOf 1 = [] ∧ a.withArgs.rectaddErr 1 = 0 ∧ r.withArgs.rectremErr 1 = 0 ∧
      ((ruled 0x101 0 0).world 1).slices[0x101 % 256]? = some 1 :=
  ⟨cmd_free (by decide +kernel), .inl (by decide +kernel), cmd_free (by decide +kernel),
    clean_of (by decide +kernel), clean_of (by decide +kernel), cmd_free (by decide +kernel),
    .inl (by decide +kernel), cmd_free (by decide +kernel), .inl (by decide +kernel), by decide +kernel⟩

/-- Slices that are added, removed, migrated, and released by MIGDONE. -/
theorem test_hyps_WorldAndKeyCommands_slices :
    let s := ruled 2 0 0
    let m := ruled 0x0200 0 0
    let f := (ruled 1 0 0).modSlice 5 (fun v => { v with forward := true, dest := some 1 })
    s.openLayout 1 ∧ s.cmdFree 1 true ∧ m.cmdFree 1 true ∧ m.openLayout 1 ∧ f.cmdFree 1 true ∧
      s.withArgs.sliceaddErr 1 = 0 ∧ (s.world 1).slices.getLast? = some 1 ∧ (s.bdc 1).brun = none ∧ s.launches = [] ∧
      m.withArgs.migrateErr 1 = 0 ∧ (m.world 1).slices[0]? = some 0 ∧ (m.bdc 0).brun = none ∧
      (m.slice 0).owner = some 1 ∧ m.memOk ∧ m.l2 = [] ∧ m.turn = [] ∧ f.withArgs.sourceOf 1 (1 % 256) = some 5 :=
  ⟨.inl (by decide +kernel), cmd_free (by decide +kernel), cmd_free (by decide +kernel), .inl (by decide +kernel),
    cmd_free (by decide +kernel), by decide +kernel⟩

/-- The state in which the placed launch of world 1 is still there, with arguments for a command. -/
def ruledRing (a b : Word64) : State := { g0 with cmdif := { warg0 := a, warg1 := b } }

theorem test_hyps_WorldAndKeyCommands_launches :
    let s := ruledRing 0x10000 0x20000
    let e := ruledRing 0 0
    let d : State := { (ruled 0 0 0).modWorld 1 (fun w => { w with rects := [], slices := [] }) with slices := [] }
    s.cmdFree 1 true ∧ s.coresClean (worldCores (s.world 1)) ∧ e.cmdFree 1 true ∧ d.cmdFree 1 true ∧ d.openLayout 1 ∧
      (∀ k ∈ s.worldGroups 1, (s.group k).accs = []) ∧ s.holders 1 = [] ∧
      s.storesOut 1 = [] ∧ s.runningCmds 1 = [] ∧ s.engineOut = [] ∧ (s.world 1).faults = [] ∧ s.ringsOf 1 = [0] ∧ s.troupesOf 0 = [0] ∧
      (s.troupe 0).resident = true ∧ (s.troupe 0).retired = false ∧ (s.troupe 0).halting = none ∧
      e.openLaunch 1 0 = some 0 ∧ e.microSlice 0 = none ∧ (e.launch 0).micro = false ∧ (e.launch 0).failed = false ∧
      (e.launch 0).ended = false ∧ (e.launch 0).placed = true ∧ e.launchGroups 0 = [0] ∧
      s.openLaunch 1 (0x10000 % 2 ^ 32) = none ∧ (d.world 1).rects = [] ∧ d.slicesOf 1 = [] ∧ d.launches = [] ∧
      (d.world 1).keyid = some 1 :=
  ⟨cmd_free (by decide +kernel), clean_of (by decide +kernel), cmd_free (by decide +kernel),
    cmd_free (by decide +kernel), .inl (by decide +kernel), by decide +kernel⟩

/-- A slice that has left its world, with no command that waits for its scrub and with one. -/
theorem test_hyps_WorldAndKeyCommands_scrub :
    let s := (ruled 0 0 0).modSlice 3 (fun v => { v with scrubbed := false })
    let w : State := { s with cmdif := { s.cmdif with wbusy := true, wpend := some (.slicerem 1), wslice := some 3 } }
    w.openLayout 1 ∧ (s.slice 3).owner = none ∧ (s.slice 3).scrubbed = false ∧ (s.slice 3).hostScrub = false ∧
      s.cmdif.wpend = none ∧ w.cmdif.wpend = some (.slicerem 1) ∧ w.cmdif.wslice = some 3 ∧ (w.slice 3).owner = none ∧
      (w.slice 3).scrubbed = false ∧ (w.slice 3).hostScrub = false :=
  ⟨.inl (by decide +kernel), by decide +kernel⟩

/-- World 1 without a key, its secrets drawn by the device and wrapped by the host; the first byte of a blob that is not
4, so that no point can be read; and the placed world, which holds identifier 1. -/
theorem test_hyps_WorldAndKeyCommands_keys :
    let s : State := { (ruled 0 0 0).modWorld 1 (fun w => { w with keyid := none }) with keys := [] }
    let h := s.modWorld 1 (fun w => { w with modes := 8 })
    let g := ruled 0 0 0
    g.openLayout 1 ∧ s.cmdif.kbusy = false ∧ (s.world 2).present = false ∧ s.bindErr 1 1 7 false = 0 ∧
      h.bindErr 1 1 7 true = 0 ∧ h.cmdif.kbusy = false ∧ h.unwrapBlob 1 7 = none ∧ s.holderOf 7 = none ∧
      g.holderOf 1 = some 1 ∧ g.l2Of 1 = [] ∧ g.cmdif.kbusy = false :=
  ⟨.inl (by decide +kernel), by decide +kernel⟩


/-- World 1 with an SPDM session and an interface state. -/
def spoken (t : Tdisp) (x : Session) : State := g0.modWorld 1 (fun w => { w with tdisp := t, session := x })

/-- Each state of the negotiation, of the session and of the interface that the requests tell apart. -/
theorem test_hyps_TrustExchange :
    let s := spoken .unlocked {}
    let n := spoken .locked { version := true, capabilities := true, algorithms := true, handshake := true }
    let o := spoken .run { algorithms := true, opened := true, bound := some 0, period := 10 }
    let p := spoken .run { opened := true, grace := some 7 }
    let q := { p with now := 7 + 2400000000 }
    let x := { o with now := 10 * 1200000000 }
    let z : State := { q with launches := [] }
    let m := z.modWorld 1 (fun w => { w with modes := 4 })
    let share := 2 ^ 256 * p256Base.1 + p256Base.2
    (s.world 2).present = false ∧ (s.world 1).present = true ∧ (s.world 1).session.version = false ∧
      (s.world 1).session.capabilities = false ∧ (s.world 1).session.algorithms = false ∧
      (s.world 1).session.handshake = false ∧ (s.world 1).session.opened = false ∧ (s.world 1).tdisp = .unlocked ∧
      (n.world 1).session.version = true ∧ (n.world 1).session.capabilities = true ∧
      (n.world 1).session.algorithms = true ∧ (n.world 1).session.handshake = true ∧ (n.world 1).tdisp = .locked ∧
      n.measurement 1 5 = some (1 + 4 * 0) ∧ n.measurement 1 6 = none ∧ (o.world 1).session.opened = true ∧
      (o.world 1).session.grace = none ∧ (o.world 1).tdisp = .run ∧
      (o.world 1).session.bound = some (o.world 1).lockgen ∧ (o.world 1).lockgen = 0 ∧
      (p.world 1).session.grace = some 7 ∧ p.now < 7 + 2400000000 ∧ 7 + 2400000000 ≤ q.now ∧
      (x.world 1).session.lastBeat + (x.world 1).session.period * 1200000000 ≤ x.now ∧ x.ringsOf 1 = [0] ∧
      x.troupesOf 0 = [0] ∧ (x.troupe 0).resident = true ∧ (s.world 0).present = true ∧
      (s.world 0).session.opened = false ∧
      ((s.modWorld 0 (fun w => { w with session := { opened := true } })).world 0).session.opened = true ∧
      z.launches = [] ∧ (z.world 1).slices = [0] ∧ (z.world 1).assisted 2 = false ∧ (m.world 1).assisted 2 = true ∧
      onP256 (sharePoint share) = true ∧ onP256 (sharePoint (share + 1)) = false := by
  decide +kernel

/-- Flows of world 1 from slice 0 to clusters 3 and 9: the packet of the second has failed once; one flow is at 2^40. And a
read through cluster port 3 of a sector that no cache holds. -/
theorem test_hyps_FabricDebugFleet_transport :
    let s := g0.modWorld 1 (fun w => { w with flows := [(3, 2 ^ 40)], resent := [(9, sectorOf 0x1e000)] })
    (∃ p ∈ (s.world 1).flows, 2 ^ 40 ≤ p.2) ∧ (s.world 1).present = true ∧ (s.world 2).present = false ∧
      s.flowOk 1 3 0x1e000 = true ∧ s.flowOk 1 9 0x1e000 = true ∧ s.flowOk 1 300 0x1e000 = false ∧
      (3, sectorOf 0x1e000) ∉ (s.world 1).resent ∧ (9, sectorOf 0x1e000) ∈ (s.world 1).resent ∧ (s.world 1).destroying = false ∧ (g0.world 1).flows = [] ∧
      s.l2Of 1 = [] ∧ (s.slice (sliceOfPa 0x1e000)).forward = false ∧ tabFind s.turn (sectorOf 0x1e000) = none ∧
      tabFind s.l2 (sectorOf 0x1e000) = none ∧ s.cachedInL2 1 0x1e000 = false ∧ s.portAccepts 1 0x1e000 = true ∧
      s.rowOk 0x1e000 = true ∧ (s.rowMeta 0x1e000).uncorr = false ∧
      tabGet 0 ((s.homeRead 1 0x1e000 4 (some 3)).1.world 1).flows 3 = 2 ^ 40 + 1 :=
  ⟨⟨(3, 2 ^ 40), by decide +kernel, by decide +kernel⟩, by decide +kernel⟩

/-- World 1 with an outbound aperture of 1 GiB by port 2 at the first peer address. -/
def peering (a : Access) : State :=
  (holding a).modWorld 1 (fun w => { w with apOut := [(0, some { port := 2, a := peerBase, b := 2 ^ 30, remote := 1 })] })

/-- A store in the write buffer and a load, to a peer. -/
theorem test_hyps_FabricDebugFleet_peer :
    let l (st : LaneStage) : LaneAcc := { part0 st with pa := peerBase + 64 }
    let b : Access := { access0 .store .mem .dev .done with left := true, lanes := [l .done] }
    let d : Access := { access0 (.load true) .mem .dev .ready with lanes := [l .ready] }
    let e : WEntry := { gid := 0, aid := 9, lane := 0, world := 1, pa := peerBase + 64, bytes := [1, 2, 3, 4], booth := false }
    let s := (peering b).modCore 0 (fun c => { c with wbuf := [e] })
    let u : State := { peering d with cores := [] }
    s.soleAccess 0 b (l .done) ∧ u.soleAccess 0 d (l .ready) ∧ (∀ k, (u.core k).wbuf = []) ∧
      deviceBytes ≤ (l .done).pa ∧ s.leavesBy (s.worldOf 0) 2 (l .done).pa = true ∧ b.allDone = true ∧
      s.coreHolding 0 b.aid 0 = some 0 ∧ (s.core 0).wbuf = [e] ∧ deviceBytes ≤ e.pa ∧
      s.leavesBy e.world 2 e.pa = true ∧ u.leavesBy (u.worldOf 0) 2 (l .ready).pa = true ∧ d.part = 4 ∧
      1 < scopeRank d.scope ∧ (u.troupe 0).hold = [] ∧ tabFind (u.core (u.coreOf 0)).l1 (sectorOf (l .ready).pa) = none ∧
      after (exec (.peerFlitReceive 2 true (.data 0 9 0 [1, 2, 3, 4])) u) (fun t =>
        (t.group 0).vr 5 0 == 0x04030201 && (t.group 0).accs == []) = true ∧
      after (exec (.peerFlitReceive 2 true (.ack 0 9 0)) s) (fun t =>
        (t.group 0).accs == [] && (t.core 0).wbuf == []) = true :=
  ⟨sole_of (by decide +kernel), sole_of (by decide +kernel), fun _ => rfl, by decide +kernel⟩

/-- An inbound aperture of port 2 to slice 0, and one that nothing is bound to; a sector being moved by a migration. -/
theorem test_hyps_FabricDebugFleet_inbound :
    let s := g0.modWorld 1 (fun w => { w with apIn := [(32, some { port := 2, a := 0, b := 1, remote := 0 })] })
    let r := s.modSlice 0 (fun v => { v with readOnly := true })
    s.reachesRow 1 0x1e000 ∧ s.inbound 2 0 0x1e000 = some (1, 0x1e000) ∧ s.inbound 2 1 0x1e000 = none ∧ s.inbound 2 16 0x1e000 = none ∧
      0x1e000 % 64 + ([1, 2] : List Byte).length ≤ 64 ∧ r.inbound 2 0 0x1e000 = some (1, 0x1e000) ∧
      r.homeBusy 1 0x1e000 true = true ∧
      after (exec (.inboundApertureAccess 2 0 0x1e000 true [1, 2]) s) (fun t => t.memByte 0x1e001 == 2) = true :=
  ⟨row_free (by decide +kernel), by decide +kernel⟩

/-- Host accesses to a slice that is exposed, to one that is not, by another function, and by function 0 to a slice that it
scrubs and to one that it does not; both kinds of request. -/
theorem test_hyps_FabricDebugFleet_host :
    let s := g0.modSlice 0 (fun v => { v with exposed := true })
    let t := (spoken .run { opened := true, bound := some 0 }).modSlice 0 (fun v => { v with exposed := true })
    let c := g0.modSlice 0 (fun v => { v with owner := none, scrubbed := false, hostScrub := true })
    let h := g0.modSlice 0 (fun v => { v with owner := none, scrubbed := false })
    let cause (u : State) : Bool := (u.slice 0).err.cause == 1 && (u.slice 0).err.count == 1
    s.reachesRow 1 0x1e000 ∧ (s.world 1).present = true ∧ 0x1e000 + 2 ≤ deviceBytes ∧ 0x1e000 % 64 + 2 ≤ 64 ∧
      (s.slice (sliceOfPa 0x1e000)).owner = some 1 ∧ (s.slice (sliceOfPa 0x1e000)).exposed = true ∧
      s.tdispAllows 1 false = true ∧ t.tdispAllows 1 true = true ∧ s.homeBusy 1 0x1e000 false = false ∧
      (g0.slice 0).exposed = false ∧ (s.slice (sliceOfPa 0x1e000)).owner ≠ some 2 ∧
      ((s.modWorld 2 (fun w => { w with present := true })).world 2).present = true ∧ s.tdispAllows 1 true = false ∧
      (c.world 0).present = true ∧ (c.slice 0).hostScrub = true ∧ (h.slice 0).hostScrub = false ∧
      after (exec (.hostCxlMemAccess 0 0x1e000 true false [7]) c) (fun u => u.memByte 0x1e000 == 7) = true ∧
      after (exec (.hostCxlMemAccess 0 0x1e000 true false [7]) h) cause = true ∧
      after (exec (.hostCxlMemAccess 1 0x1e000 true false [7]) g0) cause = true ∧
      after (exec (.hostCxlMemAccess 1 0x1e000 true false [7]) s) (fun u => u.memByte 0x1e000 == 7) = true :=
  ⟨row_free (by decide +kernel), by decide +kernel⟩

/-- The quiescence counter with nothing in flight, and with an access that was there at its last rise. -/
theorem test_hyps_FabricDebugFleet_quiet :
    let a := access0 (.load true) .mem .dev .ready
    let s : State := { holding a with qmark := [(0, 9)] }
    (∃ m ∈ s.qmark, m ∈ s.inFlight) ∧ (∀ m ∈ g0.qmark, m ∉ g0.inFlight) ∧ g0.invalidating = false :=
  ⟨⟨(0, 9), by decide +kernel, by decide +kernel⟩, by decide +kernel⟩

/-- The placed launch running, and stopped by the debugger; group 0 selected. -/
def stoppedLaunch : State :=
  let s := (g0.modLaunch 0 (fun l =>
    { l with stopped := true, hdr := some { placeHeader with tbar := [(0, 1)] } })).modTroupe 0 (fun t => { t with held := true })
  s.modGroup 0 (fun g => { g with halted := true })

theorem test_hyps_FabricDebugFleet_debug :
    let s := stoppedLaunch
    (g0.world 1).present = true ∧ g0.debugBusy 1 = false ∧ g0.debugLaunch 1 = some 0 ∧ (g0.launch 0).world = 1 ∧
      (tabFind g0.launches 0).isSome = true ∧ g0.debugStopped 1 = false ∧ g0.troupesOf 0 = [0] ∧
      (g0.troupe 0).resident = true ∧ (g0.troupe 0).halting = none ∧ (g0.troupe 0).retired = false ∧
      s.debugBusy 1 = false ∧ s.debugLaunch 1 = some 0 ∧ s.debugStopped 1 = true ∧ (s.launch 0).world = 1 ∧
      (tabFind s.launches 0).isSome = true ∧ s.stepBarrier 1 0 4 = some (1, 0) ∧ s.stepBarrier 1 0 0 = none ∧
      s.selectGroup 1 0 0 = some 0 ∧ (s.group 0).selects 0 0 0 = true ∧ (s.group 0).selects 4 0 0 = false ∧
      0 < (s.group 0).p ∧ s.live 0 = true := by
  decide +kernel

/-- Selections of each file and a write (bit 35), as fields of the value written to DBGSEL. -/
theorem test_hyps_FabricDebugFleet_selections :
    let v (file num lane write : Nat) : Nat := 2 ^ 17 * file + 2 ^ 20 * num + 2 ^ 29 * lane + 2 ^ 35 * write
    (∀ f < 5, v f 0 15 0 / 2 ^ 17 % 8 = f) ∧ (v 0 383 15 1 / 2 ^ 20 % 512 = 383) ∧ v 0 383 15 1 / 2 ^ 29 % 64 = 15 ∧
      (v 0 383 15 1).testBit 35 = true ∧ (v 0 383 15 0).testBit 35 = false ∧
      stoppedLaunch.selectGroup 1 0 (v 0 383 15 1) = some 0 ∧ (stoppedLaunch.group 0).r = 384 ∧
      (stoppedLaunch.group 0).w = 16 := by
  decide +kernel

/-- The rehearsal control idle and running; each range of a firmware image's length. -/
theorem test_hyps_FabricDebugFleet_control :
    let r := g0.modDbg 1 (fun d => { d with rhEn := true })
    let f (n : Word32) : State := { g0 with cmdif := { fwlen := n } }
    (g0.world 1).dbg.rhEn = false ∧ (r.world 1).dbg.rhEn = true ∧ (1 : Word64).getLsbD 0 = true ∧
      (2 : Word64).getLsbD 0 = false ∧ (f 4095).cmdif.fwlen.toNat < 4096 ∧ 4096 ≤ (f 4096).cmdif.fwlen.toNat ∧
      (f 4096).cmdif.fwlen.toNat ≤ 2 ^ 26 ∧ 2 ^ 26 < (f 0x4000001).cmdif.fwlen.toNat ∧ (g0.slice 0).owner.isSome = true ∧ g0.boots = true ∧
      ({ g0 with fwBad := true } : State).boots = false := by
  decide +kernel

/-! ## Encodings, steps, memory -/

theorem test_hyps_ScalarRoundTrip :
    (Instr.addi 5 3 (-12)).wf = true ∧ encodeScalar (.addi 5 3 (-12)) = some 0x04287ff4#32 ∧
      decodeScalar 0x04287ff4#32 = .ok (.addi 5 3 (-12)) := by
  decide +kernel

theorem test_hyps_LaneRoundTrip :
    (∃ w, encodeLane (.rep 1 1 0 1 3) = some w ∧ decodeLane w = .ok (.rep 1 1 0 1 3)) ∧
      (Instr.rep 1 1 0 1 3).wf = true ∧ (encodeLane (.rep 1 1 0 1 3)).isSome = true :=
  ⟨⟨0x7c0020100004000000000003, by decide +kernel, by decide +kernel⟩, by decide +kernel⟩

/-- `ADD s1, s2, s3` placed as a scalar word. -/
def added : State := State.reset.withFetchWord 32 (1 * 2 ^ 25 + 1 * 2 ^ 19 + 2 * 2 ^ 13 + 3 * 2 ^ 7)

/-- A line of the instruction cache that holds the word at the PC. -/
def cachedLine : State :=
  (withTlb added).modCore 0 (fun c => { c with icache := [(sectorOf 0x10000, { world := 1, bytes := [] })] })

/-- A lane word and a bank word that decode, placed at the head of a run; a scalar word of a base-die core. -/
theorem test_hyps_StepRunsDecoded :
    let l := State.reset.withFetchWord 96 0x7c0020100004000000000003
    let b := State.reset.withFetchWord 32 (0x52 * 2 ^ 25)
    let k := State.reset.withFetchWord 96 (0x3c0 * 2 ^ 86 + 127 * 2 ^ 20)
    let act : State := { added with agenda := [.act .clear, .issue (.group 0) false] }
    let iss : State := { added with agenda := [.issue (.group 0) false] }
    let dead : State := { act with booted := false }
    let ask : State := { added with agenda := [.trusted (.debugStop 1)] }
    let sure := ask.modWorld 1 (fun w => { w with tdisp := .run, session := { w.session with opened := true, bound := some 0 } })
    let turn : State := { added.modCore 0 (fun c => { c with slots := [(0, 0)] }) with agenda := [.rotate 0 0, .rotate 5 0] }
    let two : State := { (mapG (paired added) (fun g => { g with twin := false })).modCore 0 (fun c =>
      { c with slots := [(0, 0), (1, 1)] }) with agenda := [] }
    let o := two.offered
    two.scalarCan (two.ctxOf 0) = true ∧ two.scalarTurn (two.coreOf 0) (two.group 0).quarter = some 0 ∧
    o.cur = .group 0 ∧ o.curLane = false ∧ o.mayIssue (o.ctxOf 0) = true ∧ (o.group 0).delay = 0 ∧
    (match o.fetchScalar 0 with
      | (t, .bytes x) => decide (decodeScalarBytes x = .ok (.add 1 2 3)) && (t.rehearse (.add 1 2 3)).isNone
      | _ => false) = true ∧
    added.offered.cur = .group 0 ∧ added.scalarCan 0 = true ∧
    added.agenda = [] ∧ added.cur = .group 0 ∧ added.curLane = false ∧ added.mayIssue (added.ctxOf 0) = true ∧
      (added.group 0).delay = 0 ∧ (added.group 0).deferred = [] ∧ heldBy (added.group 0).wait = false ∧
      (match added.fetchScalar 0 with
        | (t, .bytes x) => decide (decodeScalarBytes x = .ok (.add 1 2 3)) && (t.rehearse (.add 1 2 3)).isNone
        | _ => false) = true ∧
      l.agenda = [] ∧ l.cur = .group 0 ∧ l.curLane = true ∧ l.laneMayIssue (l.laneHalf 0) = true ∧
      (match (l.group 0).laneq with
        | r :: _ => r.slice.isSome && !r.leadDone && r.rep.isNone && (match l.fetchLane 0 r with
          | (t, .bytes x) => decide (decodeLaneBytes x = .ok (.rep 1 1 0 1 3)) && (t.rehearse (.rep 1 1 0 1 3)).isNone
          | _ => false)
        | [] => false) = true ∧
      b.cur = .bdc 0 ∧ b.curLane = false ∧ (b.bdc 0).lid.isSome = true ∧ (b.bdc 0).halted = false ∧ (b.bdc 0).brun = none ∧
      (b.bdc 0).scodeBase ≤ (b.bdc 0).pc ∧ (b.bdc 0).pc + 4 ≤ (b.bdc 0).scodeBase + (b.bdc 0).scodeSize ∧
      (match decodeScalarBytes ((List.range 4).map (fun k =>
          tabGet 0 (b.bdc 0).scode ((b.bdc 0).pc - (b.bdc 0).scodeBase + k))) with
        | .ok _ => true
        | _ => false) = true ∧
      k.cur = .bdc 0 ∧ k.curLane = true ∧ ((k.bdc 0).brun.any (fun b => !b.ended && decide (12 * b.next + 12 ≤
        (k.bdc 0).lcodeSize))) = true ∧
      (match decodeLaneBytes ((List.range 12).map (fun j => tabGet 0 (k.bdc 0).lcode j)) with
        | .ok _ => true
        | _ => false) = true ∧
      (added.group 0).pc % 4 = 0 ∧ (added.launchOf 0).scodeBase ≤ (added.group 0).pc ∧
      (match cachedLine.xlate 0 1 0x10000 .fetch with
        | (t, .ok pa _ _) => (tabFind (t.core 0).icache (sectorOf pa)).any (fun v => !v.hurt (pa % 64) 4)
        | _ => false) = true ∧
      act.agenda = .act .clear :: [.issue (.group 0) false] ∧
      after (exec .clear { act with agenda := [.issue (.group 0) false] }) (fun _ => true) = true ∧
      iss.agenda = .issue (.group 0) false :: [] ∧ act.delivers .clear = true ∧ dead.delivers .clear = false ∧
      dead.agenda = act.agenda ∧ ask.agenda = [.trusted (.debugStop 1)] ∧ ask.takesTrusted (.debugStop 1) = false ∧
      sure.takesTrusted (.debugStop 1) = true ∧ sure.agenda = ask.agenda ∧
      turn.scalarTurn 0 0 = some 0 ∧ turn.scalarTurn 5 0 = none := by
  decide +kernel

theorem test_hyps_MemReadAfterWrite :
    (g0.slice (sliceOfPa 0x1e000)).forward = false ∧ g0.portAccepts 1 (0x1e000 / 64 * 64) = true ∧
      Memory.wf g0.mem = true ∧ Memory.wf [] = true := by
  decide +kernel

theorem test_hyps_MemCanonicalInvariant : added.memOk ∧ after (step added) (fun _ => true) = true :=
  ⟨by decide +kernel, by decide +kernel⟩

/-! ## Well-formedness -/

/-- Commands and events whose arguments name no unit (R13, R17, R25, R377, R407). -/
theorem test_wf_arguments :
    ([.create 63, .doorbell 63 3 0, .scrub 255, .quantumExpiry 895, .slicePortRead 0 (2 ^ 41 - 1),
      .counterReadLow 0 0xffff, .peerFlitReceive 11 true (.ack 0 0 0), .runStart 0 3 15] : List Instr).all Instr.wf = true ∧
      ([.launchTake 64, .doorbell 0 4 0, .lqcfg 64 0 0, .elcfg 64 0, .fqcfg 64 0, .freply 64 0, .fqhead 64 0, .scrub 256,
        .brunComplete 256, .quantumExpiry 896, .troupeResident 896, .runStart 896 0 0, .runStart 0 4 0, .runStart 0 0 16,
        .matrixFormCompletion 0 4 true, .slicePortRead 0 (2 ^ 41), .slicePortWrite 64 0, .transportPacketReceive 64 0 true 0,
        .counterReadLow 0 0x10000, .registerWrite 0 0x10000 0, .peerFlitReceive 12 true (.ack 0 0 0),
        .inboundApertureAccess 12 0 0 true [], .inboundApertureAccess 0 64 0 true [], .hostCxlMemAccess 64 0 true true [],
        .hostCxlMemAccess 0 (2 ^ 41) true true [], .getVersion 64, .debugStop 64, .rhctl 64 0] : List Instr).all
        (fun i => !i.wf) = true := by
  decide +kernel

/-- Words with a field that R86, R92, R102 or the form's own entry makes illegal: each differs in one field from a word
that is well formed. -/
theorem test_wf_words :
    ([.iadd (hd 1 2 3 0) none, .icmp (hd 0 2 3 0) 1 .eq, .limm (hd 1 0 511 255) 0, .bar .sync false 31 0 none,
      .mma (hd 64 32 388 389) .l .a6 false, .bmov (hd 1 2 0 0) 9, .bst (hd 0 2 0 0) 10 0 false false] : List Instr).all
        Instr.wf = true ∧
      ([.iadd { hd 1 2 3 0 with vc := 1 } none, .iadd { hd 1 2 3 0 with mc := ⟨1, 0⟩ } none,
        .iadd { hd 1 2 3 0 with k := true } none, .iadd { hd 1 2 3 0 with alw := true } none,
        .iadd { hd 1 2 3 0 with u := true, pr := 4 } none, .iadd (hd 1 2 3 0) (some 5),
        .iabs (hd 1 2 3 0), .bfe (hd 1 2 0 0) 0 33 false, .bfi (hd 1 2 3 0) 0 33, .icmp (hd 1 2 3 0) 1 .eq,
        .icmp (withMd (hd 0 2 3 0) 0 0 6) 1 .eq, .cadd128 (withMd (hd 0 4 8 0) 0 0 1) false,
        .cvt (withMd (hd 1 2 0 0) 1 0 0) .f32 .i32, .bscale (hd 1 2 3 0) .enc8, .limm (hd 1 0 0 256) 0,
        .shfl { hd 1 2 3 0 with u := true } .idx 127 none, .st (hd 0 1 384 2) .s8 false .dev 0,
        .sts (hd 0 1 2 3) .s16 false 0, .atom (hd 1 2 384 3) .fadd true .dev false false 0,
        .atoms (hd 1 2 3 4) .add false true false 0, .mma (hd 64 32 388 389) .i .a6 false,
        .mmat { hd 64 32 388 389 with pr := 4 } .f .a4 false, .mguide { hd 0 0 0 384 with k := true } 0,
        .demote { hd 0 0 0 0 with u := true }, .bmac (hd 1 2 3 0) 10, .bred (hd 1 2 0 0) 0, .bxch (hd 1 2 0 0) 0,
        .bmov (hd 1 2 0 0) 3, .bfma (hd 1 2 3 0) false 5, .bcvt (hd 1 2 0 0) false true 1,
        .bst (hd 0 2 0 0) 11 0 false false, .bst (hd 0 2 0 0) 2 0 false true, .setexm 0 3, .setfmtr 0 3,
        .cpyw none .ms 1 2 3, .cpyw none .sm 1 2 63, .bar .sync true 1 0 none, .bar .sync false 0 1 none,
        .satom .fadd .dev 1 2 3] : List Instr).all (fun i => !i.wf) = true := by
  decide +kernel

/-! ## Words written out from the encodings -/

/-- Format SR: OP, SD, SA, SB, FN (R84). -/
def sr (op d a b fn : Nat) : Nat := op * 2 ^ 25 + d * 2 ^ 19 + a * 2 ^ 13 + b * 2 ^ 7 + fn

/-- Formats SI and SB: OP, the two upper fields, and the low 13 bits (R84). -/
def si (op d a imm : Nat) : Nat := op * 2 ^ 25 + d * 2 ^ 19 + a * 2 ^ 13 + imm

/-- Format SU: OP, SD, IMM19; format SJ: OP, GF, OFF21 (R84). -/
def su (op d imm : Nat) : Nat := op * 2 ^ 25 + d * 2 ^ 19 + imm
/-- See `su`. -/
def sj (op gf off : Nat) : Nat := op * 2 ^ 25 + gf * 2 ^ 21 + off

/-- A lane word with modifiers zero, PR = 127 and E = 1: OP, VD, VA, VB, VC, IMM16 (R87). -/
def lw (op d a b c imm : Nat) : Nat :=
  op * 2 ^ 86 + d * 2 ^ 77 + a * 2 ^ 68 + b * 2 ^ 59 + c * 2 ^ 50 + 127 * 2 ^ 20 + 2 ^ 17 + imm

/-- Does each scalar word decode to its instruction, and to nothing else? -/
def reads32 (l : List (Nat × Instr)) : Bool := l.all (fun p => decodeTableWord 32 p.1 == some p.2)

/-- The same for lane words. -/
def reads96 (l : List (Nat × Instr)) : Bool := l.all (fun p => decodeTableWord 96 p.1 == some p.2)

/-- R95, R97, R123: the ALU forms, by FN. -/
theorem test_decode_alu : reads32
    [(0, .nop), (sr 1 1 2 3 0, .add 1 2 3), (sr 1 1 2 3 1, .sub 1 2 3), (sr 1 1 2 3 2, .mul 1 2 3),
      (sr 1 1 2 3 3, .mulh 1 2 3), (sr 1 1 2 3 4, .mulhn 1 2 3), (sr 1 1 2 3 5, .div 1 2 3),
      (sr 1 1 2 3 6, .divn 1 2 3), (sr 1 1 2 3 7, .rem 1 2 3), (sr 1 1 2 3 8, .remn 1 2 3),
      (sr 1 1 2 3 9, .and 1 2 3), (sr 1 1 2 3 10, .or 1 2 3), (sr 1 1 2 3 11, .xor 1 2 3),
      (sr 1 1 2 3 12, .andn 1 2 3), (sr 1 1 2 3 13, .shl 1 2 3), (sr 1 1 2 3 14, .shr 1 2 3),
      (sr 1 1 2 3 15, .sar 1 2 3), (sr 1 1 2 3 16, .min 1 2 3), (sr 1 1 2 3 17, .max 1 2 3),
      (sr 1 1 2 3 18, .minn 1 2 3), (sr 1 1 2 3 19, .maxn 1 2 3), (sr 1 1 2 3 20, .slt 1 2 3),
      (sr 1 1 2 3 21, .sltn 1 2 3), (sr 1 63 62 61 22, .seq 63 62 61)] = true := by
  decide +kernel

/-- R125 to R129, R132: immediates, scalar memory, branches. -/
theorem test_decode_immediates : reads32
    [(si 2 5 3 0x1ff4, .addi 5 3 (-12)), (si 3 5 3 7, .andi 5 3 7), (si 4 5 3 7, .ori 5 3 7), (si 5 5 3 7, .xori 5 3 7),
      (si 6 5 3 63, .shli 5 3 63), (si 7 5 3 1, .shri 5 3 1), (si 8 5 3 32, .sari 5 3 32), (si 9 5 3 7, .slti 5 3 7),
      (su 10 5 0x40000, .lui 5 0x40000), (su 11 5 9, .lpc 5 9), (sr 12 5 3 4 7, .lea 5 3 4 7),
      (si 0x10 5 3 2, .sld 5 3 2), (si 0x11 5 3 2, .sst 5 3 2), (si 0x12 5 3 2, .sldk 5 3 2),
      (si 0x18 4 1 3, .beq 4 1 3), (si 0x19 4 0 0x1ffd, .bne 4 0 (-3)), (si 0x1a 4 1 3, .blt 4 1 3),
      (si 0x1b 4 1 3, .bge 4 1 3), (si 0x1c 4 1 3, .bltn 4 1 3), (si 0x1d 4 1 3, .bgen 4 1 3)] = true := by
  decide +kernel

/-- R133 to R153: control flow, masks, guards, FMT, special registers, traps, the base-die core's forms. -/
theorem test_decode_control : reads32
    [(sj 0x1e 0 0x1fffff, .jmp (-1)), (sj 0x1f 0 5, .call 5), (sr 0x20 0 63 0 0, .ret 63), (sr 0x21 0 0 0 0, .exit),
      (sj 0x24 0 5, .setjoin 5), (0x25 * 2 ^ 25 + 3 * 2 ^ 18 + 2 ^ 17 + 4, .divergence 3 true 4), (sr 0x26 0 0 0 0, .join),
      (0x27 * 2 ^ 25 + 95 * 2 ^ 18 + 4, .bany 95 false 4), (0x28 * 2 ^ 25 + 3 * 2 ^ 18 + 4, .ball 3 false 4),
      (0x29 * 2 ^ 25 + 3 * 2 ^ 18 + 4, .bnone 3 false 4), (sr 0x2a 0 7 0 2, .setexm 7 2), (sr 0x2b 7 0 0 1, .getexm 7 true),
      (sr 0x2c 0 0 0 0, .twjoin), (sj 0x30 0 6, .run none 6), (sj 0x30 15 6, .run (some 7) 6), (sj 0x31 10 0, .gclr 2),
      (sj 0x32 8 0, .grd 0), (sj 0x33 9 3, .bg 1 3), (su 0x34 0 0x3fff, .setfmt 0x3fff), (sr 0x35 0 7 0 1, .setfmtr 7 1),
      (sr 0x36 7 0 0 0, .getfmt 7 false), (su 0x48 0 0x7ffff, .trap 0x7ffff), (sr 0x49 0 0 0 0, .rte),
      (si 0x4a 7 0 (0x80 + 0x14), .sprr 7 0x14 true), (si 0x4b 0 7 1, .sprw 1 false 7), (sr 0x4c 0 0 0 0, .yield),
      (su 0x4d 0 1, .brk 1), (0xa0308280, .brun 6 4 5), (sr 0x51 9 0 0 1, .mbxget 9 true), (sr 0x52 0 9 0 0, .mbxput 9)] =
    true := by
  decide +kernel

/-- R216 to R234: engine commands, barriers, fences, scalar atomics; 0x8400_0010 and 0x8000_0305 are the spec's own
examples (R231, R311). -/
theorem test_decode_engines : reads32
    [(sr 0x38 1 2 3 1, .cpy none .sm 1 2 3), (sr 0x38 1 2 3 (8 * 8), .cpy (some 0) .ms 1 2 3),
      (sr 0x38 1 2 3 3, .cpy none .ss 1 2 3), (sr 0x39 1 2 62 (15 * 8 + 2), .cpyw (some 7) .mm 1 2 62),
      (sr 0x3a 1 2 3 0, .gth none 1 2 3), (sr 0x3b 1 2 3 0, .sct none 1 2 3), (sr 0x3c 1 2 3 1, .coll none .redscat 1 2 3),
      (sr 0x3c 1 2 3 3, .coll none .bcast 1 2 3), (sr 0x3d 1 2 3 1, .bnk none true 1 2 3),
      (0x80000705, .bar .sync false 5 0 none), (0x80000305, .bar .sync false 5 0 (some .die)),
      (si 0x40 0 7 (2 * 32 + 128 + 5 * 256), .bar .wait true 0 7 (some .sys)), (si 0x41 0 0 (1 + 4 * 4), .fence .rel .dev),
      (0x84000010, .pfence .ls .mtx .grp), (si 0x42 0 0 (7 + 8 * 6 + 64 * 5), .pfence .atom .bank .sys),
      (si 0x43 0 0 (3 + 8 * 63), .waitp .copy 63), (sr 0x44 1 2 3 (9 + 16 * 4), .satom .cas .dev 1 2 3)] = true := by
  decide +kernel

/-- R162 to R166: the lane integer forms. -/
theorem test_decode_lane_integer : reads96
    [(lw 0x000 1 2 3 0 0, .iadd (hd 1 2 3 0) none), (lw 0x000 1 2 0 0 (0x4000 + 0x3fff), .iadd (hd 1 2 0 0) (some (-1))),
      (lw 0x001 1 2 3 0 0, .isub (hd 1 2 3 0) none), (lw 0x002 1 2 3 0 0, .imul (hd 1 2 3 0) none),
      (lw 0x003 1 2 3 0 0, .imulh (hd 1 2 3 0) none), (lw 0x004 1 2 3 0 0, .imulhn (hd 1 2 3 0) none),
      (lw 0x005 1 2 3 4 0, .imad (hd 1 2 3 4) none), (lw 0x006 1 2 3 0 0, .imin (hd 1 2 3 0) none),
      (lw 0x007 1 2 3 0 0, .imax (hd 1 2 3 0) none), (lw 0x008 1 2 3 0 0, .iminn (hd 1 2 3 0) none),
      (lw 0x009 1 2 3 0 0, .imaxn (hd 1 2 3 0) none), (lw 0x00a 1 2 0 0 0, .iabs (hd 1 2 0 0)),
      (lw 0x00b 1 2 0 0 0, .ineg (hd 1 2 0 0)), (lw 0x00c 1 2 3 0 0, .laneAnd (hd 1 2 3 0) none),
      (lw 0x00d 1 2 3 0 0, .laneOr (hd 1 2 3 0) none), (lw 0x00e 3 466 0 0 0x4001, .laneXor (hd 3 466 0 0) (some 1)),
      (lw 0x00f 1 2 0 0 0, .inot (hd 1 2 0 0)), (lw 0x010 1 2 3 0 0, .laneShl (hd 1 2 3 0) none),
      (lw 0x011 1 2 3 0 0, .laneShr (hd 1 2 3 0) none), (lw 0x012 1 2 3 0 0, .laneSar (hd 1 2 3 0) none),
      (lw 0x013 1 2 3 0 0, .rotl (hd 1 2 3 0) none), (lw 0x014 1 2 0 0 (5 + 32 * 32 + 2048), .bfe (hd 1 2 0 0) 5 32 true),
      (lw 0x015 1 2 3 0 (5 + 32 * 7), .bfi (hd 1 2 3 0) 5 7), (lw 0x016 1 2 0 0 0, .popc (hd 1 2 0 0)),
      (lw 0x017 1 2 0 0 0, .clz (hd 1 2 0 0)), (lw 0x018 1 2 0 0 0, .brev (hd 1 2 0 0)),
      (lw 0x019 0 2 384 0 (1 + 128 * 9), .icmp (hd 0 2 384 0) 1 .gen), (lw 0x01a 0 4 14 0 1, .cadd128 (hd 0 4 14 0) true)] =
    true := by
  decide +kernel

/-- R167 to R176: the floating-point, conversion and special-function forms. -/
theorem test_decode_lane_float : reads96
    [(lw 0x040 1 2 3 0 0, .fadd (hd 1 2 3 0) .f32), (lw 0x041 1 2 3 0 1, .fsub (hd 1 2 3 0) .f16x2),
      (lw 0x042 1 2 3 0 2, .fmul (hd 1 2 3 0) .bf16x2), (lw 0x043 10 4 5 10 0, .ffma (hd 10 4 5 10) .f32),
      (lw 0x044 1 2 3 0 0, .fmin (hd 1 2 3 0) .f32), (lw 0x045 1 2 3 0 0, .fmax (hd 1 2 3 0) .f32),
      (lw 0x046 0 2 3 0 (2 + 4 * 95 + 512 * 7), .fcmp (hd 0 2 3 0) .bf16x2 95 .or),
      (lw 0x047 1 2 0 0 0, .fclass (hd 1 2 0 0) .f32), (lw 0x048 1 2 0 0 4, .frnd (hd 1 2 0 0) .f32 true),
      (lw 0x049 1 2 3 0 0, .fscale (hd 1 2 3 0) .f32), (lw 0x060 1 2 0 0 (6 + 16 * 2), .cvt (hd 1 2 0 0) .n32 .f16hi),
      (lw 0x061 1 2 0 0 (4 * 2), .bscale (hd 1 2 0 0) .enc4), (lw 0x061 1 2 3 0 2, .bscale (hd 1 2 3 0) .div),
      (lw 0x070 1 2 0 0 0, .rcp (hd 1 2 0 0)), (lw 0x071 1 2 0 0 0, .rsq (hd 1 2 0 0)),
      (lw 0x072 1 2 0 0 0, .sqrt (hd 1 2 0 0)), (lw 0x073 1 2 0 0 0, .exp2 (hd 1 2 0 0)),
      (lw 0x074 1 2 0 0 0, .log2 (hd 1 2 0 0)), (lw 0x075 1 2 0 0 0, .sinpi (hd 1 2 0 0)),
      (lw 0x076 1 2 0 0 0, .cospi (hd 1 2 0 0)), (lw 0x077 1 2 0 0 0, .tanh (hd 1 2 0 0))] = true := by
  decide +kernel

/-- R177 to R186: predicates, moves, cross-lane forms. -/
theorem test_decode_lane_moves : reads96
    [(lw 0x080 0 0 0 0 (1 + 128 * 2), .pand (hd 0 0 0 0) 1 2 false), (lw 0x081 0 0 0 0 (1 + 128 * 2), .por (hd 0 0 0 0) 1 2 false),
      (lw 0x082 0 0 0 0 (1 + 128 * 2), .pxor (hd 0 0 0 0) 1 2 false),
      (lw 0x083 0 0 0 0 (1 + 128 * 2), .pnot (hd 0 0 0 0) 1 2 false),
      (lw 0x084 0 0 0 0 (1 + 128 * 2 + 0x4000), .pmov (hd 0 0 0 0) 1 2 true), (lw 0x085 1 0 0 0 7, .ptoi (hd 1 0 0 0) 7),
      (lw 0x086 1 2 3 0 (7 + 128), .sel (hd 1 2 3 0) 7 true), (lw 0x087 1 2 0 0 0, .mov (hd 1 2 0 0)),
      (lw 0x088 1 0 511 255 0x7fff, .limm (hd 1 0 511 255) 0x7fff),
      (lw 0x0a0 1 2 0 0 (3 + 4 * 127 + 512 * 31 + 0x4000), .shfl (hd 1 2 0 0) .xor 127 (some 31)),
      (lw 0x0a1 1 0 0 0 (7 + 128 + 256 * 2), .vote (hd 1 0 0 0) 7 true .ballot),
      (lw 0x0a2 1 2 0 0 10, .redux (hd 1 2 0 0) .fmax), (lw 0x0a3 1 2 0 0 (16 + 5), .scan (hd 1 2 0 0) .and true),
      (lw 0x0a4 0 0 3 0 0x0401, .regroup (hd 0 0 3 0) 1 2), (lw 0x0a5 0 0 0 0 0, .demote (hd 0 0 0 0)),
      (lw 0x0a6 0 0 0 0 0x0051, .vguard (hd 0 0 0 0) 1 false 5 false)] = true := by
  decide +kernel

/-- R189, R194, R198, R235, R236: memory, random and matrix forms. -/
theorem test_decode_lane_memory : reads96
    [(lw 0x0c0 3 1 389 0 0x0044, .ld (hd 3 1 389 0) .w32 false .dev 0),
      (lw 0x0c1 0 5 392 4 0x0844, .st (hd 0 5 392 4) .w32 false .dev 16),
      (lw 0x0c2 1 2 3 0 (8 + 6), .lds (hd 1 2 3 0) .w128 true 0), (lw 0x0c3 0 2 3 4 (128 * 255), .sts (hd 0 2 3 4) .z8 false (-1)),
      (lw 0x0c4 1 2 3 0 3, .ldc (hd 1 2 3 0) .s16 false 0), (lw 0x0c5 0 2 384 0 16, .pref (hd 0 2 384 0) false true 0),
      (lw 0x0d0 1 2 384 3 (9 + 16 + 32 * 5 + 1024 * 31), .atom (hd 1 2 384 3) .cas true .sys false false (-1)),
      (lw 0x0d1 0 2 3 4 (10 + 256 + 512), .atoms (hd 0 2 3 4) .fadd false true true 0),
      (lw 0x0e0 4 0 389 0 1, .rngx (hd 4 0 389 0) true), (lw 0x100 64 32 388 389 0, .mma (hd 64 32 388 389) .f .a4 false),
      (lw 0x101 32 16 384 390 (2 + 4 + 32), .mmat (hd 32 16 384 390) .l .a6 true),
      (lw 0x102 48 32 32 393 15, .mguide (hd 48 32 32 393) 15), (lw 0x103 64 0 0 0 31, .mzero (hd 64 0 0 0) 31),
      (0x1f0 * 2 ^ 86 + 511 * 2 ^ 77 + 1 * 2 ^ 68 + 2 * 2 ^ 59 + 256 * 2 ^ 50 + 63, .rep (-1) 1 2 (-256) 63),
      (0x1f1 * 2 ^ 86 + 2 ^ 17, .laneNop true), (0x1f1 * 2 ^ 86, .laneNop false)] = true := by
  decide +kernel

/-- R248: the bank forms; 0xF140_4010 … are the spec's own words (R259). -/
theorem test_decode_bank : reads96
    [(lw 0x3c0 0 0 0 0 0x7fff, .bact (hd 0 0 0 0) 0x7fff), (lw 0x3c1 0 0 0 0 0, .bpre (hd 0 0 0 0)),
      (lw 0x3c2 1 0 0 0 0, .brd (hd 1 0 0 0)), (lw 0x3c3 0 1 0 0 0, .bwr (hd 0 1 0 0)),
      (lw 0x3c4 1 2 3 0 (1 + 2 * 6), .bfma (hd 1 2 3 0) true 6), (lw 0x3c5 2 1 0 0 6, .bmac (hd 2 1 0 0) 6),
      (0xf140401000000000 * 2 ^ 32 + 0x07f00006, .bmac { hd 2 1 0 0 with e := false } 6),
      (lw 0x3c6 1 2 3 0 (1 + 2 * 4), .badd (hd 1 2 3 0) true 4), (lw 0x3c7 1 2 3 0 0, .bmul (hd 1 2 3 0) false 0),
      (lw 0x3c8 1 2 0 0 (1 + 4 * 7), .bcvt (hd 1 2 0 0) true false 7), (lw 0x3c8 1 2 0 0 2, .bcvt (hd 1 2 0 0) false true 0),
      (lw 0x3c9 1 2 0 0 8, .bred (hd 1 2 0 0) 8), (lw 0x3ca 1 2 0 0 15, .bxch (hd 1 2 0 0) 15),
      (lw 0x3cb 1 2 0 0 9, .bmov (hd 1 2 0 0) 9), (lw 0x3cc 0 2 0 0 5, .bst (hd 0 2 0 0) 5 0 false false),
      (lw 0x3cc 3 0 0 0 (10 + 16 * 511 + 0x2000 + 0x4000), .bst (hd 3 0 0 0) 10 511 true true),
      (lw 0x3cd 7 0 0 0 0, .bzero (hd 7 0 0 0))] = true := by
  decide +kernel

/-- Every shared field of a lane word at its place (R87, R90, R91): modifiers, PR, PN, U, K, ALW. -/
theorem test_decode_shared_fields : reads96
    [(lw 0x043 10 4 5 10 0 + (1 * 8 + 3) * 2 ^ 45 + (2 * 8 + 4) * 2 ^ 40 + (3 * 8 + 7) * 2 ^ 35 +
        (3 * 64 + 5 * 8 + 6) * 2 ^ 27 - (127 - 95) * 2 ^ 20 + 2 ^ 19,
      .ffma { hd 10 4 5 10 with ma := ⟨1, 3⟩, mb := ⟨2, 4⟩, mc := ⟨3, 7⟩, md := ⟨3, 5, 6⟩, pr := 95, pn := true } .f32),
      (lw 0x0e0 4 0 389 0 0 + 2 ^ 18 + 2 ^ 15, .rngx { hd 4 0 389 0 with u := true, alw := true } false),
      (lw 0x100 64 32 388 389 0 + 2 ^ 16, .mma { hd 64 32 388 389 with k := true } .f .a4 false)] = true ∧
    decodeTableWord 96 (lw 0x0c1 0 3 386 9 0x0244 - 126 * 2 ^ 20) =
      some (.st { hd 0 3 386 9 with pr := 1 } .w32 false .dev 4) ∧
    lw 0x0c1 0 3 386 9 0x0244 - 126 * 2 ^ 20 = 0x3040003c * 2 ^ 64 + 0x10240000 * 2 ^ 32 + 0x00120244 := by
  decide +kernel

/-- Words that no form has: unassigned opcodes, reserved bits and illegal field values (R86, R93, R95 to R99, R102, R103). -/
theorem test_decode_refuses :
    ([0x0d * 2 ^ 25, 0x7f * 2 ^ 25, sr 1 1 2 3 23, 1, si 6 5 3 64, sj 0x1e 1 0, sj 0x30 1 0, sj 0x31 0 0, sj 0x31 8 1,
      sr 0x20 1 2 0 0, sr 0x38 1 2 3 4, sr 0x38 1 2 3 8, sr 0x39 1 2 3 0, sr 0x39 1 2 63 1, sr 0x3a 1 2 3 1, sr 0x3d 1 2 3 2,
      si 0x40 0 0 (3 * 32), si 0x40 0 0 (6 * 256), si 0x41 0 0 3, si 0x41 0 0 (6 * 4), si 0x42 0 0 (7 * 64), si 0x43 0 0 512,
      sr 0x44 1 2 3 10, sr 0x44 1 2 3 96, si 0x4a 1 1 0, si 0x4b 1 1 0, sr 0x50 1 2 3 1, sr 0x51 1 0 0 2] : List Nat).all
        (fun w => (decodeTableWord 32 w).isNone) = true ∧
      ([lw 0x01b 0 0 0 0 0, lw 0x3ce 0 0 0 0 0, lw 0 1 2 3 0 1, lw 0 1 2 3 1 0, lw 0x019 0 2 3 0 (128 * 10), lw 0x040 1 2 3 0 3,
        lw 0x043 1 2 3 4 0 + 2 ^ 16, lw 0x043 1 2 3 4 0x8000, lw 0x060 1 2 0 0 7, lw 0x061 1 2 0 0 3, lw 0x061 1 2 3 0 5,
        lw 0x0a2 1 2 0 0 11, lw 0x0c0 1 2 384 0 7, lw 0x0c0 1 2 384 0 (6 * 16), lw 0x0c5 0 2 384 0 (2 * 16),
        lw 0x0d0 1 2 384 3 11, lw 0x0d0 1 2 384 3 (6 * 32), lw 0x0d1 1 2 3 4 32, lw 0x0e0 4 0 389 0 2,
        lw 0x100 64 32 388 389 3, lw 0x100 64 32 388 389 20, lw 0x103 64 0 0 0 32, lw 0x1f0 0 0 0 0 0, lw 0x1f1 0 0 0 0 0,
        lw 0x3c1 1 0 0 0 0] : List Nat).all (fun w => (decodeTableWord 96 w).isNone) = true := by
  decide +kernel

/-! ## The algorithms of spec/20_trust.md, on vectors of their standards -/

/-- SHA-256 of "abc" (FIPS 180-2, B.1). -/
theorem test_sha256 :
    bytesNatBe (sha256 [0x61, 0x62, 0x63]) = 0xba7816bf8f01cfea414140de5dae2223b00361a396177a9cb410ff61f20015ad := by
  decide +kernel

/-- HMAC of "what do ya want for nothing?" under the key "Jefe" (RFC 4231, case 2); the key is filled up with zeros. -/
theorem test_hmac :
    bytesNatBe (hmacSha256 (0x4a656665 * 2 ^ 224) (labelBytes "what do ya want for nothing?"))
      = 0x5bdcc146bf60754e6a042426089575c75a003f089d2739839dec58b964ec3843 := by
  decide +kernel

/-- AES-256 (FIPS 197, C.3), and back. -/
theorem test_aes :
    let key := 0x000102030405060708090a0b0c0d0e0f101112131415161718191a1b1c1d1e1f
    aesEncrypt key 0x00112233445566778899aabbccddeeff = 0x8ea2b7ca516745bfeafc49904b496089 ∧
      aesDecrypt key 0x8ea2b7ca516745bfeafc49904b496089 = 0x00112233445566778899aabbccddeeff := by
  decide +kernel

/-- AES-256 KW of a 256-bit key (RFC 3394, 4.6). -/
theorem test_key_unwrap :
    (kwUnwrap 0x000102030405060708090a0b0c0d0e0f101112131415161718191a1b1c1d1e1f
        (natBytesBe 40 0x28c9f404c4b810f4cbccb35cfb87f8263f5786e2d80ed326cbc7f0e71a99f43bfb988b9b7a02dd21)).map bytesNatBe
      = some 0x00112233445566778899aabbccddeeff000102030405060708090a0b0c0d0e0f := by
  decide +kernel

/-- GCM with AES-256 of one block of zeros (test case 14 of its specification). -/
theorem test_gcm :
    bytesNatBe (gcmCipher 0 0 (List.replicate 16 0)) = 0xcea7403d4d606b6e074ec5d3baf39d18 ∧
      gcmTag 0 0 [] (gcmCipher 0 0 (List.replicate 16 0)) = 0xd0d1c8a799996bf0265b98b5d48ab919 := by
  decide +kernel

/-- The base point of P-256 is on the curve, and doubled it is the point that SEC lists. -/
theorem test_p256 :
    onP256 p256Base = true ∧
      p256Add (some p256Base) (some p256Base) = some
        (0x7cf27b188d034f7e8a52380304b51ac3c08969e277f21b35a60b48fc47669978,
         0x07775510db8ed040293d9ac69f7430dbba7dade63ce982299e04b79d227873d1) := by
  decide +kernel

/-! ## Steps on small states -/

/-- A step of the placed word leaves a state in which `p` holds. -/
def stepsTo (s : State) (p : State → Bool) : Bool := after (step s) p

/-- R134: the word after a word that no branch leaves is at the PC plus 4; `LUI s5, -1` writes -2^13 (R126). -/
theorem test_step_lui :
    stepsTo (State.reset.withFetchWord 32 (su 10 5 0x7ffff)) (fun t =>
      t.sreg (.group 0) 5 == BitVec.ofInt 64 (-8192) && (t.group 0).pc == 0x10004) = true := by
  decide +kernel

/-- R37: s0 takes no value. -/
theorem test_step_zero_register :
    stepsTo (State.reset.withFetchWord 32 (si 2 0 0 7)) (fun t =>
      t.sreg (.group 0) 0 == 0 && (t.group 0).pc == 0x10004) = true := by
  decide +kernel

/-- R99, R155: `LIMM v1, 0xFF80_8001` in every lane, from VC[7:0], VB and IMM16[14:0]. -/
theorem test_step_limm :
    stepsTo (State.reset.withFetchWord 96 (lw 0x088 1 0 0x101 0xff 1)) (fun t =>
      (t.group 0).vr 1 0 == 0xff808001 && (t.group 0).vr 1 15 == 0xff808001 && (t.group 0).vr 2 0 == 0) = true := by
  decide +kernel

/-- R103, R104, R383: a word that no form has ends the launch of a world that routes no class. -/
theorem test_step_not_an_instruction :
    stepsTo (State.reset.withFetchWord 32 (0x7f * 2 ^ 25)) (fun t => (t.launch 0).failed && !t.live 0) = true := by
  decide +kernel

/-- R114, R378, R415: CAPS, and KIND in the record of slice 0; a guest's window has no records, and no window of an
absent world reads anything. -/
theorem test_window_read :
    State.reset.windowRead 0 0 = 0xffff ∧ State.reset.windowRead 0 0x4000 = 0x15 ∧
      (State.reset.modWorld 3 (fun v => { v with present := true })).windowRead 3 0x4000 = 0 ∧ State.reset.windowRead 3 0 = 0 := by
  decide +kernel

/-- R386: the high half of a counter comes from the latch. -/
theorem test_window_latch :
    (State.reset.modWorld 0 (fun v => { v with latch := 0x1ffffffff, counters := [(0, 0x200000000)] })).windowRead 0 0x1004
      = 1 := by
  decide +kernel

/-- R438: a slot whose CXL.io read completes with an error stops its queue, and its record is not taken. -/
theorem test_slot_read_error :
    stepsTo { (State.reset.modWorld 0 (fun v => { v with lqs := [(0, { base := 4096, en := true, tail := 1 })] })) with
        agenda := [.act (.launchTake 0)], hostFails := [4096] } (fun t =>
      ((t.world 0).lq 0).err && ((t.world 0).lq 0).head == 0 && t.hostFails == []) = true := by
  decide +kernel

end Sys2Proof.Tests
end

/-! PROOFS. The scalar stream (spec/06_isa_scalar.md): division and shifts (R124), `SETJOIN` (R137) and `RTE` (R152). -/

namespace Sys2Proof.Machine

/-! ## Division and shifts as arithmetic on integers (R124) -/

theorem divSigned_eq (u v : Word64) : divSigned u v =
    if v = 0 then 0xffffffffffffffff
    else if u.toInt = -2 ^ 63 ∧ v.toInt = -1 then BitVec.ofInt 64 (-2 ^ 63)
    else BitVec.ofInt 64 (u.toInt.tdiv v.toInt) := by
  have hquot : u.sdiv v = BitVec.ofInt 64 (u.toInt.tdiv v.toInt) :=
    BitVec.eq_of_toInt_eq (by rw [BitVec.toInt_sdiv, BitVec.toInt_ofInt])
  unfold divSigned
  split
  · decide
  · split
    next h => rw [hquot, h.1, h.2]; decide
    next => exact hquot

theorem divUnsigned_eq (u v : Word64) : divUnsigned u v =
    if v = 0 then 0xffffffffffffffff else BitVec.ofNat 64 (u.toNat / v.toNat) := by
  unfold divUnsigned
  split
  · decide
  · exact BitVec.udiv_def

theorem remSigned_eq (u v : Word64) : remSigned u v =
    if v = 0 then u
    else if u.toInt = -2 ^ 63 ∧ v.toInt = -1 then 0
    else BitVec.ofInt 64 (u.toInt.tmod v.toInt) := by
  have hrem : u.srem v = BitVec.ofInt 64 (u.toInt.tmod v.toInt) := by
    rw [← BitVec.toInt_srem, BitVec.ofInt_toInt]
  unfold remSigned
  split
  · rfl
  · split
    next h => rw [hrem, h.1, h.2]; decide
    next => exact hrem

theorem remUnsigned_eq (u v : Word64) : remUnsigned u v =
    if v = 0 then u else BitVec.ofNat 64 (u.toNat % v.toNat) := by
  unfold remUnsigned
  rw [BitVec.umod_def]

theorem shiftLeft_eq_ofNat_mul (u : Word64) (n : Nat) : u <<< n = BitVec.ofNat 64 (u.toNat * 2 ^ n) :=
  BitVec.eq_of_toNat_eq (by rw [BitVec.toNat_shiftLeft, Nat.shiftLeft_eq, BitVec.toNat_ofNat])

theorem ushiftRight_eq_ofNat_div (u : Word64) (n : Nat) : u >>> n = BitVec.ofNat 64 (u.toNat / 2 ^ n) := by
  rw [← Nat.shiftRight_eq_div_pow, ← BitVec.toNat_ushiftRight, BitVec.ofNat_toNat, BitVec.setWidth_eq]

theorem sshiftRight_eq_ofInt_div (u : Word64) (n : Nat) : u.sshiftRight n = BitVec.ofInt 64 (u.toInt / 2 ^ n) := by
  have hpow : ((2 ^ n : Nat) : Int) = 2 ^ n := Int.natCast_pow 2 n
  rw [BitVec.sshiftRight, Int.shiftRight_eq_div_pow, hpow]

/-- A form whose meaning is the ALU form `f` of two registers completes on every operand and writes `f` of them. -/
theorem writesSreg_aluRR {i : Instr} {d x y : SReg} {f : Word64 → Word64 → Word64}
    (hi : ∀ s, exec i s = aluRR i d x y f s) :
    writesSreg i d (fun s a => f (s.sreg a x.toNat) (s.sreg a y.toNat)) := by
  intro s a hgo
  rw [hi]
  exact scalarResult_go hgo d _

/-- The same, when the operands and the result are known. -/
theorem wrote_of_aluRR {i : Instr} {d x y : SReg} {f : Word64 → Word64 → Word64} {s : State} {a : Agent}
    {u v r : Word64} (hi : ∀ s, exec i s = aluRR i d x y f s) (hx : s.sreg a x.toNat = u) (hy : s.sreg a y.toNat = v)
    (hr : f u v = r) (hgo : s.scalarGo a .both i) : ∃ t, exec i s = .next t ∧ s.wrote t a d r := by
  rw [← hr, ← hx, ← hy]
  exact writesSreg_aluRR hi s a hgo

/-- Settles O2: each form is an ALU form of two registers whose function is the arithmetic of R124. -/
theorem divisionEdges : Obligations.DivisionEdges := by
  refine ⟨fun d x y => ⟨?_, ?_, ?_, ?_, ?_, ?_, ?_⟩, by decide, fun s a hx hy => ⟨?_, ?_, ?_⟩⟩
  · simpa only [divSigned_eq] using writesSreg_aluRR (exec_div · d x y)
  · simpa only [divUnsigned_eq] using writesSreg_aluRR (exec_divn · d x y)
  · simpa only [remSigned_eq] using writesSreg_aluRR (exec_rem · d x y)
  · simpa only [remUnsigned_eq] using writesSreg_aluRR (exec_remn · d x y)
  · simpa only [shiftLeft_eq_ofNat_mul, shAmount] using writesSreg_aluRR (exec_shl · d x y)
  · simpa only [ushiftRight_eq_ofNat_div, shAmount] using writesSreg_aluRR (exec_shr · d x y)
  · simpa only [sshiftRight_eq_ofInt_div, shAmount] using writesSreg_aluRR (exec_sar · d x y)
  · exact wrote_of_aluRR (exec_divn · 7 8 9) hx hy (by decide)
  · exact wrote_of_aluRR (exec_div · 7 8 9) hx hy (by decide)
  · exact wrote_of_aluRR (exec_rem · 7 8 9) hx hy (by decide)

/-! ## The PC after a word, the group that executes, and its halves -/

theorem pcPlus_eq_wordsFrom {n : Nat} (pc : Nat) (off : BitVec n) : pcPlus pc off = wordsFrom pc off.toInt := by
  have hsum : BitVec.ofNat 64 pc + BitVec.ofInt 64 (4 * off.toInt) = BitVec.ofInt 64 ((pc : Int) + 4 * off.toInt) := by
    rw [BitVec.ofInt_add, BitVec.ofInt_natCast]
  rw [pcPlus, hsum, BitVec.toNat_ofInt]
  rfl

theorem pcNext_eq_wordsFrom (pc : Nat) : pcNext pc = wordsFrom pc 1 := by
  unfold pcNext wordsFrom
  omega

/-- The context that executes is the lead of its pair while the pair is converged. -/
theorem leadOf_of_running {s : State} {gid : Nat} (h : s.running = some (.group gid))
    (hconv : (s.group gid).converged = true) : leadOf gid = gid := by
  have hctx := ctxOf_of_running h
  rwa [State.ctxOf, if_pos hconv] at hctx

theorem live_of_scalarGo {s : State} {gid : Nat} {k : Kinds} {i : Instr} (hgo : s.scalarGo (.group gid) k i) :
    s.live gid = true := by
  obtain ⟨-, -, -, hgroup⟩ := hgo
  exact (hgroup gid rfl).1

theorem halvesOf_of_not_converged {s : State} {gid : Nat} (h : (s.group gid).converged = false) :
    s.halvesOf gid = [gid] := by
  simp [State.halvesOf, h]

theorem halvesOf_of_converged {s : State} {gid : Nat} (h : (s.group gid).converged = true) :
    s.halvesOf gid = [leadOf gid, leadOf gid + 1] := by
  simp [State.halvesOf, h]

/-- A change of a group that keeps its pairing and its PC keeps the PC of every stream. -/
theorem pcOf_modGroup_keep (s : State) (k : Nat) (f : Group → Group) (hconv : ∀ g, (f g).converged = g.converged)
    (hpc : ∀ g, (f g).pc = g.pc) (a : Agent) : (s.modGroup k f).pcOf a = s.pcOf a := by
  cases a with
  | none => rfl
  | group gid =>
    simp only [State.pcOf, ctxOf_modGroup s k f hconv, group_modGroup]
    split
    next h => rw [hpc, h.1]
    next => rfl
  | bdc sl => rfl

/-! ## `SETJOIN` (R137) -/

/-- Settles O8: the halves' JOINPC and JV are set, then the stream advances. -/
theorem joinRegister : Obligations.JoinRegister := by
  intro off s gid hgo put
  have hctx := ctxOf_of_running hgo.1
  have hexec : exec (.setjoin off) s =
      .next (((s.halvesOf gid).foldl (fun s k => s.modGroup k put) s).advance (.group gid)) := by
    rw [exec_setjoin, execSetjoin, scalarWord_go hgo]
    simp only [State.pcOf, hctx, pcPlus_eq_wordsFrom]
    rfl
  have hput (u : State) (k : Nat) : (u.modGroup k put).pcOf (.group gid) = u.pcOf (.group gid) :=
    pcOf_modGroup_keep u k put (fun _ => rfl) (fun _ => rfl) _
  have hpc : pcNext (s.pcOf (.group gid)) = wordsFrom (s.group gid).pc 1 := by
    rw [pcNext_eq_wordsFrom, State.pcOf, hctx]
  refine ⟨⟨_, rfl⟩, fun halone => ?_, fun hpair => ?_⟩
  · have hctx' : (s.modGroup gid put).ctxOf gid = gid := by
      rw [ctxOf_modGroup s gid put (fun _ => rfl), hctx]
    rw [hexec, halvesOf_of_not_converged halone, List.foldl_cons, List.foldl_nil, State.advance, hput, hpc,
      setPc_group hctx', modGroup_modGroup]
  · rw [hexec, halvesOf_of_converged hpair, List.foldl_cons, List.foldl_cons, List.foldl_nil, State.advance, hput,
      hput, hpc]

/-! ## `RTE` (R152) -/

/-- Every group has the same PC, trap mode and pairing in both states. -/
def State.sameTrapContext (s t : State) : Prop :=
  ∀ k, (t.group k).pc = (s.group k).pc ∧ (t.group k).trapMode = (s.group k).trapMode ∧
    (t.group k).converged = (s.group k).converged

namespace State.sameTrapContext

theorem refl (s : State) : s.sameTrapContext s := fun _ => ⟨rfl, rfl, rfl⟩

theorem trans {s t u : State} (h : s.sameTrapContext t) (h' : t.sameTrapContext u) : s.sameTrapContext u := by
  intro k
  obtain ⟨hpc, hmode, hconv⟩ := h k
  obtain ⟨hpc', hmode', hconv'⟩ := h' k
  exact ⟨hpc'.trans hpc, hmode'.trans hmode, hconv'.trans hconv⟩

theorem modGroup (s : State) (k : Nat) {f : Group → Group}
    (hf : ∀ g, (f g).pc = g.pc ∧ (f g).trapMode = g.trapMode ∧ (f g).converged = g.converged) :
    s.sameTrapContext (s.modGroup k f) := by
  intro j
  rw [group_modGroup]
  split
  next h => rw [h.1]; exact hf _
  next => exact ⟨rfl, rfl, rfl⟩

theorem foldl {α : Type} {f : State → α → State} (hf : ∀ (s : State) x, s.sameTrapContext (f s x)) (l : List α)
    (s : State) :
    s.sameTrapContext (l.foldl f s) := by
  induction l generalizing s with
  | nil => exact refl s
  | cons x l ih => exact (hf s x).trans (ih (f s x))

theorem pcOf {s t : State} (h : s.sameTrapContext t) (gid : Nat) : t.pcOf (.group gid) = s.pcOf (.group gid) := by
  simp only [State.pcOf, State.ctxOf, (h gid).2.2, (h _).1]

theorem dropGuard (s : State) (gid : Nat) (k : Option Nat) : s.sameTrapContext (s.dropGuard gid k) := by
  cases k with
  | none => exact refl s
  | some k => exact modGroup s _ fun _ => ⟨rfl, rfl, rfl⟩

theorem laneDoneBoth (s : State) (gid : Nat) (e : Bool) : s.sameTrapContext (s.laneDoneBoth gid e) := by
  refine foldl (fun s k => modGroup s k fun g => ?_) _ s
  unfold Group.stepRun
  split
  · exact ⟨rfl, rfl, rfl⟩
  · split <;> exact ⟨rfl, rfl, rfl⟩

theorem skipWord (s : State) (gid : Nat) : s.sameTrapContext (s.skipWord gid) := by
  unfold State.skipWord
  split
  · exact laneDoneBoth s gid _
  · exact refl s

end State.sameTrapContext

/-- `s` after the scalar part of a return from a handler: the PC is TEPC, and trap mode is over. -/
def State.leftTrapMode (s : State) (gid : Nat) : State :=
  s.modGroup gid (fun g => { g with pc := g.tepc, trapMode := false, wait := none })

/-- What LSKIP and LDROP do to the lane queue changes no PC and no trap mode. -/
theorem sameTrapContext_returnFromTrap (s : State) (gid : Nat) :
    (s.leftTrapMode gid).sameTrapContext (s.returnFromTrap gid State.skipWord) := by
  unfold State.returnFromTrap
  dsimp only
  split
  · refine .foldl (fun u k => ?_) _ _
    refine .trans (.foldl (fun u r => ?_) _ u) (.modGroup _ k fun _ => ⟨rfl, rfl, rfl⟩)
    split
    · exact .refl u
    · exact .dropGuard u gid r.guard
  · split
    · exact .skipWord _ gid
    · exact .refl _

/-- Without LW, or without LSKIP and LDROP, a return leaves the lane queue where it stood (R331). -/
theorem returnFromTrap_of_no_skip {s : State} {gid : Nat}
    (h : (s.group gid).tcause.getLsbD 4 = false ∨
      ((s.group gid).tcause.getLsbD 6 = false ∧ (s.group gid).tcause.getLsbD 7 = false))
    (skip : State → Nat → State) : s.returnFromTrap gid skip = s.leftTrapMode gid := by
  unfold State.returnFromTrap State.leftTrapMode
  rcases h with hlw | ⟨hskip, hdrop⟩
  · simp only [hlw, Bool.false_and, Bool.false_eq_true, if_false]
  · simp only [hskip, hdrop, Bool.and_false, Bool.false_and, Bool.false_eq_true, if_false]

theorem pcOf_leftTrapMode {s : State} {gid : Nat} (hctx : s.ctxOf gid = gid) (hlive : s.live gid = true) :
    (s.leftTrapMode gid).pcOf (.group gid) = (s.group gid).tepc :=
  pcOf_modGroup hctx hlive _ fun _ => rfl

theorem trapMode_leftTrapMode {s : State} {gid : Nat} (hlive : s.live gid = true) :
    ((s.leftTrapMode gid).group gid).trapMode = false := by
  rw [State.leftTrapMode, group_modGroup_same _ hlive]

/-- What `RTE` does in a group that executes it. -/
theorem exec_rte_group {s : State} {gid : Nat} (hgo : s.scalarGo (.group gid) .both .rte) :
    exec .rte s = .next (
      if (s.group gid).trapMode = false then s.trap (.group gid) 1 4 (scalarTval .rte)
      else if (s.group gid).tepc % 4 ≠ 0 then s.trap (.group gid) 3 1 (BitVec.ofNat 64 (s.group gid).tepc)
      else s.returnFromTrap gid State.skipWord) := by
  rw [exec_rte, execRte, scalarWord_go hgo]
  simp only [Bool.not_eq_true']

/-- Settles O19: the three cases of `RTE` in a group, and its trap in a base-die core, which has no trap mode. -/
theorem returnFromTrap : Obligations.ReturnFromTrap := by
  refine ⟨⟨0x49#7, by decide⟩, fun s gid hgo => ⟨fun hmode => ?_, fun hmode htepc => ?_, fun hmode htepc => ?_⟩,
    fun s sl hgo => ?_⟩
  · rw [exec_rte_group hgo, if_pos hmode]
  · have hctx := ctxOf_of_running hgo.1
    have hlive := live_of_scalarGo hgo
    have hsame := sameTrapContext_returnFromTrap s gid
    have hexec : exec .rte s = .next (s.returnFromTrap gid State.skipWord) := by
      rw [exec_rte_group hgo, if_neg (by simp [hmode]), if_neg (by simp [htepc])]
    refine ⟨_, hexec, ?_, ?_, fun hlane => returnFromTrap_of_no_skip hlane _⟩
    · rw [hsame.pcOf, pcOf_leftTrapMode hctx hlive]
    · obtain ⟨-, hmode', -⟩ := hsame gid
      rw [hmode', trapMode_leftTrapMode hlive]
  · rw [exec_rte_group hgo, if_neg (by simp [hmode]), if_pos htepc]
  · rw [exec_rte, execRte, scalarWord_go hgo]

end Sys2Proof.Machine
